-- ==== Sys2Proof/Word.lean ====
section
/-! DEFINITION. The word types of the Z9-1280M and their plainest arithmetic. Registers, words and fields that the
manual treats as bits are bit vectors (00 R2); counts, indices and memory keys are natural numbers. -/

namespace Sys2Proof

/-- A byte of memory. -/
abbrev Byte := BitVec 8

/-- A 32-bit instruction or slot word (04 R57, R64). -/
abbrev Word32 := BitVec 32

/-- A 64-bit strand register (02 R29). -/
abbrev Word64 := BitVec 64

/-- The 256 data bits of a cell (16 R228). -/
abbrev CellData := BitVec 256

/-- The 512 data bits of an element register or a stream token (07 R105). -/
abbrev Line := BitVec 512

/-- A general-register number of a strand (04 R57). -/
abbrev GReg := BitVec 5

/-- An operand select of an element slot (04 R64). -/
abbrev Sel := BitVec 5

end Sys2Proof
end

