-- ==== Sys2Proof/Syntax.lean ====
section
/-! DEFINITION. The syntax of the Z9-1280M: one constructor of `Instr` per row of the opcode table. A row with a word
(sequencer instruction, 04 R57, 05 R78–R80; element slot, 04 R64, 05 R81–R83) carries the fields of its encoding; an
event, which has no word, carries the unit it happens at. Units are numbered flat: cluster c = 16·die + cluster (0–143),
strand k = 8·c + strand, element e = 12·c + index, memory tile t = 6·c + index, memory-port tile p = 3·c + index, home
slice h = 24·die + slice; launches, groups and commands by the numbers the state gives them. -/

namespace Sys2Proof

/-- The fields of an element slot word other than its opcode (04 R64). -/
structure Slot where
  trig : BitVec 6
  dst  : Sel
  srcA : Sel
  srcB : Sel
  deqA : Bool
  deqB : Bool
  bit0 : Bool
deriving DecidableEq, Repr

/-- Who waits on a cell: a strand, an engine command of a memory-port tile, or slot n of a host function (16 R231,
R233; 23 R338), or the fill that heads a function's posted queue (23 R336). -/
inductive Waiter where
  | strand (k : Nat)
  | engine (p id : Nat)
  | host (f n : Nat)
  | fill (f : Nat)
deriving DecidableEq, Repr

/-- A control register written from outside the strands: a unit's register by absolute identifier and number (06 R89),
or a register of a function's control window by offset (23 R337). -/
inductive RegRef where
  | unit (u : BitVec 16) (num : BitVec 16)
  | host (f : Nat) (off : BitVec 16)
deriving DecidableEq, Repr

/-- A request that arrives at a UALink port: an atomic of R350 or a write of two cells of a PUT portal (23 R350, R351). -/
inductive PeerReq where
  | atomic (job : Nat) (op : Nat) (dbl : Bool) (va : Word64) (operand cmp : Word64)
  | put (job : Nat) (va : Word64) (d0 d1 : CellData) (c0 c1 : BitVec 28) (fill : Bool)
deriving DecidableEq, Repr

/-- One constructor per row of the opcode table, in the table's order. -/
inductive Instr where
  /-- ADD (R93). -/
  | add (gd ga gb : GReg)
  /-- SUB (R93). -/
  | sub (gd ga gb : GReg)
  /-- MUL (R93). -/
  | mul (gd ga gb : GReg)
  /-- MULH (R93). -/
  | mulh (gd ga gb : GReg)
  /-- MULHU (R93). -/
  | mulhu (gd ga gb : GReg)
  /-- DIV (R93). -/
  | div (gd ga gb : GReg)
  /-- DIVU (R93). -/
  | divu (gd ga gb : GReg)
  /-- REM (R93). -/
  | rem (gd ga gb : GReg)
  /-- REMU (R93). -/
  | remu (gd ga gb : GReg)
  /-- AND (R93). -/
  | and (gd ga gb : GReg)
  /-- OR (R93). -/
  | or (gd ga gb : GReg)
  /-- XOR (R93). -/
  | xor (gd ga gb : GReg)
  /-- SHL (R93). -/
  | shl (gd ga gb : GReg)
  /-- SHR (R93). -/
  | shr (gd ga gb : GReg)
  /-- SAR (R93). -/
  | sar (gd ga gb : GReg)
  /-- CLZ (R93). -/
  | clz (gd ga : GReg)
  /-- CTZ (R93). -/
  | ctz (gd ga : GReg)
  /-- POPC (R93). -/
  | popc (gd ga : GReg)
  /-- MIN (R93). -/
  | min (gd ga gb : GReg)
  /-- MAX (R93). -/
  | max (gd ga gb : GReg)
  /-- MINU (R93). -/
  | minu (gd ga gb : GReg)
  /-- MAXU (R93). -/
  | maxu (gd ga gb : GReg)
  /-- SLT (R93). -/
  | slt (gd ga gb : GReg)
  /-- SLTU (R93). -/
  | sltu (gd ga gb : GReg)
  /-- ADD_I (R93). -/
  | addI (gd ga : GReg) (imm : BitVec 16)
  /-- MUL_I (R93). -/
  | mulI (gd ga : GReg) (imm : BitVec 16)
  /-- AND_I (R93). -/
  | andI (gd ga : GReg) (imm : BitVec 16)
  /-- OR_I (R93). -/
  | orI (gd ga : GReg) (imm : BitVec 16)
  /-- XOR_I (R93). -/
  | xorI (gd ga : GReg) (imm : BitVec 16)
  /-- SHL_I (R93). -/
  | shlI (gd ga : GReg) (c : BitVec 6)
  /-- SHR_I (R93). -/
  | shrI (gd ga : GReg) (c : BitVec 6)
  /-- SAR_I (R93). -/
  | sarI (gd ga : GReg) (c : BitVec 6)
  /-- MIN_I (R93). -/
  | minI (gd ga : GReg) (imm : BitVec 16)
  /-- MAX_I (R93). -/
  | maxI (gd ga : GReg) (imm : BitVec 16)
  /-- SLT_I (R93). -/
  | sltI (gd ga : GReg) (imm : BitVec 16)
  /-- SLTU_I (R93). -/
  | sltuI (gd ga : GReg) (imm : BitVec 16)
  /-- LIH (R94). -/
  | lih (gd ga : GReg) (imm : BitVec 16)
  /-- JALR (R97). -/
  | jalr (gd ga : GReg) (imm : BitVec 16)
  /-- MFC (R98). -/
  | mfc (gd : GReg) (num : BitVec 16)
  /-- MTC (R98). -/
  | mtc (ga : GReg) (num : BitVec 16)
  /-- J (R96). -/
  | j (off : BitVec 26)
  /-- JAL (R96). -/
  | jal (off : BitVec 26)
  /-- BEQ (R95). -/
  | beq (ga gb : GReg) (off : BitVec 16)
  /-- BNE (R95). -/
  | bne (ga gb : GReg) (off : BitVec 16)
  /-- BLT (R95). -/
  | blt (ga gb : GReg) (off : BitVec 16)
  /-- BGE (R95). -/
  | bge (ga gb : GReg) (off : BitVec 16)
  /-- BLTU (R95). -/
  | bltu (ga gb : GReg) (off : BitVec 16)
  /-- BGEU (R95). -/
  | bgeu (ga gb : GReg) (off : BitVec 16)
  /-- TRAP (R100). -/
  | trap (code : BitVec 16)
  /-- SVC (R100). -/
  | svc (code : BitVec 16)
  /-- XI_PREFIX (R62). -/
  | xiPrefix (hi : BitVec 26) (w : Word32)
  /-- LD (R248). -/
  | ld (size : BitVec 2) (gd ga : GReg) (disp : BitVec 11)
  /-- LD_W (R248). -/
  | ldW (size : BitVec 2) (gd ga : GReg) (disp : BitVec 11)
  /-- LD_C (R248). -/
  | ldC (size : BitVec 2) (gd ga : GReg) (disp : BitVec 11)
  /-- ST (R249). -/
  | st (size : BitVec 2) (gd ga : GReg) (disp : BitVec 11)
  /-- ST_F (R249). -/
  | stF (size : BitVec 2) (gd ga : GReg) (disp : BitVec 11)
  /-- ST_X (R249). -/
  | stX (size : BitVec 2) (gd ga : GReg) (disp : BitVec 11)
  /-- FEGET (R250). -/
  | feget (gd ga : GReg) (disp : BitVec 11)
  /-- FESET (R251). -/
  | feset (gd ga : GReg) (disp : BitVec 11)
  /-- PREF_L2 (R252). -/
  | prefL2 (ga : GReg) (disp : BitVec 11)
  /-- PREF_L1 (R252). -/
  | prefL1 (ga : GReg) (disp : BitVec 11)
  /-- AMO_ADD (R253). -/
  | amoAdd (dbl : Bool) (gd ga gb : GReg)
  /-- AMO_AND (R253). -/
  | amoAnd (dbl : Bool) (gd ga gb : GReg)
  /-- AMO_OR (R253). -/
  | amoOr (dbl : Bool) (gd ga gb : GReg)
  /-- AMO_XOR (R253). -/
  | amoXor (dbl : Bool) (gd ga gb : GReg)
  /-- AMO_MIN (R253). -/
  | amoMin (dbl : Bool) (gd ga gb : GReg)
  /-- AMO_MAX (R253). -/
  | amoMax (dbl : Bool) (gd ga gb : GReg)
  /-- AMO_MINU (R253). -/
  | amoMinu (dbl : Bool) (gd ga gb : GReg)
  /-- AMO_MAXU (R253). -/
  | amoMaxu (dbl : Bool) (gd ga gb : GReg)
  /-- AMO_SWAP (R253). -/
  | amoSwap (dbl : Bool) (gd ga gb : GReg)
  /-- AMO_FADD (R253). -/
  | amoFadd (dbl : Bool) (gd ga gb : GReg)
  /-- CAS (R254). -/
  | cas (dbl : Bool) (gd ga gb gc : GReg)
  /-- SAMO_F32 (R255). -/
  | samoF32 (ga gb gc : GReg)
  /-- SAMO_F64 (R255). -/
  | samoF64 (ga gb gc : GReg)
  /-- SAMO_I64 (R255). -/
  | samoI64 (ga gb gc : GReg)
  /-- FENCE (R258). -/
  | fence
  /-- FENCE_ENG (R258). -/
  | fenceEng
  /-- FLUSH (R259). -/
  | flush (ga gb : GReg)
  /-- DISCARD (R260). -/
  | discard (ga : GReg)
  /-- BCOPY (R261). -/
  | bcopy (gd ga gb gc : GReg)
  /-- CONF_LOAD (R151). -/
  | confLoad (ga : GReg)
  /-- CONF_SWITCH (R153). -/
  | confSwitch (ga : GReg)
  /-- CONF_WAIT (R154). -/
  | confWait (gd : GReg)
  /-- SPARGE (R152). -/
  | sparge
  /-- SBIND (R146). -/
  | sbind (ga gb : GReg)
  /-- SCOPY (R148). -/
  | scopy (ga gb : GReg)
  /-- SMCAST (R149). -/
  | smcast (ga gb gc : GReg)
  /-- PERM_LOAD (R157). -/
  | permLoad (ga gb : GReg)
  /-- TDESC (R156). -/
  | tdesc (ga : GReg)
  /-- WOPEN (R186). -/
  | wopen (ga : GReg)
  /-- WSTEP (R188). -/
  | wstep (gd ga : GReg)
  /-- WCLOSE (R189). -/
  | wclose (ga : GReg)
  /-- WSTAT (R190). -/
  | wstat (gd ga : GReg)
  /-- LAUNCH (R317). -/
  | launch (ga : GReg)
  /-- GRAPH_REPLAY (R307). -/
  | graphReplay (gd ga gb : GReg)
  /-- CANCEL (R309). -/
  | cancel (ga : GReg)
  /-- CANCEL_E (R309). -/
  | cancelE (ga : GReg)
  /-- FORK (R312). -/
  | fork (ga gb gc : GReg)
  /-- JOIN (R313). -/
  | join (gd ga : GReg)
  /-- STEAL (R314). -/
  | steal (gd : GReg)
  /-- YIELD (R315). -/
  | yield
  /-- EXIT (R316). -/
  | exit
  /-- RETT (R102). -/
  | rett
  /-- CTXSAVE (R333). -/
  | ctxsave (gd ga gb : GReg)
  /-- CTXLOAD (R333). -/
  | ctxload (ga gb : GReg)
  /-- TLBINV (R103). -/
  | tlbinv (ga gb : GReg)
  /-- STRAND_INSTRUCTION_COMPLETE (R86). -/
  | strandInstructionComplete (k : Nat)
  /-- VADD (R128). -/
  | vadd (f : BitVec 3) (x : Slot)
  /-- VSUB (R128). -/
  | vsub (f : BitVec 3) (x : Slot)
  /-- VMUL (R128). -/
  | vmul (f : BitVec 3) (x : Slot)
  /-- VMIN (R128). -/
  | vmin (f : BitVec 3) (x : Slot)
  /-- VMAX (R128). -/
  | vmax (f : BitVec 3) (x : Slot)
  /-- VABS (R128). -/
  | vabs (f : BitVec 3) (x : Slot)
  /-- VNEG (R128). -/
  | vneg (f : BitVec 3) (x : Slot)
  /-- FMA (R128). -/
  | fma (f : BitVec 3) (x : Slot)
  /-- FMS (R128). -/
  | fms (f : BitVec 3) (x : Slot)
  /-- RADD (R133). -/
  | radd (f : BitVec 3) (x : Slot)
  /-- RMAX (R133). -/
  | rmax (f : BitVec 3) (x : Slot)
  /-- RMIN (R133). -/
  | rmin (f : BitVec 3) (x : Slot)
  /-- RMAXABS (R133). -/
  | rmaxabs (f : BitVec 3) (x : Slot)
  /-- VAND (R129). -/
  | vand (f : BitVec 3) (x : Slot)
  /-- VOR (R129). -/
  | vor (f : BitVec 3) (x : Slot)
  /-- VXOR (R129). -/
  | vxor (f : BitVec 3) (x : Slot)
  /-- CVT_NAMED_SOURCE (R134). -/
  | cvtNamedSource (src : BitVec 4) (mode : BitVec 2) (x : Slot)
  /-- CVT (R134). -/
  | cvt (mode : BitVec 2) (x : Slot)
  /-- QNT (R135). -/
  | qnt (dst : BitVec 2) (x : Slot)
  /-- SCALEX (R131). -/
  | scalex (f : BitVec 2) (x : Slot)
  /-- VSHL (R130). -/
  | vshl (x : Slot)
  /-- VSHR (R130). -/
  | vshr (x : Slot)
  /-- VSAR (R130). -/
  | vsar (x : Slot)
  /-- FDIV (R132). -/
  | fdiv (dbl : Bool) (x : Slot)
  /-- FSQRT (R132). -/
  | fsqrt (dbl : Bool) (x : Slot)
  /-- RCP (R47). -/
  | rcp (x : Slot)
  /-- RSQ (R47). -/
  | rsq (x : Slot)
  /-- EXP2 (R47). -/
  | exp2 (x : Slot)
  /-- LOG2 (R47). -/
  | log2 (x : Slot)
  /-- SINPI (R47). -/
  | sinpi (x : Slot)
  /-- COSPI (R47). -/
  | cospi (x : Slot)
  /-- TANH (R47). -/
  | tanh (x : Slot)
  /-- MOV (R125). -/
  | mov (x : Slot)
  /-- RETAG (R125). -/
  | retag (x : Slot)
  /-- VBCAST (R125). -/
  | vbcast (x : Slot)
  /-- VSHUF (R125). -/
  | vshuf (x : Slot)
  /-- VSEL (R125). -/
  | vsel (x : Slot)
  /-- PSET (R126). -/
  | pset (x : Slot)
  /-- PCMPEQ (R126). -/
  | pcmpeq (x : Slot)
  /-- PCMPLT (R126). -/
  | pcmplt (x : Slot)
  /-- PCMPLE (R126). -/
  | pcmple (x : Slot)
  /-- LDL (R124). -/
  | ldl (x : Slot)
  /-- STL (R124). -/
  | stl (x : Slot)
  /-- NOP (R136). -/
  | nop (x : Slot)
  /-- EFAULT (R136). -/
  | efault (x : Slot)
  /-- LATE_FIRING_FAULT (R138). -/
  | lateFiringFault (e : Nat)
  /-- EVDEC (R197). -/
  | evdec (x : Slot)
  /-- EVMAC (R198). -/
  | evmac (x : Slot)
  /-- MCFG (R284). -/
  | mcfg (x : Slot)
  /-- MZERO (R286). -/
  | mzero (x : Slot)
  /-- MMA (R287). -/
  | mma (x : Slot)
  /-- MMAS (R285). -/
  | mmas (x : Slot)
  /-- MREAD (R288). -/
  | mread (x : Slot)
  /-- MREL (R290). -/
  | mrel (x : Slot)
  /-- MWRITE (R289). -/
  | mwrite (x : Slot)
  /-- SLOT_AGE_LIFT (R112). -/
  | slotAgeLift (e n : Nat)
  /-- TOKEN_ARRIVE (R106). -/
  | tokenArrive (e ch : Nat)
  /-- OUTPUT_TOKEN_SEND (R106). -/
  | outputTokenSend (e ch : Nat)
  /-- PLANE_FLIP (R117). -/
  | planeFlip (e : Nat)
  /-- ELEMENT_COMPLETE (R118). -/
  | elementComplete (e : Nat)
  /-- GENERATOR_TRANSFER (R143). -/
  | generatorTransfer (t g : Nat)
  /-- GENERATOR_REEXAMINE (R144). -/
  | generatorReexamine (t g : Nat)
  /-- BUFFER_PRODUCER_CLAIM (R141). -/
  | bufferProducerClaim (t b : Nat)
  /-- BUFFER_PRODUCER_COMPLETE (R141). -/
  | bufferProducerComplete (t b : Nat)
  /-- BUFFER_CONSUMER_CLAIM (R141). -/
  | bufferConsumerClaim (t b : Nat)
  /-- BUFFER_CONSUMER_RELEASE (R141). -/
  | bufferConsumerRelease (t b : Nat)
  /-- LANDING_WRITE (R148). -/
  | landingWrite (t g : Nat)
  /-- COPY_TRANSFER (R148). -/
  | copyTransfer (p id : Nat)
  /-- COPY_FINISH (R148). -/
  | copyFinish (p id : Nat)
  /-- FOLLOW_START_TOKEN (R148). -/
  | followStartToken (p id : Nat)
  /-- HISTORY_COMPRESS (R150). -/
  | historyCompress (p id : Nat)
  /-- HOME_SLICE_ACCESS (R229). -/
  | homeSliceAccess (k n : Nat)
  /-- ACCESS_REEXAMINE (R232). -/
  | accessReexamine (u : Waiter)
  /-- UNLISTED_REEXAMINE (R234). -/
  | unlistedReexamine (u : Waiter)
  /-- L1_WRITE_ACK (R214). -/
  | l1WriteAck (k n : Nat)
  /-- L2_LINE_EVICT (R215). -/
  | l2LineEvict (h line : Nat)
  /-- SAMO_CONTRIBUTION (R256). -/
  | samoContribution (k : Nat)
  /-- COMPLETION_DECREMENT (R296). -/
  | completionDecrement
  /-- MULTICAST_REQUEST (R221). -/
  | multicastRequest (p id : Nat)
  /-- MULTICAST_LINE_SEND (R222). -/
  | multicastLineSend (h m : Nat)
  /-- MERGE_WINDOW_EXPIRE (R221). -/
  | mergeWindowExpire (h m : Nat)
  /-- PHASE_START (R299). -/
  | phaseStart (j : Nat)
  /-- DISPATCH_PASS (R303). -/
  | dispatchPass
  /-- CLASS_TARGET_TIMEOUT (R304). -/
  | classTargetTimeout (l : Nat)
  /-- PREEMPT (R329). -/
  | preempt (l : Nat)
  /-- LAUNCH_COMPLETE (R305). -/
  | launchComplete (l : Nat)
  /-- TASK_POP (R311). -/
  | taskPop (k : Nat)
  /-- TRAP_RECORD_POST (R320). -/
  | trapRecordPost
  /-- WINDOW_COMMIT (R325). -/
  | windowCommit (l : Nat)
  /-- WINDOW_VOID (R328). -/
  | windowVoid (l : Nat)
  /-- WINDOW_RERUN (R327). -/
  | windowRerun (l : Nat)
  /-- GOVERNOR_WINDOW (R293). -/
  | governorWindow (c : Nat)
  /-- ROUND_START (R171). -/
  | roundStart (l g : Nat)
  /-- SUBSLOT_EMIT (R171). -/
  | subslotEmit (l g : Nat)
  /-- EVENT_PACKET_RECEIVE (R176). -/
  | eventPacketReceive (l g r : Nat)
  /-- SUBSLOT_JUDGE (R171). -/
  | subslotJudge (l g : Nat)
  /-- ROUND_APPLY (R172). -/
  | roundApply (l g : Nat)
  /-- STEP_END (R177). -/
  | stepEnd (l g : Nat)
  /-- DECODER_ENQUEUE (R178). -/
  | decoderEnqueue (l g d : Nat)
  /-- SQ_RESUME_RESUME (R321). -/
  | sqResumeResume (k : Nat) (v : Word64)
  /-- SQ_RESUME_END (R321). -/
  | sqResumeEnd (k : Nat) (v : Word64)
  /-- SQ_RESUME_DELIVER (R321). -/
  | sqResumeDeliver (k : Nat) (v : Word64)
  /-- CL_PRESENT_WRITE (R32). -/
  | clPresentWrite (c : Nat) (v : Word64)
  /-- CL_ISSUEBUDGET_WRITE (R294). -/
  | clIssuebudgetWrite (c : Nat) (v : Word64)
  /-- DV_ACCGEN_WRITE (R340). -/
  | dvAccgenWrite (v : Word64)
  /-- CONTROL_REGISTER_WRITE (R6). -/
  | controlRegisterWrite (r : RegRef) (v : Word64)
  /-- HOST_MEMORY_WRITE (R336). -/
  | hostMemoryWrite (f : Nat) (o : BitVec 41) (d : List Byte)
  /-- HOST_MEMORY_READ (R336). -/
  | hostMemoryRead (f : Nat) (o : BitVec 41) (n : Nat)
  /-- HOST_FILL_WRITE (R336). -/
  | hostFillWrite (f : Nat) (o : BitVec 41) (d : List Byte)
  /-- HOST_FILL_READ (R336). -/
  | hostFillRead (f : Nat) (o : BitVec 41) (n : Nat)
  /-- CW_WAIT_ARM (R338). -/
  | cwWaitArm (f n : Nat) (v : Word64)
  /-- CW_WAIT_COMPLETE (R338). -/
  | cwWaitComplete (f n : Nat)
  /-- CW_CONTROL_WARM_RESET (R345). -/
  | cwControlWarmReset (f : Nat) (key : BitVec 56)
  /-- CW_CONTROL_FREEZE (R346). -/
  | cwControlFreeze (f : Nat) (key : BitVec 56)
  /-- CW_CONTROL_BOOT (R341). -/
  | cwControlBoot (f : Nat) (key : BitVec 56) (img : Nat)
  /-- CW_POWERCAP_WRITE (R337). -/
  | cwPowercapWrite (f : Nat) (cap : BitVec 16)
  /-- CW_ATTNONCE_WRITE (R342). -/
  | cwAttnonceWrite (f : Nat) (nonce : BitVec 256)
  /-- COLD_RESET (R345). -/
  | coldReset
  /-- PF_HOT_RESET (R345). -/
  | pfHotReset
  /-- VF_FLR (R338). -/
  | vfFlr (f : Nat)
  /-- POWER_GOVERNOR_TICK (R344). -/
  | powerGovernorTick
  /-- UNIT_FAILURE (R348). -/
  | unitFailure (u : BitVec 16)
  /-- PORTAL_REQUEST (R350). -/
  | portalRequest (p : Nat)
  /-- PORTAL_REPLY (R350). -/
  | portalReply (p : Nat)
  /-- PORTAL_TIMEOUT (R350). -/
  | portalTimeout (p : Nat)
  /-- PORTAL_PUT_DATA (R351). -/
  | portalPutData (p : Nat)
  /-- PORTAL_PUT_MARKER (R351). -/
  | portalPutMarker (p : Nat)
  /-- PEER_REQUEST (R350). -/
  | peerRequest (u : Nat) (r : PeerReq)
  /-- ILLEGAL_INSTRUCTION (R77). -/
  | illegalInstruction (w : Word32)
  /-- INSTRUCTION_FETCH_FAULT (R88). -/
  | instructionFetchFault (cause : BitVec 8) (tval : Word64)
deriving DecidableEq, Repr

end Sys2Proof
end

