-- ==== Sys2Proof/Machine/Types.lean ====
section
/-! DEFINITION. The data the machine's state is made of: cells and memories, tokens, strands, elements, memory tiles,
memory-port tiles, home slices, launches, jobs and host functions. Plain data only. -/

namespace Sys2Proof.Machine

/-! ### Cells and memories (16 R228) -/

/-- The side band of a cell: full/empty state, waiters bit, check code (16 R228). -/
structure Side where
  fe   : BitVec 2
  w    : Bool
  code : BitVec 28
deriving DecidableEq, Repr

/-- A whole cell: 256 data bits and its side band (16 R228). -/
structure Cell where
  data : CellData
  fe   : BitVec 2
  w    : Bool
  code : BitVec 28
deriving DecidableEq, Repr

/-- A memory of cells: the bytes and side bands that differ from what an unlisted address reads as, each list sorted by
address. A side band is keyed by its cell's byte address. -/
structure Memory where
  bytes : List Host.Cell
  side  : List (Nat × Side)
deriving DecidableEq, Repr

/-! ### Tokens, registers and planes (07 R105, 04 R69) -/

/-- A stream token: 512 data bits and the side bits of 07 R105. -/
structure Token where
  data  : Line
  code0 : BitVec 28
  code1 : BitVec 28
  tag   : BitVec 4
  bank  : BitVec 2
  fin   : Bool
  ver   : BitVec 4
  sw    : Bool
deriving DecidableEq, Repr

/-- An element register with its format tag (03 R42). -/
structure VReg where
  data : Line
  tag  : BitVec 4
deriving DecidableEq, Repr

/-- An opcode plane (04 R69): slot-valid mask, initial predicates, done predicate, default bank, slots, trigger entries,
its version and its preload sections (04 R70). -/
structure Plane where
  ver      : BitVec 4
  valid    : BitVec 32
  initQ    : BitVec 16
  done     : BitVec 4
  bank     : BitVec 2
  slots    : List Word32
  trigs    : List Word64
  preloads : List (Nat × List Token)
deriving DecidableEq, Repr

/-- An input channel: tokens on the route, buffered tokens, and the group a converting input is filling (07 R106,
R115). -/
structure InChan where
  wire : List Token
  buf  : List Token
  part : List Token
deriving DecidableEq, Repr

/-- An intersection unit: the pair of inputs, the arrived tokens and entry positions of each stream, the last coordinate
of each, the pending matched lanes, and bank tag and version of stream i's latest token that is no switch token (07
R116). -/
structure Inter where
  i : Nat
  j : Nat
  qi : List Token
  qj : List Token
  pi : Nat
  pj : Nat
  lastI : Option (BitVec 32)
  lastJ : Option (BitVec 32)
  lanes : List (BitVec 32 × BitVec 32)
  side : BitVec 2 × BitVec 4
deriving DecidableEq, Repr

/-! ### The matrix array (20 R278) -/

/-- An open K-block: the A scales captured when it opened and the A column and B row of each update, oldest first; the
block's windows and sticky bits are functions of these (03 R52, 20 R282). -/
structure Block where
  ea  : Line
  ups : List (BitVec 1024 × BitVec 1024)
deriving DecidableEq, Repr

/-- One accumulator (20 R278). Its cells are keyed 64·i + j; an unlisted cell is +0. -/
structure Acc where
  cells : List (Nat × BitVec 32)
  inUse : Bool
  ptr   : BitVec 8
  kc    : BitVec 32
  sa    : Line
  sb    : Line
  blk   : Option Block
deriving DecidableEq, Repr

/-- The array of an element (20 R278). -/
structure Arr where
  cfg  : Bool
  aFmt : BitVec 4
  bFmt : BitVec 4
  half : Bool
  hacc : Bool
  hA   : Line
  hB   : Line
  acc0 : Acc
  acc1 : Acc
deriving DecidableEq, Repr

/-! ### Elements (02 R29, 07, 08) -/

/-- A fault of a firing that has issued: its fault word (08 R138, 22 R323). -/
structure Late where
  word : Word64
deriving DecidableEq, Repr

/-- A compute element. `arrAt` is the cycle of its latest token arrival, and `heldV` and `heldM` are the winners that its
ports hold, slot and firing bank (07 R106, R111); `flipped` says that it has flipped its plane since the latest CONF.SWITCH
sent its tokens (09 R153). -/
structure Element where
  v         : Vector VReg 32
  q         : Vector (BitVec 16) 4
  lp        : Vector (BitVec 32) 16
  kc        : Vector (BitVec 32) 4
  evm       : Vector (BitVec 16) 4
  bank      : BitVec 2
  plane     : Option Plane
  standby   : Option Plane
  ages      : Vector Nat 32
  lifting   : BitVec 32
  ins       : Vector InChan 8
  outs      : Vector (List Token) 8
  inter     : List Inter
  complete  : Bool
  faulted   : Bool
  cancelled : Bool
  stopped   : Bool
  fault     : Word64
  late      : Option Late
  lmem      : Memory
  arr       : Arr
  arbAt     : Option Nat
  arrAt     : Option Nat
  heldV     : Option (Nat × BitVec 2)
  heldM     : Option (Nat × BitVec 2)
  flipped   : Bool
deriving DecidableEq, Repr

/-! ### Memory tiles (09) -/

/-- Who claims a slot of a circular buffer: a walk of a generator, by its number, or a command of a port (09 R141). -/
inductive Claimant where
  | gen (g walk : Nat)
  | cmd (p id : Nat)
deriving DecidableEq, Repr

/-- A slot claimed by a producer, in claim order, and whether its last byte has landed (09 R141). -/
structure Claim where
  who  : Claimant
  slot : Nat
  full : Bool
deriving DecidableEq, Repr

/-- A circular buffer (09 R139, R141). -/
structure Buf where
  base      : Nat
  slotBytes : Nat
  slots     : Nat
  free      : Nat
  filled    : Nat
  prod      : Nat
  cons      : Nat
  preq      : List Claimant
  creq      : List Claimant
  claims    : List Claim
  taken     : List Claim
deriving DecidableEq, Repr

/-- A cell on its way from a copy engine to a landing generator (09 R148). -/
structure Landing where
  p    : Nat
  id   : Nat
  addr : Nat
  cell : Cell
deriving DecidableEq, Repr

/-- A walk in progress: the 32-byte pattern record, the version stamped at bind, the four indices, the claimed slot, and
whether a marker is due (09 R142, R143). -/
structure Walk where
  pat   : CellData
  ver   : BitVec 4
  i0    : Nat
  i1    : Nat
  i2    : Nat
  i3    : Nat
  slot  : Option Nat
  asked : Bool
  mark  : Bool
deriving DecidableEq, Repr

/-- An address generator (09 R142–R144, R160): `waiting` is MT_AG.WAITING, `celled` says that it waits for cell states, and
`poked` counts the changes of those cells for which it has still to re-examine; `sent` counts the tokens it has sent. -/
structure Gen where
  landing : Bool
  walk    : Option Walk
  walks   : Nat
  celled  : Bool
  tokens  : BitVec 28
  retry   : BitVec 16
  waiting : Bool
  poked   : Nat
  wire    : List Token
  land    : List Landing
  swOut   : Option (BitVec 4)
  swIn    : Nat
  sent    : Nat
deriving DecidableEq, Repr

/-- A member entry of a tile's watch engine (12 R193, R195; 11 R164–R173). -/
structure WEntry where
  group      : BitVec 14
  rank       : BitVec 3
  k          : Nat
  coff       : BitVec 12
  block      : BitVec 16
  isOpen     : Bool
  e          : BitVec 16
  b          : Nat
  w          : List (BitVec 16)
  rounds     : Nat
  stretchMax : Nat
  policy     : Bool
  n          : List Int
  nanMask    : BitVec 64
  masks      : List (BitVec 64)
  heard      : BitVec 16
  emitted    : BitVec 16
  round      : Nat
  step       : Nat
  stretch    : BitVec 8
  absent     : BitVec 8
  lost       : BitVec 8
  stepping   : Bool
  stretching : Bool
  degraded   : Bool
  nan        : Bool
  sat        : Bool
  breached   : Bool
  selfAbsent : Bool
  events     : BitVec 32
  steps      : BitVec 16
  breaches   : BitVec 16
deriving DecidableEq, Repr

/-- A memory tile; `failed` is one that has failed in service (02 R32, 23 R348). -/
structure Tile where
  sram  : Memory
  mode  : BitVec 2
  qbase : Nat
  qsize : Nat
  lrow  : Nat
  put   : Nat
  take  : Nat
  bufs  : Vector Buf 8
  gens  : Vector Gen 4
  perm  : List (BitVec 12)
  watch : List (Nat × WEntry)
  fault : Word64
  failed : Bool
deriving DecidableEq, Repr

/-! ### Waiting (16 R230–R234) -/

/-- Where a waiting access stands: nowhere, in the wait table of a slice, in a park record (its physical address), not
listed since an fc, or woken (its record, if it has one, stays listed). -/
inductive Place where
  | none
  | table (h : Nat)
  | listed (rec : Nat)
  | unlisted (since : Nat)
  | woken (rec : Option Nat)
deriving DecidableEq, Repr

/-- A wait-table entry (16 R230): physical and virtual address of the cell, who waits, and the kind of R233 (4 for a
SAMO contribution, 17 R257). -/
structure WaitEntry where
  pa   : Nat
  va   : Nat
  who  : Waiter
  kind : Nat
deriving DecidableEq, Repr

/-! ### Memory-port tiles (09 R147–R150, 23 R349) -/

/-- A command of a copy engine or history compressor: its record, its owner, its progress (09 R147–R150). `next` counts
the cells moved, `landed` those landed; `slots` are the claimed buffer slots by tile, `drained` says that its slots are
complete or released, `follow` lists the elements that still get a start token, and `fetch` the cells that a multicast with
a GROUP fetches by itself, once its merge requests have gone (14 R221). -/
structure Cmd where
  id      : Nat
  launch  : Nat
  owner   : Nat
  mcast   : Bool
  record  : BitVec 512
  mask    : BitVec 16
  budget  : BitVec 16
  asked   : Bool
  slots   : List (Nat × Nat)
  next    : Nat
  landed  : Nat
  drained : Bool
  follow  : List Nat
  place   : Place
  fetch   : Option (List Nat)
  ended   : Bool
deriving DecidableEq, Repr

/-- A request a portal has sent and not yet answered, with the reply once it has come: old value and status (23 R350). -/
structure PortalReq where
  tok   : Token
  sent  : Nat
  reply : Option (Word64 × BitVec 2)
deriving DecidableEq, Repr

/-- A portal (23 R349–R351). -/
structure Portal where
  word    : BitVec 32
  base    : Nat
  peerJob : Nat
  wire    : List Token
  reqs    : List PortalReq
  count   : Nat
  worst   : BitVec 2
deriving DecidableEq, Repr

/-- A cached translation (14 R211): job, virtual page number at its size, and the entry read. -/
structure TlbEntry where
  job   : Nat
  vpn   : Nat
  big   : Bool
  entry : Word64
deriving DecidableEq, Repr

/-- A memory-port tile. `l1` lists the 64-byte lines held, by address / 64, and `asked` the pages, by job and 64 KiB page
number, for which the pager has been asked (14 R210). -/
structure Port where
  cmds   : List Cmd
  nextId : Nat
  portal : Option Portal
  l1     : List Nat
  tlb    : List TlbEntry
  fault  : Word64
  asked  : List (Nat × Nat)
deriving DecidableEq, Repr

/-! ### Home slices (14 R215, R221; 17 R256) -/

/-- An open SAMO sequence (17 R256). `bad` marks one whose cell failed its check. -/
structure Seq where
  pa  : Nat
  fmt : Nat
  t   : Nat
  x   : Nat
  job : Nat
  bad : Bool
deriving DecidableEq, Repr

/-- A buffered contribution of a sequence (17 R257). -/
structure Buffered where
  pa : Nat
  n  : Nat
  c  : Word64
deriving DecidableEq, Repr

/-- A member of a merge group: the command, the first cell of the group that it takes from the tree, and how many of the
earlier ones it has taken as catch-up (14 R222). -/
structure Joiner where
  p     : Nat
  id    : Nat
  start : Nat
  got   : Nat
deriving DecidableEq, Repr

/-- A merge group of one granule (14 R221–R223): its key (job, GROUP, MEMVA, the physical address of the transfer's first
cell, and the shape of its rows), the transfer's cells in the granule by number and physical address, in increasing address
order, the fc its window opened, whether the window runs, the number of cells sent on the tree, and its members. -/
structure Merge where
  job    : Nat
  group  : BitVec 24
  va     : Nat
  pa     : Nat
  shape  : BitVec 80
  cells  : List (Nat × Nat)
  opened : Nat
  isOpen : Bool
  sent   : Nat
  who    : List Joiner
deriving DecidableEq, Repr

/-- An L2 line of 256 bytes (14 R215, R216): its address, tag, dirty cells, and what device memory holds behind the dirty
cells. -/
structure L2Line where
  addr  : Nat
  job   : Nat
  id    : BitVec 16
  dirty : BitVec 8
  back  : List (Nat × Cell)
deriving DecidableEq, Repr

/-- A home slice. -/
structure Slice where
  waits   : List WaitEntry
  seqs    : List Seq
  reorder : List Buffered
  merges  : List Merge
  lines   : List L2Line
deriving DecidableEq, Repr

/-! ### Strands (06 R86–R91) -/

/-- The states of 06 R86. -/
inductive Mode where
  | idle | ready | waiting | parked | suspended | exited
deriving DecidableEq, Repr

/-- The instruction in flight of a waiting or parked strand: it and its prefix, the cell waited for, where the wait
stands, how far a many-stage instruction has come, the commands and walks a drain still waits for, the ended walks, with the
tokens sent until their end, whose tokens it waits to see delivered (09 R152), the groups that a WSTEP or WCLOSE still waits
for, and the events counted by the steps that have ended (12 R188, R189). -/
structure Pend where
  instr : Instr
  hi    : Option (BitVec 26)
  pa    : Nat
  va    : Nat
  place : Place
  stage : Nat
  value : Word64
  cmds  : List (Nat × Nat)
  walks : List (Nat × Nat × Nat)
  sends : List (Nat × Nat × Nat × Nat)
  left  : List (BitVec 14)
  sum   : Nat
deriving DecidableEq, Repr

/-- A posted store that has not performed (17 R247): overwrite-filling or ordinary, with the share of its bytes (16 R241,
R242); `atSlice` once the home slice has it and L1 invalidations are outstanding (14 R214). -/
structure Posted where
  va      : Nat
  pa      : Nat
  size    : Nat
  value   : Word64
  share   : BitVec 28
  fill    : Bool
  atSlice : Bool
deriving DecidableEq, Repr

/-- A trap record handed to the supervisor (22 R320). -/
structure TrapRec where
  epc  : Word64
  tval : Word64
  unit : BitVec 16
  code : BitVec 8
  pair : Bool
  job  : BitVec 8
deriving DecidableEq, Repr

/-- A strand. -/
structure Strand where
  mode     : Mode
  g        : Vector Word64 32
  pc       : Word64
  priv     : Bool
  intrap   : Bool
  prio     : Bool
  cause    : BitVec 9
  epc      : Word64
  tval     : Word64
  tvec     : Word64
  retry    : BitVec 16
  scratch  : Word64
  job      : BitVec 8
  rcl      : BitVec 8
  running  : Bool
  depth    : BitVec 8
  declared : Bool
  pend     : Option Pend
  posted   : List Posted
  susp     : Option TrapRec
  yield    : Option (List Nat × Nat)
deriving DecidableEq, Repr

/-! ### Clusters (02 R30, 20 R294, 21 R310) -/

/-- A task record (21 R310). -/
structure Task where
  entry : Word64
  arg   : Word64
  join  : Word64
  high  : Bool
deriving DecidableEq, Repr

/-- A cluster's registers, deque and sequencer. `grantAt` is the cycle of the latest matrix grant and `grantFrom` the element
that had been granted last when that cycle began (20 R293). -/
structure Cluster where
  present   : BitVec 22
  held      : Option (BitVec 22)
  budget    : BitVec 12
  budgetDue : Option (BitVec 12)
  spent     : Nat
  lastGrant : Nat
  grantAt   : Nat
  grantFrom : Nat
  window    : Nat
  govStall  : Word64
  corr      : BitVec 32
  bad       : BitVec 32
  deque     : List Task
  rr        : Nat
  issuedAt  : Option Nat
  tlb       : List TlbEntry
  owner     : Option Nat
deriving DecidableEq, Repr

/-! ### Launches and jobs (21, 22, 11) -/

/-- Where a launch stands. -/
inductive Stage where
  | waiting | ready | placed | ended
deriving DecidableEq, Repr

/-- A declared strand of a launch record (21 R300). -/
structure Entry where
  off    : Nat
  rcl    : Nat
  strand : Nat
  high   : Bool
deriving DecidableEq, Repr

/-- A launch record as read at enrolment (21 R300). -/
structure Record where
  va      : Word64
  next    : Word64
  dep     : Word64
  done    : Word64
  patch   : Word64
  param   : Word64
  image   : Word64
  code    : Word64
  a       : Nat
  b       : Nat
  cls     : Nat
  onedie  : Bool
  direct  : Bool
  entries : List Entry
  needs   : List (BitVec 22)
deriving DecidableEq, Repr

/-- An event of a round: its packet, and the subslot, round and step in which it was sent, as a decoder port counts them (11
R175, R176). -/
structure Event where
  packet : BitVec 128
  sub    : Nat
  round  : Nat
  step   : Nat
deriving DecidableEq, Repr

/-- A decoder entry of a group (11 R166) with the events and closing marker due to it. -/
structure Dec where
  unit : BitVec 16
  port : Nat
  tile : Bool
  bank : BitVec 2
  off  : Nat
  due  : List (Option Event)
deriving DecidableEq, Repr

/-- What a group of the slot table is doing (11 R168–R177): no step, waiting for the next round, in a round, or at the end
of a step that breached its rounds. -/
inductive GPhase where
  | idle | between | round | ending
deriving DecidableEq, Repr

/-- A watch group of a launch (11 R166): its entry, and the step in progress. `t0` is the fc at which the round began or
will begin, `sub` its subslot, `rounds` the rounds of the step, `total` the events applied in it; `flight` holds packets on
their way to a receiver (member rank), `sent` those of the round. -/
structure Group where
  num     : BitVec 14
  tensor  : BitVec 16
  block   : BitVec 16
  k       : Nat
  members : List (BitVec 16)
  decs    : List Dec
  phase   : GPhase
  t0      : Nat
  sub     : Nat
  breach  : Bool
  rounds  : Nat
  total   : Nat
  desc    : BitVec 512
  flight  : List (Nat × BitVec 128)
  sent    : List Event
  stopReq : Bool
  everOpen : Bool
deriving DecidableEq, Repr

/-- An effect a window holds until it commits (11 R182, 18 R270, 22 R325): a device-memory write of a copy or history
command of a port, the decrement of a command's DONE cell, or a tile decoder's write of the data of its area. -/
inductive Held where
  | write (port va : Nat) (cell : Cell) (fe : Option (BitVec 2))
  | dec (port va : Nat)
  | area (tile off : Nat) (data : List CellData)
deriving DecidableEq, Repr

/-- The records of an open commit window (22 R325–R327): when it opened, the region's units as they stood, the held
effects, and the undo entries spent by element and by tile. `committing` says that its commit has begun and waits for the
rest of its effects (14 R224). -/
structure Window where
  opened : Nat
  elems  : List (Nat × Element)
  tiles  : List (Nat × Tile)
  ports  : List (Nat × Port)
  groups : List Group
  ver    : BitVec 4
  held   : List Held
  lmUndo : List (Nat × List Nat)
  tlUndo : List (Nat × List Nat)
  close  : Bool
  voided : Bool
  fault  : Option (Word64 × Nat × Bool)
  committing : Bool
deriving DecidableEq, Repr

/-- The translation record of a job, as a unit of the region takes it at placement (14 R208). -/
structure XRec where
  hbase    : Nat
  hlimit   : Nat
  hoff     : Nat
  root     : Nat
  kegpa    : Nat
  kegcells : Nat
deriving DecidableEq, Repr

/-- A launch from enrolment to completion. `haltDue` says that it has met an element fault in the present cycle, at whose
end it halts (22 R323, R324); `image` is the address of the context image it is restored from, and `seven` that the image
holds an S7 strand; `full` says that its DONE is full and its region still to be freed (21 R305). -/
structure Launch where
  id        : Nat
  job       : Nat
  parent    : Nat
  parentVa  : Bool
  record    : Record
  stage     : Stage
  readyAt   : Nat
  x         : Nat
  y         : Nat
  xrec      : XRec
  installed : Bool
  named     : List Nat
  ver       : BitVec 4
  rver      : BitVec 4
  routes    : List Word64
  slotLen   : Nat
  decMax    : Nat
  groups    : List Group
  window    : Option Window
  status    : BitVec 7
  fword     : Word64
  faultAt   : Nat
  cancelled : Bool
  halted    : Bool
  haltDue   : Bool
  preempt   : Bool
  reserved  : Option (Nat × Nat)
  image     : Option Nat
  seven     : Bool
  full      : Bool
deriving DecidableEq, Repr

/-- The chain of a phase being enrolled (21 R299): its next record, and the phase cell. -/
structure Chain where
  next   : Word64
  parent : Nat
deriving DecidableEq, Repr

/-- A replay that has begun and is not complete (21 R307): virtual addresses of its DONE cell and its HOLD cell, and
whether it is cancelled. -/
structure Replay where
  done   : Nat
  hold   : Nat
  cancel : Bool
deriving DecidableEq, Repr

/-- What the dispatcher does for a job (21 R299): nothing, or phase PHASE runs with its completion cell at an address, and
a chain is being enrolled; the replays that have begun. -/
structure Job where
  tensors : List (BitVec 16 × BitVec 512)
  running : Option Nat
  chain   : Option Chain
  replays : List Replay
  cancel  : Bool
  phCancel : Bool
deriving DecidableEq, Repr

/-- A decrement on its way to a completion cell (21 R296): its address, whether that is virtual, status bits, and the
job. -/
structure Decr where
  addr : Nat
  virt : Bool
  bits : BitVec 7
  job  : Nat
deriving DecidableEq, Repr

/-! ### The host (23) -/

/-- A posted write of a function that has not performed (18 R271, 23 R336): virtual address, bytes, and whether it is a
fill; `place` is where a waiting fill stands. -/
structure HostWrite where
  va    : Nat
  bytes : List Byte
  fill  : Bool
  place : Place
deriving DecidableEq, Repr

/-- What a read returned: the bytes and the poisoned bit, or Unsupported Request (23 R336). -/
inductive Completion where
  | data (d : List Byte) (poisoned : Bool)
  | unsupported
deriving DecidableEq, Repr

/-- One CW_WAIT slot (23 R337, R338). -/
structure WaitSlot where
  va    : BitVec 52
  armed : Bool
  place : Place
  value : Word64
deriving DecidableEq, Repr

/-- A PCI Express function (23 R335–R338). -/
structure Func where
  membase : BitVec 52
  werr    : Bool
  waits   : Vector WaitSlot 16
  nonce   : BitVec 256
  report  : List Byte
  posted  : List HostWrite
  reads   : List Completion
  msix    : List Nat
deriving DecidableEq, Repr

/-! ### The device -/

/-- A trub entry (23 R347). -/
structure Trub where
  time   : BitVec 48
  kind   : BitVec 8
  unit   : BitVec 16
  job    : BitVec 8
  code   : BitVec 8
  detail : Word64
deriving DecidableEq, Repr

/-- A die's trub ring: the entries in order of occurrence, at most 4,096, the 12-bit head, and when each unit last
entered a correction (23 R347). -/
structure TrubRing where
  entries : List Trub
  head    : BitVec 12
  lastCor : List (Nat × Nat)
deriving DecidableEq, Repr

/-- The device registers and what the module keeps; `turn` holds the pointer and count of a pass by die and class (21 R303),
`tick` the last power period that the firmware has judged (23 R344), `resetAt` the cycle of the last reset, `hostCap`
CW_POWERCAP (23 R337), `wiped` that device memory has been cleared since the last cold reset (23 R345), `scanPos` how far
CW_SCAN has been read (23 R346) (03 R48; 14 R209; 16 R233, R244; 21 R298, R304; 22 R320, R330; 23). -/
structure Device where
  fprev    : BitVec 16
  jobtab   : Word64
  parktab  : Word64
  corr     : BitVec 32
  bad      : BitVec 32
  worktab  : Word64
  classTgt : Vector (BitVec 32) 4
  trapring : Word64
  posted   : Nat
  casktab  : Word64
  powerCap : BitVec 16
  powerMeas : BitVec 16
  powerTemp : BitVec 16
  acctab   : Word64
  accgen   : Word64
  access   : List (Nat × Byte)
  loaded   : Bool
  frozen   : Bool
  readyBit : Bool
  hot      : Bool
  fused    : Word64
  fwVer    : Word64
  fwDigest : BitVec 256
  turn     : List (Nat × Nat × Nat)
  tick     : Nat
  resetAt  : Nat
  hostCap  : BitVec 16
  wiped    : Bool
  scanPos  : Nat
deriving DecidableEq, Repr

/-! ### The model's own -/

/-- Which strand an instruction issues from: its flat number, its prefix, and whether this is a re-examination of a woken
access (16 R232). -/
structure Issue where
  k    : Nat
  hi   : Option (BitVec 26)
  exam : Bool
deriving DecidableEq, Repr

/-- Which firing is under way: the element, the slot, the firing bank, and the element at the start of the cycle, from
which sources are read (07 R110, R113). -/
structure Firing where
  e      : Nat
  slot   : Nat
  bank   : BitVec 2
  before : Element
deriving DecidableEq, Repr

/-- Who moves next: a sequencer issues, an element arbitrates, a fabric cycle passes, the host reads a register of a
control window, or an event of the table happens. -/
inductive Turn where
  | issue (c : Nat)
  | fire (e : Nat)
  | tick
  | cwRead (f off : Nat)
  | event (i : Instr)
deriving DecidableEq, Repr, Inhabited

end Sys2Proof.Machine
end

