-- ==== Sys2Proof/Machine/State.lean ====
section
/-! DEFINITION. The machine's whole state, as plain data, and its value after a cold reset. Units are kept in tables
sorted by their flat number; a unit that no entry names is at its reset value. -/

namespace Sys2Proof.Machine

/-- The reasons a step could stop with a fault. The manual names an effect for every instruction of the table, so no
meaning raises one; the one constructor says so. -/
inductive Fault where
  /-- Raised by nobody: no instruction of this hardware stops the machine (safe). -/
  | never
deriving DecidableEq, Repr

/-- The reasons a step could be refused. -/
inductive Refusal where
  /-- Raised by `exec` for an instruction whose meaning is not written yet, by its mnemonic (safe). -/
  | notModelled (mnemonic : String)
deriving DecidableEq, Repr

/-- The state of the machine. -/
structure State where
  fc        : Nat
  turns     : List Turn
  freeCount : Nat
  issue     : Issue
  firing    : Firing
  mem       : Memory
  clusters  : List (Nat × Cluster)
  strands   : List (Nat × Strand)
  elements  : List (Nat × Element)
  tiles     : List (Nat × Tile)
  ports     : List (Nat × Port)
  slices    : List (Nat × Slice)
  launches  : List Launch
  launchNo  : Nat
  jobs      : List (Nat × Job)
  funcs     : List (Nat × Func)
  decrs     : List Decr
  traps     : List TrapRec
  trub      : List (Nat × TrubRing)
  service   : List (BitVec 16)
  dv        : Device
deriving DecidableEq, Repr

/-- An empty memory: every cell zero, code 0, full (23 R345 step 4, 09 R354; log 2). -/
def Memory.empty : Memory := { bytes := [], side := [] }

/-- A strand at reset (06 R90, R91; log 1). -/
def Strand.reset : Strand :=
  { mode := .idle, g := Vector.replicate 32 0, pc := 0, priv := false, intrap := false, prio := false, cause := 0,
    epc := 0, tval := 0, tvec := 0, retry := 0x0400, scratch := 0, job := 0, rcl := 0, running := false, depth := 0,
    declared := false, pend := none, posted := [], susp := none, yield := none }

/-- A cluster at reset (02 R30, 20 R294). -/
def Cluster.reset : Cluster :=
  { present := 0x3FFFFF, held := none, budget := 3072, budgetDue := none, spent := 0, lastGrant := 0, grantAt := 0, grantFrom := 0, window := 0,
    govStall := 0, corr := 0, bad := 0, deque := [], rr := 0, issuedAt := none, tlb := [], owner := none }

/-- An accumulator in the Install state (20 R278): scales 0x7F. -/
def Acc.install : Acc :=
  { cells := [], inUse := false, ptr := 0, kc := 0, sa := BitVec.ofNat 512 (127 * ((2 ^ 512 - 1) / 255)),
    sb := BitVec.ofNat 512 (127 * ((2 ^ 512 - 1) / 255)), blk := none }

/-- A matrix array in the Install state (20 R278). -/
def Arr.install : Arr :=
  { cfg := false, aFmt := 0, bFmt := 0, half := false, hacc := false, hA := 0, hB := 0, acc0 := Acc.install,
    acc1 := Acc.install }

/-- An input channel with nothing in it. -/
def InChan.empty : InChan := { wire := [], buf := [], part := [] }

/-- An element in the cleared state of 09 R354. -/
def Element.reset : Element :=
  { v := Vector.replicate 32 { data := 0, tag := 0 }, q := Vector.replicate 4 0, lp := Vector.replicate 16 0,
    kc := Vector.replicate 4 0, evm := Vector.replicate 4 0, bank := 0, plane := none, standby := none,
    ages := Vector.replicate 32 0, lifting := 0, ins := Vector.replicate 8 InChan.empty, outs := Vector.replicate 8 [],
    inter := [], complete := false, faulted := false, cancelled := false, stopped := false, fault := 0, late := none,
    lmem := Memory.empty, arr := Arr.install, arbAt := none,
    arrAt := none, heldV := none, heldM := none, flipped := false }

/-- An unused buffer. -/
def Buf.unused : Buf :=
  { base := 0, slotBytes := 0, slots := 0, free := 0, filled := 0, prod := 0, cons := 0, preq := [], creq := [],
    claims := [], taken := [] }

/-- A generator with no walk (09 R160). -/
def Gen.reset : Gen :=
  { landing := false, walk := none, walks := 0, celled := false, tokens := 0, retry := 0x0400, waiting := false,
    poked := 0, wire := [], land := [], swOut := none, swIn := 0, sent := 0 }

/-- A memory tile in the cleared state of 09 R354: store mode, no buffers, no walk. -/
def Tile.reset : Tile :=
  { sram := Memory.empty, mode := 0, qbase := 0, qsize := 0, lrow := 0, put := 0, take := 0,
    bufs := Vector.replicate 8 Buf.unused, gens := Vector.replicate 4 Gen.reset, perm := [], watch := [], fault := 0, failed := false }

/-- A memory-port tile with empty queues. -/
def Port.reset : Port := { cmds := [], nextId := 0, portal := none, l1 := [], tlb := [], fault := 0, asked := [] }

/-- A home slice with empty tables. -/
def Slice.reset : Slice := { waits := [], seqs := [], reorder := [], merges := [], lines := [] }

/-- A launch of which nothing is known yet: the fields that a record or an image gives are written over it. -/
def Launch.blank : Launch :=
  { id := 0, job := 0, parent := 0, parentVa := false,
    record := { va := 0, next := 0, dep := 0, done := 0, patch := 0, param := 0, image := 0, code := 0, a := 1, b := 1, cls := 0,
                onedie := false, direct := false, entries := [], needs := [] },
    stage := .waiting, readyAt := 0, x := 0, y := 0,
    xrec := { hbase := 0, hlimit := 0, hoff := 0, root := 0, kegpa := 0, kegcells := 0 }, installed := false, named := [],
    ver := 0, rver := 0, routes := [], slotLen := 0, decMax := 0, groups := [], window := none, status := 0, fword := 0,
    faultAt := 0, cancelled := false, halted := false, haltDue := false, preempt := false, reserved := none, image := none,
    seven := false, full := false }

/-- A job that has not been opened. -/
def Job.reset : Job := { tensors := [], running := none, chain := none, replays := [], cancel := false, phCancel := false }

/-- A host function at reset (23 R337). -/
def Func.reset : Func :=
  { membase := 0, werr := false, waits := Vector.replicate 16 { va := 0, armed := false, place := .none, value := 0 },
    nonce := 0, report := [], posted := [], reads := [], msix := [] }

/-- The device registers at cold reset (03 R48, 23 R343; log 1). -/
def Device.reset : Device :=
  { fprev := 1, jobtab := 0, parktab := 0, corr := 0, bad := 0, worktab := 0, classTgt := Vector.replicate 4 0,
    trapring := 0, posted := 0, casktab := 0, powerCap := 3600, powerMeas := 0, powerTemp := 0, acctab := 0, accgen := 0,
    access := [], loaded := false, frozen := false, readyBit := false, hot := false, fused := 0, fwVer := 0, fwDigest := 0,
    turn := [], tick := 0, resetAt := 0, hostCap := 3600, wiped := false, scanPos := 0 }

/-- The machine right after a cold reset (23 R345). -/
def State.reset : State :=
  { fc := 0, turns := [], freeCount := 0, issue := { k := 0, hi := none, exam := false },
    firing := { e := 0, slot := 0, bank := 0, before := Element.reset }, mem := Memory.empty, clusters := [],
    strands := [], elements := [], tiles := [], ports := [], slices := [], launches := [], launchNo := 0, jobs := [],
    funcs := [], decrs := [], traps := [], trub := [], service := [], dv := Device.reset }

end Sys2Proof.Machine
end

