-- ==== Sys2Proof/Machine/Tables.lean ====
section
/-! DEFINITION. Tables of units: a list of number and value sorted by number, in which an absent number has a default.
The accessors of the state's units go through them. -/

namespace Sys2Proof.Machine

/-- The value of number k, or the default. -/
def tabGet {α : Type} (d : α) : List (Nat × α) → Nat → α
  | [], _ => d
  | (j, x) :: t, k => if j = k then x else tabGet d t k

/-- The table with value x at number k. -/
def tabPut {α : Type} (k : Nat) (x : α) : List (Nat × α) → List (Nat × α)
  | [] => [(k, x)]
  | (j, y) :: t => if k < j then (k, x) :: (j, y) :: t else if k = j then (k, x) :: t else (j, y) :: tabPut k x t

/-- The table without number k. -/
def tabDel {α : Type} (k : Nat) (m : List (Nat × α)) : List (Nat × α) := m.filter (fun p => p.1 != k)

/-- The strand of flat number k. -/
def State.strand (s : State) (k : Nat) : Strand := tabGet Strand.reset s.strands k
/-- The cluster of flat number c. -/
def State.cluster (s : State) (c : Nat) : Cluster := tabGet Cluster.reset s.clusters c
/-- The element of flat number e. -/
def State.element (s : State) (e : Nat) : Element := tabGet Element.reset s.elements e
/-- The memory tile of flat number t. -/
def State.tile (s : State) (t : Nat) : Tile := tabGet Tile.reset s.tiles t
/-- The memory-port tile of flat number p. -/
def State.port (s : State) (p : Nat) : Port := tabGet Port.reset s.ports p
/-- The home slice of number h. -/
def State.slice (s : State) (h : Nat) : Slice := tabGet Slice.reset s.slices h
/-- Job j. -/
def State.job (s : State) (j : Nat) : Job := tabGet Job.reset s.jobs j
/-- Host function f. -/
def State.func (s : State) (f : Nat) : Func := tabGet Func.reset s.funcs f

/-- The state with strand k. -/
def State.setStrand (s : State) (k : Nat) (x : Strand) : State := { s with strands := tabPut k x s.strands }
/-- The state with cluster c. -/
def State.setCluster (s : State) (c : Nat) (x : Cluster) : State := { s with clusters := tabPut c x s.clusters }
/-- The state with element e. -/
def State.setElement (s : State) (e : Nat) (x : Element) : State := { s with elements := tabPut e x s.elements }
/-- The state with memory tile t. -/
def State.setTile (s : State) (t : Nat) (x : Tile) : State := { s with tiles := tabPut t x s.tiles }
/-- The state with memory-port tile p. -/
def State.setPort (s : State) (p : Nat) (x : Port) : State := { s with ports := tabPut p x s.ports }
/-- The state with home slice h. -/
def State.setSlice (s : State) (h : Nat) (x : Slice) : State := { s with slices := tabPut h x s.slices }
/-- The state with job j. -/
def State.setJob (s : State) (j : Nat) (x : Job) : State := { s with jobs := tabPut j x s.jobs }
/-- The state with host function f. -/
def State.setFunc (s : State) (f : Nat) (x : Func) : State := { s with funcs := tabPut f x s.funcs }
/-- The state with device memory m. -/
def State.setMem (s : State) (m : Memory) : State := { s with mem := m }
/-- The state with device registers d. -/
def State.setDv (s : State) (d : Device) : State := { s with dv := d }
/-- The state with issue context i. -/
def State.setIssue (s : State) (i : Issue) : State := { s with issue := i }

/-- The launch of number l, if it is known. -/
def State.launch? (s : State) (l : Nat) : Option Launch := s.launches.find? (fun x => x.id == l)
/-- The state with launch x in place of the one of its number. -/
def State.setLaunch (s : State) (x : Launch) : State :=
  { s with launches := s.launches.map (fun y => if y.id == x.id then x else y) }
/-- The launch of number l changed by f. -/
def State.modLaunch (s : State) (l : Nat) (f : Launch → Launch) : State :=
  { s with launches := s.launches.map (fun y => if y.id == l then f y else y) }

/-- Fabric cycles since the last reset: issue cycles, governor windows and power periods are counted from it (06 R87; 20
R293; 23 R344, R345). -/
def State.cycle (s : State) : Nat := s.fc - s.dv.resetAt

/-- The argument of the next free value; the counter advances (log 3). -/
def State.nextFree (s : State) : Nat × State := (s.freeCount, { s with freeCount := s.freeCount + 1 })

/-- Element i of a vector, if i is in range; else d. -/
def vget {α : Type} {n : Nat} (v : Vector α n) (i : Nat) (d : α) : α := if h : i < n then v[i] else d
/-- The vector with x at i, if i is in range. -/
def vset {α : Type} {n : Nat} (v : Vector α n) (i : Nat) (x : α) : Vector α n := if h : i < n then v.set i x else v

/-- The strand the current instruction issues from. -/
def State.cur (s : State) : Strand := s.strand s.issue.k

/-- The state with the current strand x. -/
def State.setCur (s : State) (x : Strand) : State := s.setStrand s.issue.k x

end Sys2Proof.Machine
end

