-- ==== Sys2Proof/Machine/Formats.lean ====
section
/-! DEFINITION. Number formats and exact arithmetic (03). A value is a NaN, an infinity, or a signed fraction; arithmetic
is exact and one rounding follows (00 R8). -/

namespace Sys2Proof.Machine

/-! ### Exact values -/

/-- A real number as a format holds it: NaN (or NaR), a signed infinity, or ±n/d with d > 0 and a signed zero. -/
inductive Val where
  | nan
  | inf (neg : Bool)
  | num (neg : Bool) (n d : Nat)
deriving DecidableEq, Repr

/-- The fraction of an integer. -/
def Val.ofInt (i : Int) : Val := .num (decide (i < 0)) i.natAbs 1

/-- The signed numerator over the common denominator. -/
def signed (neg : Bool) (n : Nat) : Int := if neg then -(n : Int) else n

/-- The value is zero. -/
def Val.isZero : Val → Bool
  | .num _ n _ => n == 0
  | _ => false

/-- −x. -/
def Val.neg : Val → Val
  | .nan => .nan
  | .inf b => .inf (!b)
  | .num b n d => .num (!b) n d

/-- |x|. -/
def Val.abs : Val → Val
  | .nan => .nan
  | .inf _ => .inf false
  | .num _ n d => .num false n d

/-- The exact sum; an exact zero sum of opposite-signed terms is +0 (08 R128). -/
def Val.add : Val → Val → Val
  | .nan, _ | _, .nan => .nan
  | .inf a, .inf b => if a = b then .inf a else .nan
  | .inf a, _ => .inf a
  | _, .inf b => .inf b
  | .num a n d, .num b m e =>
    let t := signed a (n * e) + signed b (m * d)
    if t = 0 then .num (a && b) 0 1 else .num (decide (t < 0)) t.natAbs (d * e)

/-- The exact product; 0·∞ is NaN (08 R128). -/
def Val.mul : Val → Val → Val
  | .nan, _ | _, .nan => .nan
  | .inf a, .inf b => .inf (a != b)
  | .inf a, .num b m _ => if m = 0 then .nan else .inf (a != b)
  | .num a n _, .inf b => if n = 0 then .nan else .inf (a != b)
  | .num a n d, .num b m e => .num (a != b) (n * m) (d * e)

/-- The exact quotient with the special cases of FDIV (03 R47). -/
def Val.div : Val → Val → Val
  | .nan, _ | _, .nan => .nan
  | .inf _, .inf _ => .nan
  | .inf a, .num b _ _ => .inf (a != b)
  | .num a _ _, .inf b => .num (a != b) 0 1
  | .num a n d, .num b m e =>
    if m = 0 then (if n = 0 then .nan else .inf (a != b)) else .num (a != b) (n * e) (d * m)

/-- x·2^e. -/
def Val.scale (x : Val) (e : Int) : Val :=
  match x with
  | .num b n d => if 0 ≤ e then .num b (n * 2 ^ e.toNat) d else .num b n (d * 2 ^ (-e).toNat)
  | y => y

/-- x < y as IEEE 754 compares; false with a NaN, and −0 == +0 (08 R126). -/
def Val.lt : Val → Val → Bool
  | .nan, _ | _, .nan => false
  | .inf a, .inf b => a && !b
  | .inf a, .num .. => a
  | .num .., .inf b => !b
  | .num a n d, .num b m e => decide (signed a (n * e) < signed b (m * d))

/-- x == y as IEEE 754 compares. -/
def Val.eq : Val → Val → Bool
  | .nan, _ | _, .nan => false
  | .inf a, .inf b => a == b
  | .num a n d, .num b m e => decide (signed a (n * e) = signed b (m * d))
  | _, _ => false

/-- The sign of a value that is no NaN. -/
def Val.isNeg : Val → Bool
  | .nan => false
  | .inf b => b
  | .num b _ _ => b

/-- x < y with −0 below +0 (08 R128, R133). -/
def Val.below (x y : Val) : Bool := x.lt y || (x.isZero && y.isZero && x.isNeg && !y.isNeg)

/-- The smaller value, −0 below +0; NaN if either is NaN. -/
def Val.min : Val → Val → Val
  | .nan, _ | _, .nan => .nan
  | x, y => if x.below y then x else y

/-- The larger value, −0 below +0; NaN if either is NaN. -/
def Val.max : Val → Val → Val
  | .nan, _ | _, .nan => .nan
  | x, y => if x.below y then y else x

/-! ### Binary formats (03 R34, R35) -/

/-- A binary floating-point format: exponent and fraction widths, bias, and whether it has infinities. -/
structure FloatFmt where
  ebits : Nat
  fbits : Nat
  bias  : Nat
  hasInf : Bool
deriving DecidableEq, Repr

/-- FP64. -/
def FloatFmt.f64 : FloatFmt := { ebits := 11, fbits := 52, bias := 1023, hasInf := true }
/-- FP32. -/
def FloatFmt.f32 : FloatFmt := { ebits := 8, fbits := 23, bias := 127, hasInf := true }
/-- BF16. -/
def FloatFmt.bf16 : FloatFmt := { ebits := 8, fbits := 7, bias := 127, hasInf := true }
/-- FP16. -/
def FloatFmt.f16 : FloatFmt := { ebits := 5, fbits := 10, bias := 15, hasInf := true }
/-- E5M2. -/
def FloatFmt.e5m2 : FloatFmt := { ebits := 5, fbits := 2, bias := 15, hasInf := true }
/-- E4M3. -/
def FloatFmt.e4m3 : FloatFmt := { ebits := 4, fbits := 3, bias := 7, hasInf := false }
/-- The internal 19-bit operand of the matrix array (03 R51). -/
def FloatFmt.op19 : FloatFmt := { ebits := 8, fbits := 10, bias := 127, hasInf := true }

/-- The width of the format. -/
def FloatFmt.width (f : FloatFmt) : Nat := 1 + f.ebits + f.fbits
/-- The largest finite code, without its sign. -/
def FloatFmt.maxCode (f : FloatFmt) : Nat :=
  if f.hasInf then (2 ^ f.ebits - 1) * 2 ^ f.fbits - 1 else 2 ^ (f.ebits + f.fbits) - 2
/-- The canonical NaN (03 R35). -/
def FloatFmt.nan (f : FloatFmt) : Nat :=
  if f.hasInf then (2 ^ f.ebits - 1) * 2 ^ f.fbits + 2 ^ (f.fbits - 1) else 2 ^ (f.ebits + f.fbits) - 1
/-- The code of an infinity, or the NaN where the format has none. -/
def FloatFmt.infCode (f : FloatFmt) : Nat := if f.hasInf then (2 ^ f.ebits - 1) * 2 ^ f.fbits else f.nan
/-- The code with a sign. -/
def FloatFmt.withSign (f : FloatFmt) (neg : Bool) (c : Nat) : Nat := if neg then 2 ^ (f.ebits + f.fbits) + c else c

/-- The value of a code (03 R34). -/
def FloatFmt.value (f : FloatFmt) (c : Nat) : Val :=
  let neg := c.testBit (f.ebits + f.fbits)
  let m := c % 2 ^ (f.ebits + f.fbits)
  let ex := m / 2 ^ f.fbits
  let fr := m % 2 ^ f.fbits
  if m > f.maxCode then (if f.hasInf && fr == 0 then .inf neg else .nan)
  else
    let sig := if ex = 0 then fr else 2 ^ f.fbits + fr
    Val.scale (.num neg sig 1) ((if ex = 0 then 1 else ex : Nat) - (f.bias + f.fbits : Nat) : Int)

/-- The rounding modes of 03 R44. -/
inductive Rnd where
  | ne | tz | up | dn
deriving DecidableEq, Repr

/-- The mode of a two-bit code (03 R44). -/
def Rnd.ofBits (b : BitVec 2) : Rnd :=
  match b.toNat with
  | 0 => .ne
  | 1 => .tz
  | 2 => .up
  | _ => .dn

/-- The mode moves a value of this sign away from zero. -/
def Rnd.away (m : Rnd) (neg : Bool) : Bool :=
  match m with
  | .up => !neg
  | .dn => neg
  | _ => false

/-- The quotient n/d rounded to an integer, for a value of the given sign. -/
def roundQuot (m : Rnd) (neg : Bool) (n d : Nat) : Nat :=
  let q := n / d
  let r := n % d
  match m with
  | .ne => if 2 * r < d then q else if 2 * r > d then q + 1 else q + q % 2
  | _ => if m.away neg && r != 0 then q + 1 else q

/-- floor(log2(n/d)) of a positive fraction. -/
def floorLog2 (n d : Nat) : Int :=
  let e : Int := (n.log2 : Int) - (d.log2 : Int)
  if (if 0 ≤ e then d * 2 ^ e.toNat ≤ n else d ≤ n * 2 ^ (-e).toNat) then e else e - 1

/-- Round(x, f, m) with saturation selection S, for a float destination other than ZD8 (03 R45). -/
def FloatFmt.round (f : FloatFmt) (m : Rnd) (sat : Bool) (x : Val) : Nat :=
  match x with
  | .nan => f.nan
  | .inf neg => if f.hasInf then f.withSign neg f.infCode else if sat then f.withSign neg f.maxCode else f.nan
  | .num neg n d =>
    if n = 0 then f.withSign neg 0
    else
      let emin : Int := 1 - (f.bias : Int)
      let e := if floorLog2 n d < emin then emin else floorLog2 n d
      let sh : Int := e - (f.fbits : Int)
      let q := if 0 ≤ sh then roundQuot m neg n (d * 2 ^ sh.toNat) else roundQuot m neg (n * 2 ^ (-sh).toNat) d
      let c := (e - emin).toNat * 2 ^ f.fbits + q
      if c ≤ f.maxCode then f.withSign neg c
      else if sat then f.withSign neg f.maxCode
      else if m = .ne || m.away neg then (if f.hasInf then f.withSign neg f.infCode else f.nan)
      else f.withSign neg f.maxCode

/-- RoundNE into f (00 R8). -/
def FloatFmt.ne (f : FloatFmt) (x : Val) : Nat := f.round .ne false x

/-! ### ZD8 (03 R38–R41) -/

/-- The bounds D_z of 03 R38. -/
def zdBase (z : Nat) : Nat :=
  match z with
  | 1 => 1
  | 2 => 2
  | 3 => 4
  | 4 => 8
  | 5 => 10
  | _ => 0

/-- Leading zeros of the 7-bit field m ≥ 2. -/
def zdZeros (m : Nat) : Nat := 6 - m.log2

/-- The magnitude n/d of a positive ZD8 code m from 2 to 127 (03 R38). -/
def zdMag (m : Nat) : Nat × Nat :=
  let z := zdZeros m
  let r := 6 - z
  let k := Nat.min z r
  let f := r - k
  let low := m % 2 ^ r
  let x := low / 2 ^ f
  let fr := low % 2 ^ f
  if z = 0 then (2 ^ f + 9 * fr, 2 ^ f)
  else
    let t := if k = 0 then 0 else x % 2 ^ (k - 1)
    let pos := k != 0 && x.testBit (k - 1)
    let d := zdBase z + t
    if pos then ((2 ^ f + 9 * fr) * 10 ^ d, 2 ^ f) else (2 ^ f + 9 * fr, 2 ^ f * 10 ^ d)

/-- The value of a ZD8 code (03 R38). -/
def zdValue (c : Nat) : Val :=
  let neg := c.testBit 7
  let m := c % 128
  if m = 0 then (if neg then .nan else .num false 0 1)
  else if m = 1 then .inf neg
  else .num neg (zdMag m).1 (zdMag m).2

/-- The candidates of 03 R40: +0 and the representable magnitudes, as code, numerator, denominator. -/
def zdCands : List (Nat × Nat × Nat) :=
  (0, 0, 1) :: ((List.range 126).map (fun i => (i + 2, (zdMag (i + 2)).1, (zdMag (i + 2)).2)))

/-- |n/d − a/b| as a fraction over d·b. -/
def distTo (n d a b : Nat) : Nat := if n * b ≤ a * d then a * d - n * b else n * b - a * d

/-- The candidate nearest to n/d, with the ties of 03 R40 step 4. -/
def zdNearest (n d : Nat) : List (Nat × Nat × Nat) → Nat × Nat × Nat → Nat
  | [], best => best.1
  | (c, a, b) :: t, (c0, a0, b0) =>
    let x := distTo n d a b * b0
    let y := distTo n d a0 b0 * b
    let better := x < y || (x == y && ((c % 2 < c0 % 2) || (c % 2 == c0 % 2 && a0 * b < a * b0)))
    zdNearest n d t (if better then (c, a, b) else (c0, a0, b0))

/-- The largest candidate not above n/d. -/
def zdFloor (n d : Nat) : List (Nat × Nat × Nat) → Nat × Nat × Nat → Nat × Nat × Nat
  | [], best => best
  | (c, a, b) :: t, (c0, a0, b0) =>
    zdFloor n d t (if a * d ≤ n * b && a0 * b < a * b0 then (c, a, b) else (c0, a0, b0))

/-- The smallest candidate not below n/d; the largest of all where there is none. -/
def zdCeil (n d : Nat) : List (Nat × Nat × Nat) → Nat × Nat × Nat → Nat × Nat × Nat
  | [], best => best
  | (c, a, b) :: t, (c0, a0, b0) =>
    zdCeil n d t (if n * b ≤ a * d && a * b0 < a0 * b then (c, a, b) else (c0, a0, b0))

/-- Conversion into ZD8 (03 R40). -/
def zdRound (m : Rnd) (sat : Bool) (x : Val) : Nat :=
  match x with
  | .nan => 0x80
  | .inf neg => if neg then 0x81 else 0x01
  | .num neg n d =>
    let sgn (c : Nat) : Nat := if c = 0 then 0 else if neg then 128 + c else c
    if n = 0 then 0
    else if n > d * 10 ^ 10 then
      if sat then sgn 3
      else if m = .ne then (if 2 * n ≥ d * 11 * 10 ^ 10 then sgn 1 else sgn 3)
      else if m.away neg then sgn 1 else sgn 3
    else
      match m with
      | .ne => sgn (zdNearest n d zdCands (0, 0, 1))
      | _ => if m.away neg then sgn (zdCeil n d zdCands (3, 10 ^ 10, 1)).1 else sgn (zdFloor n d zdCands (0, 0, 1)).1

/-! ### UE8 (03 R37, R46) -/

/-- The value 2^(e − 127) of a UE8 code; 0xFF is NaN. -/
def ueValue (c : Nat) : Val := if c = 255 then .nan else Val.scale (.num false 1 1) ((c : Int) - 127)

/-- Conversion into UE8 (03 R46). -/
def ueRound (m : Rnd) (x : Val) : Nat :=
  match x with
  | .nan => 0xFF
  | .inf _ => 0xFE
  | .num _ n d =>
    if n = 0 then 0
    else
      let e := floorLog2 n d
      let base := Val.scale (.num false 1 1) e
      let exact := Val.eq (.num false n d) base
      let up : Bool :=
        match m with
        | .up => !exact
        | .ne =>
          let mid := Val.mul base (.num false 3 2)
          if Val.lt mid (.num false n d) then true
          else if Val.eq mid (.num false n d) then decide ((e + 127) % 2 ≠ 0) else false
        | _ => false
      let c : Int := e + 127 + (if up then 1 else 0)
      if c < 0 then 0 else if c > 254 then 254 else c.toNat

/-! ### Format tags (03 R42) -/

/-- The lane width of a tag, 32 for raw (08 R125). -/
def tagWidth (t : Nat) : Nat :=
  match t with
  | 1 | 12 => 64
  | 3 | 4 | 10 => 16
  | 5 | 6 | 7 | 8 | 9 => 8
  | _ => 32

/-- The tag is a float format FP64, FP32, BF16 or FP16. -/
def tagIsFloat (t : Nat) : Bool := 1 ≤ t && t ≤ 4
/-- The tag is an integer format. -/
def tagIsInt (t : Nat) : Bool := 8 ≤ t && t ≤ 12

/-- The binary float format of a tag. -/
def tagFloat (t : Nat) : Option FloatFmt :=
  match t with
  | 1 => some .f64
  | 2 => some .f32
  | 3 => some .bf16
  | 4 => some .f16
  | 5 => some .e4m3
  | 6 => some .e5m2
  | _ => none

/-- The two's-complement value of the low w bits of c. -/
def sval (w c : Nat) : Int := if c.testBit (w - 1) then (c % 2 ^ w : Nat) - (2 ^ w : Nat) else (c % 2 ^ w : Nat)

/-- The low w bits of an integer. -/
def narrow (w : Nat) (i : Int) : Nat := (i % (2 ^ w : Nat)).toNat

/-- Sat(x, lo, hi) (00 R8). -/
def satInt (i lo hi : Int) : Int := if i < lo then lo else if hi < i then hi else i

/-- The value of a lane as an integer, for an integer tag; UINT8 is unsigned (03 R36). -/
def intLane (t c : Nat) : Int := if t = 9 then ((c % 256 : Nat) : Int) else sval (tagWidth t) c

/-- The value of a lane of tag t (03 R34–R39). -/
def laneValue (t c : Nat) : Val :=
  match tagFloat t with
  | some f => f.value c
  | none => if t = 7 then zdValue c else Val.ofInt (intLane t c)

/-- Round of 03 R45 into an integer format. -/
def intRound (t : Nat) (m : Rnd) (x : Val) : Nat :=
  let w := tagWidth t
  let lo : Int := if t = 9 then 0 else -(2 ^ (w - 1) : Nat)
  let hi : Int := if t = 9 then 255 else (2 ^ (w - 1) : Nat) - 1
  match x with
  | .nan => 0
  | .inf neg => narrow w (if neg then lo else hi)
  | .num neg n d => narrow w (satInt (signed neg (roundQuot m neg n d)) lo hi)

/-- Round(x, f, m) with saturation selection S, into the format of tag t (03 R45, R40). -/
def roundTo (t : Nat) (m : Rnd) (sat : Bool) (x : Val) : Nat :=
  match tagFloat t with
  | some f => f.round m sat x
  | none => if t = 7 then zdRound m sat x else intRound t m x

/-- A conversion between formats; a ZD8 code converted to ZD8 is unchanged (03 R41, R45). -/
def convert (src dst : Nat) (m : Rnd) (sat : Bool) (c : Nat) : Nat :=
  if src = 7 && dst = 7 then c % 256 else roundTo dst m sat (laneValue src c)

/-! ### Square roots -/

/-- The integer square root of n by bits, from bit k down. -/
def isqrtBits (n : Nat) : Nat → Nat → Nat
  | 0, r => r
  | k + 1, r => let c := r + 2 ^ k; isqrtBits n k (if c * c ≤ n then c else r)

/-- The square root of n/d with 2·80 bits and a sticky half: a fraction that rounds as the exact root does. -/
def sqrtFrac (n d : Nat) : Nat × Nat :=
  let e := floorLog2 n d
  let sh : Int := 160 - (e / 2) * 2
  let num := if 0 ≤ sh then n * 2 ^ sh.toNat else n
  let den := if 0 ≤ sh then d else d * 2 ^ (-sh).toNat
  let q := num / den
  let r := isqrtBits q 82 0
  let exact := r * r * den == num
  let top := 2 * r + (if exact then 0 else 1)
  let k : Int := sh / 2 + 1
  if 0 ≤ k then (top, 2 ^ k.toNat) else (top * 2 ^ (-k).toNat, 1)

/-- FSQRT (03 R47). -/
def Val.sqrt : Val → Val
  | .nan => .nan
  | .inf neg => if neg then .nan else .inf false
  | .num neg n d => if n = 0 then .num neg 0 1 else if neg then .nan else .num false (sqrtFrac n d).1 (sqrtFrac n d).2

/-- RSQ (03 R47). -/
def Val.rsqrt : Val → Val
  | .nan => .nan
  | .inf neg => if neg then .nan else .num false 0 1
  | .num neg n d => if n = 0 then .inf neg else if neg then .nan else .num false (sqrtFrac d n).1 (sqrtFrac d n).2

/-! ### Elementary functions (03 R47), by fixed-point series of 512 fraction bits (log 8) -/

/-- Fraction bits of the series. -/
def serBits : Nat := 512

/-- n/d in fixed point, truncated. -/
def toFix (n d : Nat) : Nat := n * 2 ^ serBits / d

/-- Σ z^(2k+1)/(2k+1) from k, for n terms: p holds z^(2k+1), zz holds z². -/
def atanhSum (zz : Nat) : Nat → Nat → Nat → Nat
  | 0, _, _ => 0
  | n + 1, k, p => p / (2 * k + 1) + atanhSum zz n (k + 1) (p * zz / 2 ^ serBits)

/-- ln((1 + z)/(1 − z)) in fixed point for z = n/d ≤ 1/3. -/
def lnRatio (n d : Nat) : Nat :=
  let z := toFix n d
  2 * atanhSum (z * z / 2 ^ serBits) 170 0 z

/-- ln 2 in fixed point. -/
def fixLn2 : Nat := lnRatio 1 3

/-- Σ y^k/k! from k on, for n terms: t holds y^k/k!. -/
def expSum (y : Nat) : Nat → Nat → Nat → Nat
  | 0, _, _ => 0
  | n + 1, k, t => t + expSum y n (k + 1) (t * y / 2 ^ serBits / (k + 1))

/-- exp(y) for a fixed-point y below 1. -/
def fixExp (y : Nat) : Nat := expSum y 110 0 (2 ^ serBits)

/-- Σ (−1)^k x^(2k+1)/(2k+1)! in fixed point: t holds the term, xx holds x². -/
def sinSum (xx : Nat) : Nat → Nat → Int → Int
  | 0, _, _ => 0
  | n + 1, k, t => t + sinSum xx n (k + 1) (-(t * xx / (2 ^ serBits : Nat) / ((2 * k + 2) * (2 * k + 3) : Nat)))

/-- Σ (−1)^k x^(2k)/(2k)! in fixed point. -/
def cosSum (xx : Nat) : Nat → Nat → Int → Int
  | 0, _, _ => 0
  | n + 1, k, t => t + cosSum xx n (k + 1) (-(t * xx / (2 ^ serBits : Nat) / ((2 * k + 1) * (2 * k + 2) : Nat)))

/-- Σ (−1)^k z^(2k+1)/(2k+1): the arc tangent of 1/m in fixed point. -/
def atanSum (mm : Nat) : Nat → Nat → Int → Int
  | 0, _, _ => 0
  | n + 1, k, p => p / (2 * k + 1 : Nat) + atanSum mm n (k + 1) (-(p / (mm : Int)))

/-- π in fixed point: 16·atan(1/5) − 4·atan(1/239). -/
def fixPi : Int :=
  16 * atanSum 25 120 0 ((2 ^ serBits / 5 : Nat) : Int) - 4 * atanSum 57121 40 0 ((2 ^ serBits / 239 : Nat) : Int)

/-- sin(π·n/d) for 0 ≤ n/d ≤ 1/2, in fixed point. -/
def sinPiFix (n d : Nat) : Int :=
  if 4 * n ≤ d then
    let x := fixPi * (n : Int) / (d : Int)
    sinSum ((x * x / (2 ^ serBits : Nat)).toNat) 60 0 x
  else
    let x := fixPi * ((d : Int) - 2 * n) / (2 * d : Int)
    cosSum ((x * x / (2 ^ serBits : Nat)).toNat) 60 0 (2 ^ serBits : Nat)

/-- A fixed-point number as a value. -/
def fixVal (i : Int) : Val := .num (decide (i < 0)) i.natAbs (2 ^ serBits)

/-- sin(πx) for x = ±n/d: reduced to the first half turn; integers give zeros (03 R47). -/
def Val.sinPi : Val → Val
  | .nan => .nan
  | .inf _ => .nan
  | .num neg n d =>
    if n % d = 0 then .num neg 0 1
    else
      let r := n % (2 * d)
      let flip := d < r
      let r1 := if flip then r - d else r
      let r2 := if 2 * r1 > d then d - r1 else r1
      let v := fixVal (sinPiFix r2 d)
      if neg != flip then v.neg else v

/-- cos(πx); half-integers give +0 (03 R47). -/
def Val.cosPi : Val → Val
  | .nan => .nan
  | .inf _ => .nan
  | .num _ n d =>
    if (2 * n) % d = 0 && (2 * n / d) % 2 = 1 then .num false 0 1
    else
      let r := n % (2 * d)
      let r0 := if r > d then 2 * d - r else r
      if 2 * r0 ≤ d then fixVal (sinPiFix (d - 2 * r0) (2 * d))
      else (fixVal (sinPiFix (2 * r0 - d) (2 * d))).neg

/-- 2^x (03 R47). -/
def Val.exp2 : Val → Val
  | .nan => .nan
  | .inf neg => if neg then .num false 0 1 else .inf false
  | .num neg n d =>
    if n ≥ 200 * d then (if neg then .num false 1 (2 ^ 200) else .num false (2 ^ 200) 1)
    else
      let t := signed neg n
      let fl := t / (d : Int)
      let fr := (t % (d : Int)).toNat
      if fr = 0 then Val.scale (.num false 1 1) fl
      else Val.scale (.num false (fixExp (fixLn2 * fr / d)) (2 ^ serBits)) fl

/-- log2 x (03 R47). -/
def Val.log2 : Val → Val
  | .nan => .nan
  | .inf neg => if neg then .nan else .inf false
  | .num neg n d =>
    if n = 0 then .inf true
    else if neg then .nan
    else
      let e := floorLog2 n d
      let mn := if 0 ≤ e then n else n * 2 ^ (-e).toNat
      let md := if 0 ≤ e then d * 2 ^ e.toNat else d
      if mn = md then Val.ofInt e
      else fixVal (e * (2 ^ serBits : Nat) + ((lnRatio (mn - md) (mn + md) * 2 ^ serBits / fixLn2 : Nat) : Int))

/-- tanh x (03 R47). -/
def Val.tanh : Val → Val
  | .nan => .nan
  | .inf neg => .num neg 1 1
  | .num neg n d =>
    if n = 0 then .num neg 0 1
    else if n ≥ 64 * d then .num neg (2 ^ 100 - 1) (2 ^ 100)
    else
      let y := toFix (2 * n) d
      let k := y / fixLn2
      let ex := fixExp (y - k * fixLn2) * 2 ^ k
      .num neg (ex - 2 ^ serBits) (ex + 2 ^ serBits)

end Sys2Proof.Machine
end

