-- ==== Sys2Proof/WellFormed.lean ====
section
/-! DEFINITION. Well-formedness: which terms of `Instr` stand for an encoding the manual assigns. A sequencer word's
constructor has no ill-formed fields, but for a prefix pair (04 R62); a slot must name selects, dequeues and an
operation-specific bit that its opcode accepts (04 R64, 05 R81–R84, 08 R137, 12 R196, 20 R283). -/

namespace Sys2Proof

/-- Bits lo+n−1:lo of a word. -/
abbrev fld (w : Word32) (lo n : Nat) : BitVec n := w.extractLsb' lo n

/-- The second word of a prefix pair with high field hi: a legal word of format I, M, B or J whose 42-bit field keeps
the limits of 04 R59, R62, 06 R94, R98, R100. -/
def pairOk (hi : BitVec 26) (w : Word32) : Bool :=
  let gd := fld w 21 5
  let ga := fld w 16 5
  let mode := fld w 11 3
  match (fld w 26 6).toNat with
  | 0x02 | 0x03 => true
  | 0x04 | 0x05 | 0x06 | 0x07 | 0x08 | 0x09 => true
  | 0x10 | 0x11 | 0x12 | 0x13 | 0x14 => true
  | 0x15 | 0x16 | 0x17 => hi == 0 && fld w 6 10 == 0
  | 0x18 | 0x19 | 0x1A | 0x1B | 0x1D => true
  | 0x1C => hi.extractLsb' 16 10 == 0
  | 0x1E => hi.extractLsb' 16 10 == 0 && ga == 0
  | 0x1F => hi.extractLsb' 16 10 == 0 && gd == 0
  | 0x20 => mode == 0 || mode == 1 || mode == 2
  | 0x21 => mode == 0 || mode == 3 || mode == 4
  | 0x22 | 0x23 => mode == 0 && fld w 14 2 == 3
  | 0x24 => mode == 0 && fld w 14 2 == 3 && (gd == 0 || gd == 1)
  | 0x25 | 0x26 => gd == 0 && ga == 0
  | _ => false

/-- v0–v7. -/
def Sel.isV (x : Sel) : Bool := x.toNat < 8
/-- in0–in7 as a source, the selects 8–15 (04 R64). -/
def Sel.isIn (x : Sel) : Bool := 8 ≤ x.toNat && x.toNat < 16
/-- out0–out7 as a destination, the selects 16–23. -/
def Sel.isOut (x : Sel) : Bool := 16 ≤ x.toNat && x.toNat < 24
/-- lp0–lp3. -/
def Sel.isLp (x : Sel) : Bool := 24 ≤ x.toNat && x.toNat < 28
/-- The constant zero, select 29. -/
def Sel.isZero (x : Sel) : Bool := x == 29
/-- The bank's constant, select 30. -/
def Sel.isKc (x : Sel) : Bool := x == 30
/-- A source of 08 R137: v, in, lp, zero or kc. -/
def Sel.isSrc (x : Sel) : Bool := x.isV || x.isIn || x.isLp || x.isZero || x.isKc
/-- A destination of 08 R137: v, out or lp. -/
def Sel.isDst (x : Sel) : Bool := x.isV || x.isOut || x.isLp

/-- Source A is a source, and is dequeued only if it is a channel (04 R64). -/
def Slot.okA (x : Slot) : Bool := x.srcA.isSrc && (!x.deqA || x.srcA.isIn)
/-- As `okA` for source B. -/
def Slot.okB (x : Slot) : Bool := x.srcB.isSrc && (!x.deqB || x.srcB.isIn)
/-- No source A. -/
def Slot.noA (x : Slot) : Bool := x.srcA == 0 && !x.deqA
/-- No source B. -/
def Slot.noB (x : Slot) : Bool := x.srcB == 0 && !x.deqB
/-- The destination code in source select B (05 R83). -/
def Slot.code (x : Slot) : BitVec 4 := x.srcB.extractLsb' 1 4
/-- The saturation selection S in source select B (05 R83). -/
def Slot.sat (x : Slot) : Bool := x.srcB.getLsbD 0
/-- A conversion's format field: a tag 1–12, or 0 for UE8. -/
def Slot.okCode (x : Slot) : Bool := x.code.toNat ≤ 12 && !x.deqB
/-- RETAG's and LDL's format field: a tag 1–12, no S. -/
def Slot.okTag (x : Slot) : Bool := 1 ≤ x.code.toNat && x.code.toNat ≤ 12 && !x.sat && !x.deqB
/-- Two sources into a v, out or lp destination. -/
def Slot.twoSrc (x : Slot) : Bool := x.dst.isDst && x.okA && x.okB
/-- One source into a v, out or lp destination. -/
def Slot.oneSrc (x : Slot) : Bool := x.dst.isDst && x.okA && x.noB
/-- A predicate index as destination (08 R126). -/
def Slot.predDst (x : Slot) : Bool := x.dst.toNat < 16
/-- The accumulator as destination (20 R283). -/
def Slot.accDst (x : Slot) : Bool := x.dst == 28

/-- The term stands for an encoding the manual assigns. -/
def Instr.wf : Instr → Bool
  | .add _ _ _ => true
  | .sub _ _ _ => true
  | .mul _ _ _ => true
  | .mulh _ _ _ => true
  | .mulhu _ _ _ => true
  | .div _ _ _ => true
  | .divu _ _ _ => true
  | .rem _ _ _ => true
  | .remu _ _ _ => true
  | .and _ _ _ => true
  | .or _ _ _ => true
  | .xor _ _ _ => true
  | .shl _ _ _ => true
  | .shr _ _ _ => true
  | .sar _ _ _ => true
  | .clz _ _ => true
  | .ctz _ _ => true
  | .popc _ _ => true
  | .min _ _ _ => true
  | .max _ _ _ => true
  | .minu _ _ _ => true
  | .maxu _ _ _ => true
  | .slt _ _ _ => true
  | .sltu _ _ _ => true
  | .addI _ _ _ => true
  | .mulI _ _ _ => true
  | .andI _ _ _ => true
  | .orI _ _ _ => true
  | .xorI _ _ _ => true
  | .shlI _ _ _ => true
  | .shrI _ _ _ => true
  | .sarI _ _ _ => true
  | .minI _ _ _ => true
  | .maxI _ _ _ => true
  | .sltI _ _ _ => true
  | .sltuI _ _ _ => true
  | .lih _ _ _ => true
  | .jalr _ _ _ => true
  | .mfc _ _ => true
  | .mtc _ _ => true
  | .j _ => true
  | .jal _ => true
  | .beq _ _ _ => true
  | .bne _ _ _ => true
  | .blt _ _ _ => true
  | .bge _ _ _ => true
  | .bltu _ _ _ => true
  | .bgeu _ _ _ => true
  | .trap _ => true
  | .svc _ => true
  | .xiPrefix hi w => pairOk hi w
  | .ld _ _ _ _ => true
  | .ldW _ _ _ _ => true
  | .ldC _ _ _ _ => true
  | .st _ _ _ _ => true
  | .stF _ _ _ _ => true
  | .stX _ _ _ _ => true
  | .feget _ _ _ => true
  | .feset _ _ _ => true
  | .prefL2 _ _ => true
  | .prefL1 _ _ => true
  | .amoAdd _ _ _ _ => true
  | .amoAnd _ _ _ _ => true
  | .amoOr _ _ _ _ => true
  | .amoXor _ _ _ _ => true
  | .amoMin _ _ _ _ => true
  | .amoMax _ _ _ _ => true
  | .amoMinu _ _ _ _ => true
  | .amoMaxu _ _ _ _ => true
  | .amoSwap _ _ _ _ => true
  | .amoFadd _ _ _ _ => true
  | .cas _ _ _ _ _ => true
  | .samoF32 _ _ _ => true
  | .samoF64 _ _ _ => true
  | .samoI64 _ _ _ => true
  | .fence => true
  | .fenceEng => true
  | .flush _ _ => true
  | .discard _ => true
  | .bcopy _ _ _ _ => true
  | .confLoad _ => true
  | .confSwitch _ => true
  | .confWait _ => true
  | .sparge => true
  | .sbind _ _ => true
  | .scopy _ _ => true
  | .smcast _ _ _ => true
  | .permLoad _ _ => true
  | .tdesc _ => true
  | .wopen _ => true
  | .wstep _ _ => true
  | .wclose _ => true
  | .wstat _ _ => true
  | .launch _ => true
  | .graphReplay _ _ _ => true
  | .cancel _ => true
  | .cancelE _ => true
  | .fork _ _ _ => true
  | .join _ _ => true
  | .steal _ => true
  | .yield => true
  | .exit => true
  | .rett => true
  | .ctxsave _ _ _ => true
  | .ctxload _ _ => true
  | .tlbinv _ _ => true
  | .strandInstructionComplete _ => true
  | .vadd f x => x.twoSrc && (!x.bit0 || 4 ≤ f.toNat)
  | .vsub f x => x.twoSrc && (!x.bit0 || 4 ≤ f.toNat)
  | .vmul f x => x.twoSrc && (!x.bit0 || 4 ≤ f.toNat)
  | .vmin _ x => x.twoSrc && !x.bit0
  | .vmax _ x => x.twoSrc && !x.bit0
  | .vabs f x => x.oneSrc && (!x.bit0 || 4 ≤ f.toNat)
  | .vneg f x => x.oneSrc && (!x.bit0 || 4 ≤ f.toNat)
  | .fma f x => decide (f.toNat < 4) && x.dst.isV && x.okA && x.okB && !x.bit0
  | .fms f x => decide (f.toNat < 4) && x.dst.isV && x.okA && x.okB && !x.bit0
  | .radd _ x => x.twoSrc && !x.bit0
  | .rmax _ x => x.twoSrc && !x.bit0
  | .rmin _ x => x.twoSrc && !x.bit0
  | .rmaxabs _ x => x.twoSrc && !x.bit0
  | .vand f x => decide (4 ≤ f.toNat) && x.twoSrc && !x.bit0
  | .vor f x => decide (4 ≤ f.toNat) && x.twoSrc && !x.bit0
  | .vxor f x => decide (4 ≤ f.toNat) && x.twoSrc && !x.bit0
  | .cvtNamedSource src _ x => decide (1 ≤ src.toNat) && decide (src.toNat ≤ 12) && x.dst.isDst && x.okA && x.okCode && !x.bit0
  | .cvt _ x => x.dst.isDst && x.okA && x.okCode && !x.bit0
  | .qnt _ x => x.twoSrc && !x.bit0
  | .scalex _ x => x.twoSrc && !x.bit0
  | .vshl x => x.twoSrc && !x.bit0
  | .vshr x => x.twoSrc && !x.bit0
  | .vsar x => x.twoSrc && !x.bit0
  | .fdiv _ x => x.twoSrc && !x.bit0
  | .fsqrt _ x => x.oneSrc && !x.bit0
  | .rcp x => x.oneSrc && !x.bit0
  | .rsq x => x.oneSrc && !x.bit0
  | .exp2 x => x.oneSrc && !x.bit0
  | .log2 x => x.oneSrc && !x.bit0
  | .sinpi x => x.oneSrc && !x.bit0
  | .cospi x => x.oneSrc && !x.bit0
  | .tanh x => x.oneSrc && !x.bit0
  | .mov x => x.oneSrc && !x.bit0
  | .retag x => x.dst.isDst && x.okA && x.okTag && !x.bit0
  | .vbcast x => x.twoSrc && !x.bit0
  | .vshuf x => x.twoSrc && !x.bit0
  | .vsel x => x.twoSrc
  | .pset x => x.predDst && x.okA && x.noB && !x.bit0
  | .pcmpeq x => x.predDst && x.okA && x.okB && !x.bit0
  | .pcmplt x => x.predDst && x.okA && x.okB && !x.bit0
  | .pcmple x => x.predDst && x.okA && x.okB && !x.bit0
  | .ldl x => (x.dst.isV || x.dst.isOut) && x.srcA.isLp && !x.deqA && x.okTag && !x.bit0
  | .stl x => x.dst.isLp && x.okA && x.noB && !x.bit0
  | .nop x => x.dst == 0 && x.noA && x.noB && !x.bit0
  | .efault x => x.noA && x.noB && !x.bit0
  | .lateFiringFault _ => true
  | .evdec x => x.dst.isV && x.srcA.isIn && x.okA && x.okB && !x.bit0
  | .evmac x => x.dst.isV && x.srcA.isIn && x.okA && x.okB && !x.bit0
  | .mcfg x => x.accDst && x.okA && !x.srcA.isZero && x.noB && !x.bit0
  | .mzero x => x.accDst && x.noA && x.noB
  | .mma x => x.accDst && x.okA && x.okB
  | .mmas x => x.accDst && x.okA && x.okB
  | .mread x => x.dst.isDst && x.noA && x.noB
  | .mrel x => x.accDst && x.noA && x.noB
  | .mwrite x => x.accDst && x.okA && x.noB
  | .slotAgeLift _ _ => true
  | .tokenArrive _ _ => true
  | .outputTokenSend _ _ => true
  | .planeFlip _ => true
  | .elementComplete _ => true
  | .generatorTransfer _ _ => true
  | .generatorReexamine _ _ => true
  | .bufferProducerClaim _ _ => true
  | .bufferProducerComplete _ _ => true
  | .bufferConsumerClaim _ _ => true
  | .bufferConsumerRelease _ _ => true
  | .landingWrite _ _ => true
  | .copyTransfer _ _ => true
  | .copyFinish _ _ => true
  | .followStartToken _ _ => true
  | .historyCompress _ _ => true
  | .homeSliceAccess _ _ => true
  | .accessReexamine _ => true
  | .unlistedReexamine _ => true
  | .l1WriteAck _ _ => true
  | .l2LineEvict _ _ => true
  | .samoContribution _ => true
  | .completionDecrement => true
  | .multicastRequest _ _ => true
  | .multicastLineSend _ _ => true
  | .mergeWindowExpire _ _ => true
  | .phaseStart _ => true
  | .dispatchPass => true
  | .classTargetTimeout _ => true
  | .preempt _ => true
  | .launchComplete _ => true
  | .taskPop _ => true
  | .trapRecordPost => true
  | .windowCommit _ => true
  | .windowVoid _ => true
  | .windowRerun _ => true
  | .governorWindow _ => true
  | .roundStart _ _ => true
  | .subslotEmit _ _ => true
  | .eventPacketReceive _ _ _ => true
  | .subslotJudge _ _ => true
  | .roundApply _ _ => true
  | .stepEnd _ _ => true
  | .decoderEnqueue _ _ _ => true
  | .sqResumeResume _ _ => true
  | .sqResumeEnd _ _ => true
  | .sqResumeDeliver _ _ => true
  | .clPresentWrite _ _ => true
  | .clIssuebudgetWrite _ _ => true
  | .dvAccgenWrite _ => true
  | .controlRegisterWrite _ _ => true
  | .hostMemoryWrite _ _ _ => true
  | .hostMemoryRead _ _ _ => true
  | .hostFillWrite _ _ _ => true
  | .hostFillRead _ _ _ => true
  | .cwWaitArm _ _ _ => true
  | .cwWaitComplete _ _ => true
  | .cwControlWarmReset _ _ => true
  | .cwControlFreeze _ _ => true
  | .cwControlBoot _ _ _ => true
  | .cwPowercapWrite _ _ => true
  | .cwAttnonceWrite _ _ => true
  | .coldReset => true
  | .pfHotReset => true
  | .vfFlr _ => true
  | .powerGovernorTick => true
  | .unitFailure _ => true
  | .portalRequest _ => true
  | .portalReply _ => true
  | .portalTimeout _ => true
  | .portalPutData _ => true
  | .portalPutMarker _ => true
  | .peerRequest _ _ => true
  | .illegalInstruction _ => true
  | .instructionFetchFault _ _ => true

end Sys2Proof
end

