-- ==== Sys2Proof/Decode.lean ====
section
/-! DEFINITION. Decoding, total on any bytes and refusing by name (05 R78–R85, 04 R57–R64, R77), and the encoder written
from the same tables. -/

namespace Sys2Proof

/-- Why a word is no instruction (04 R77, 05 R84). -/
inductive Reject where
  /-- fewer bytes than the instruction has -/
  | truncated
  /-- a major opcode marked unassigned (05 R78) -/
  | unassignedMajor
  /-- a function of major 0 not in 05 R79 -/
  | unassignedFunction
  /-- a sub-operation not in 05 R80 -/
  | unassignedSub
  /-- an unused register field that is not zero (04 R58) -/
  | unusedField
  /-- a shift immediate with bits 15:6 set (04 R59) -/
  | reservedShift
  /-- an access mode the major opcode does not accept (04 R60) -/
  | modeNotAccepted
  /-- FEGET, FESET or PREF of a size other than 0b11 (17 R250–R252) -/
  | sizeNotAccepted
  /-- a PREF level, FENCE scope or CANCEL form above 1 (17 R252, R258; 21 R318) -/
  | formNotAccepted
  /-- an element opcode that is unassigned (05 R81–R83) -/
  | unassignedOpcode
  /-- a select, dequeue or operation-specific bit the opcode does not accept (05 R84) -/
  | refusedSlot
deriving DecidableEq, Repr

/-- The instruction if the condition holds, else the named refusal. -/
def need (c : Bool) (r : Reject) (i : Instr) : Except Reject Instr := if c then .ok i else .error r

/-- Major 0x00, by function (05 R79). -/
def decodeAlu (gd ga gb : GReg) (fn : BitVec 11) : Except Reject Instr :=
  match fn.toNat with
  | 0x000 => .ok (.add gd ga gb)
  | 0x001 => .ok (.sub gd ga gb)
  | 0x002 => .ok (.mul gd ga gb)
  | 0x003 => .ok (.mulh gd ga gb)
  | 0x004 => .ok (.mulhu gd ga gb)
  | 0x005 => .ok (.div gd ga gb)
  | 0x006 => .ok (.divu gd ga gb)
  | 0x007 => .ok (.rem gd ga gb)
  | 0x008 => .ok (.remu gd ga gb)
  | 0x010 => .ok (.and gd ga gb)
  | 0x011 => .ok (.or gd ga gb)
  | 0x012 => .ok (.xor gd ga gb)
  | 0x018 => .ok (.shl gd ga gb)
  | 0x019 => .ok (.shr gd ga gb)
  | 0x01A => .ok (.sar gd ga gb)
  | 0x020 => need (gb == 0) .unusedField (.clz gd ga)
  | 0x021 => need (gb == 0) .unusedField (.ctz gd ga)
  | 0x022 => need (gb == 0) .unusedField (.popc gd ga)
  | 0x028 => .ok (.min gd ga gb)
  | 0x029 => .ok (.max gd ga gb)
  | 0x02A => .ok (.minu gd ga gb)
  | 0x02B => .ok (.maxu gd ga gb)
  | 0x030 => .ok (.slt gd ga gb)
  | 0x031 => .ok (.sltu gd ga gb)
  | _ => .error .unassignedFunction

/-- Major 0x30, memory and synchronisation, by sub-operation (05 R80, 17 R264). -/
def decodeSync (gd ga gb gc : GReg) (sub : BitVec 6) : Except Reject Instr :=
  match sub.toNat with
  | 0x00 => need (gc == 0) .unusedField (.amoAdd false gd ga gb)
  | 0x01 => need (gc == 0) .unusedField (.amoAnd false gd ga gb)
  | 0x02 => need (gc == 0) .unusedField (.amoOr false gd ga gb)
  | 0x03 => need (gc == 0) .unusedField (.amoXor false gd ga gb)
  | 0x04 => need (gc == 0) .unusedField (.amoMin false gd ga gb)
  | 0x05 => need (gc == 0) .unusedField (.amoMax false gd ga gb)
  | 0x06 => need (gc == 0) .unusedField (.amoMinu false gd ga gb)
  | 0x07 => need (gc == 0) .unusedField (.amoMaxu false gd ga gb)
  | 0x08 => need (gc == 0) .unusedField (.amoSwap false gd ga gb)
  | 0x09 => need (gc == 0) .unusedField (.amoFadd false gd ga gb)
  | 0x10 => need (gc == 0) .unusedField (.amoAdd true gd ga gb)
  | 0x11 => need (gc == 0) .unusedField (.amoAnd true gd ga gb)
  | 0x12 => need (gc == 0) .unusedField (.amoOr true gd ga gb)
  | 0x13 => need (gc == 0) .unusedField (.amoXor true gd ga gb)
  | 0x14 => need (gc == 0) .unusedField (.amoMin true gd ga gb)
  | 0x15 => need (gc == 0) .unusedField (.amoMax true gd ga gb)
  | 0x16 => need (gc == 0) .unusedField (.amoMinu true gd ga gb)
  | 0x17 => need (gc == 0) .unusedField (.amoMaxu true gd ga gb)
  | 0x18 => need (gc == 0) .unusedField (.amoSwap true gd ga gb)
  | 0x19 => need (gc == 0) .unusedField (.amoFadd true gd ga gb)
  | 0x20 => .ok (.cas false gd ga gb gc)
  | 0x21 => .ok (.cas true gd ga gb gc)
  | 0x28 =>
    if !(ga == 0 && gb == 0 && gc == 0) then .error .unusedField
    else if gd == 0 then .ok .fence
    else if gd == 1 then .ok .fenceEng
    else .error .formNotAccepted
  | 0x22 => need (gd == 0) .unusedField (.samoF32 ga gb gc)
  | 0x23 => need (gd == 0) .unusedField (.samoF64 ga gb gc)
  | 0x24 => need (gd == 0) .unusedField (.samoI64 ga gb gc)
  | 0x29 => need (gd == 0 && gc == 0) .unusedField (.flush ga gb)
  | 0x2A => need (gd == 0 && gb == 0 && gc == 0) .unusedField (.discard ga)
  | 0x2B => Except.ok (.bcopy gd ga gb gc)
  | _ => .error .unassignedSub

/-- Major 0x31, streams and configuration (09 R159). -/
def decodeStream (gd ga gb gc : GReg) (sub : BitVec 6) : Except Reject Instr :=
  match sub.toNat with
  | 0x00 => need (gd == 0 && gb == 0 && gc == 0) .unusedField (.confLoad ga)
  | 0x01 => need (gd == 0 && gb == 0 && gc == 0) .unusedField (.confSwitch ga)
  | 0x02 => need (ga == 0 && gb == 0 && gc == 0) .unusedField (.confWait gd)
  | 0x03 => need (gd == 0 && ga == 0 && gb == 0 && gc == 0) .unusedField (.sparge)
  | 0x04 => need (gd == 0 && gc == 0) .unusedField (.sbind ga gb)
  | 0x05 => need (gd == 0 && gc == 0) .unusedField (.scopy ga gb)
  | 0x06 => need (gd == 0) .unusedField (.smcast ga gb gc)
  | 0x07 => need (gd == 0 && gc == 0) .unusedField (.permLoad ga gb)
  | 0x08 => need (gd == 0 && gb == 0 && gc == 0) .unusedField (.tdesc ga)
  | _ => .error .unassignedSub

/-- Major 0x32, watch groups (12 R192). -/
def decodeWatch (gd ga gb gc : GReg) (sub : BitVec 6) : Except Reject Instr :=
  match sub.toNat with
  | 0x00 => need (gd == 0 && gb == 0 && gc == 0) .unusedField (.wopen ga)
  | 0x01 => need (gb == 0 && gc == 0) .unusedField (.wstep gd ga)
  | 0x02 => need (gd == 0 && gb == 0 && gc == 0) .unusedField (.wclose ga)
  | 0x03 => need (gb == 0 && gc == 0) .unusedField (.wstat gd ga)
  | _ => .error .unassignedSub

/-- Major 0x33, work (21 R318). -/
def decodeWork (gd ga gb gc : GReg) (sub : BitVec 6) : Except Reject Instr :=
  match sub.toNat with
  | 0x02 =>
    if !(gb == 0 && gc == 0) then .error .unusedField
    else if gd == 0 then .ok (.cancel ga)
    else if gd == 1 then .ok (.cancelE ga)
    else .error .formNotAccepted
  | 0x00 => need (gd == 0 && gb == 0 && gc == 0) .unusedField (.launch ga)
  | 0x01 => need (gc == 0) .unusedField (.graphReplay gd ga gb)
  | 0x03 => need (gd == 0) .unusedField (.fork ga gb gc)
  | 0x04 => need (gb == 0 && gc == 0) .unusedField (.join gd ga)
  | 0x05 => need (ga == 0 && gb == 0 && gc == 0) .unusedField (.steal gd)
  | 0x06 => need (gd == 0 && ga == 0 && gb == 0 && gc == 0) .unusedField (.yield)
  | 0x07 => need (gd == 0 && ga == 0 && gb == 0 && gc == 0) .unusedField (.exit)
  | _ => .error .unassignedSub

/-- Major 0x34, system (05 R80, 22 R333). -/
def decodeSystem (gd ga gb gc : GReg) (sub : BitVec 6) : Except Reject Instr :=
  match sub.toNat with
  | 0x00 => need (gd == 0 && ga == 0 && gb == 0 && gc == 0) .unusedField (.rett)
  | 0x01 => need (gc == 0) .unusedField (.ctxsave gd ga gb)
  | 0x02 => need (gd == 0 && gc == 0) .unusedField (.ctxload ga gb)
  | 0x03 => need (gd == 0 && gc == 0) .unusedField (.tlbinv ga gb)
  | _ => .error .unassignedSub

/-- A sequencer word that is not a prefix (05 R78). -/
def decodeWord (w : Word32) : Except Reject Instr :=
  let gd := fld w 21 5
  let ga := fld w 16 5
  let gb := fld w 11 5
  let gc := fld w 6 5
  let imm := fld w 0 16
  let size := fld w 14 2
  let mode := fld w 11 3
  let disp := fld w 0 11
  match (fld w 26 6).toNat with
  | 0x00 => decodeAlu gd ga gb disp
  | 0x02 => .ok (.j (fld w 0 26))
  | 0x03 => .ok (.jal (fld w 0 26))
  | 0x04 => .ok (.beq gd ga imm)
  | 0x05 => .ok (.bne gd ga imm)
  | 0x06 => .ok (.blt gd ga imm)
  | 0x07 => .ok (.bge gd ga imm)
  | 0x08 => .ok (.bltu gd ga imm)
  | 0x09 => .ok (.bgeu gd ga imm)
  | 0x10 => .ok (.addI gd ga imm)
  | 0x11 => .ok (.mulI gd ga imm)
  | 0x12 => .ok (.andI gd ga imm)
  | 0x13 => .ok (.orI gd ga imm)
  | 0x14 => .ok (.xorI gd ga imm)
  | 0x15 => need (fld w 6 10 == 0) .reservedShift (.shlI gd ga (fld w 0 6))
  | 0x16 => need (fld w 6 10 == 0) .reservedShift (.shrI gd ga (fld w 0 6))
  | 0x17 => need (fld w 6 10 == 0) .reservedShift (.sarI gd ga (fld w 0 6))
  | 0x18 => .ok (.minI gd ga imm)
  | 0x19 => .ok (.maxI gd ga imm)
  | 0x1A => .ok (.sltI gd ga imm)
  | 0x1B => .ok (.sltuI gd ga imm)
  | 0x1C => .ok (.lih gd ga imm)
  | 0x1D => .ok (.jalr gd ga imm)
  | 0x1E => need (ga == 0) .unusedField (.mfc gd imm)
  | 0x1F => need (gd == 0) .unusedField (.mtc ga imm)
  | 0x20 =>
    match mode.toNat with
    | 0 => .ok (.ld size gd ga disp)
    | 1 => .ok (.ldW size gd ga disp)
    | 2 => .ok (.ldC size gd ga disp)
    | _ => .error .modeNotAccepted
  | 0x21 =>
    match mode.toNat with
    | 0 => .ok (.st size gd ga disp)
    | 3 => .ok (.stF size gd ga disp)
    | 4 => .ok (.stX size gd ga disp)
    | _ => .error .modeNotAccepted
  | 0x22 =>
    if !(mode == 0) then .error .modeNotAccepted
    else need (size == 3) .sizeNotAccepted (.feget gd ga disp)
  | 0x23 =>
    if !(mode == 0) then .error .modeNotAccepted
    else need (size == 3) .sizeNotAccepted (.feset gd ga disp)
  | 0x24 =>
    if !(mode == 0) then .error .modeNotAccepted
    else if !(size == 3) then .error .sizeNotAccepted
    else if gd == 0 then .ok (.prefL2 ga disp)
    else if gd == 1 then .ok (.prefL1 ga disp)
    else .error .formNotAccepted
  | 0x25 => need (gd == 0 && ga == 0) .unusedField (.trap imm)
  | 0x26 => need (gd == 0 && ga == 0) .unusedField (.svc imm)
  | 0x30 => decodeSync gd ga gb gc (fld w 0 6)
  | 0x31 => decodeStream gd ga gb gc (fld w 0 6)
  | 0x32 => decodeWatch gd ga gb gc (fld w 0 6)
  | 0x33 => decodeWork gd ga gb gc (fld w 0 6)
  | 0x34 => decodeSystem gd ga gb gc (fld w 0 6)
  | _ => .error .unassignedMajor

/-- The word is a prefix (04 R62). -/
def isPrefix (w : Word32) : Bool := fld w 26 6 == 0x3F

/-- A sequencer instruction from its first word and, for a prefix, the word after it. A prefix always decodes: whether the
pair is legal is `Instr.wf`'s to say, and an illegal pair's meaning is the trap of 04 R62, R63. -/
def decodeSeq (w : Word32) (second : Option Word32) : Except Reject Instr :=
  if isPrefix w then
    match second with
    | none => .error .truncated
    | some w2 => .ok (.xiPrefix (fld w 0 26) w2)
  else decodeWord w

/-- The instruction of an element opcode with the slot's fields (05 R81–R83). -/
def slotOf (op : BitVec 8) (x : Slot) : Except Reject Instr :=
  let f : BitVec 3 := op.extractLsb' 0 3
  let m2 : BitVec 2 := op.extractLsb' 0 2
  if op.toNat < 0x80 then
    match (op.extractLsb' 3 4 : BitVec 4).toNat with
    | 0 => .ok (.vadd f x)
    | 1 => .ok (.vsub f x)
    | 2 => .ok (.vmul f x)
    | 3 => .ok (.vmin f x)
    | 4 => .ok (.vmax f x)
    | 5 => .ok (.vabs f x)
    | 6 => .ok (.vneg f x)
    | 7 => .ok (.fma f x)
    | 8 => .ok (.fms f x)
    | 9 => .ok (.radd f x)
    | 10 => .ok (.rmax f x)
    | 11 => .ok (.rmin f x)
    | 12 => .ok (.rmaxabs f x)
    | 13 => .ok (.vand f x)
    | 14 => .ok (.vor f x)
    | 15 => .ok (.vxor f x)
    | _ => .error .unassignedOpcode
  else if op.toNat < 0xC0 then .ok (.cvtNamedSource (op.extractLsb' 2 4) m2 x)
  else
    match op.toNat with
    | 0xC0 | 0xC1 | 0xC2 | 0xC3 => .ok (.cvt m2 x)
    | 0xC4 | 0xC5 | 0xC6 | 0xC7 => .ok (.qnt m2 x)
    | 0xC8 | 0xC9 | 0xCA | 0xCB => .ok (.scalex m2 x)
    | 0xD0 => .ok (.fdiv false x)
    | 0xD1 => .ok (.fdiv true x)
    | 0xD2 => .ok (.fsqrt false x)
    | 0xD3 => .ok (.fsqrt true x)
    | 0xCC => .ok (.vshl x)
    | 0xCD => .ok (.vshr x)
    | 0xCE => .ok (.vsar x)
    | 0xD4 => .ok (.rcp x)
    | 0xD5 => .ok (.rsq x)
    | 0xD6 => .ok (.exp2 x)
    | 0xD7 => .ok (.log2 x)
    | 0xD8 => .ok (.sinpi x)
    | 0xD9 => .ok (.cospi x)
    | 0xDA => .ok (.tanh x)
    | 0xE0 => .ok (.mov x)
    | 0xE1 => .ok (.retag x)
    | 0xE2 => .ok (.vbcast x)
    | 0xE3 => .ok (.vshuf x)
    | 0xE4 => .ok (.vsel x)
    | 0xE5 => .ok (.pset x)
    | 0xE6 => .ok (.pcmpeq x)
    | 0xE7 => .ok (.pcmplt x)
    | 0xE8 => .ok (.pcmple x)
    | 0xE9 => .ok (.ldl x)
    | 0xEA => .ok (.stl x)
    | 0xEB => .ok (.nop x)
    | 0xEC => .ok (.efault x)
    | 0xED => .ok (.evdec x)
    | 0xEE => .ok (.evmac x)
    | 0xF0 => .ok (.mcfg x)
    | 0xF1 => .ok (.mzero x)
    | 0xF2 => .ok (.mma x)
    | 0xF3 => .ok (.mmas x)
    | 0xF4 => .ok (.mread x)
    | 0xF5 => .ok (.mrel x)
    | 0xF6 => .ok (.mwrite x)
    | _ => .error .unassignedOpcode

/-- The fields of a slot word other than the opcode (04 R64). -/
def slotFields (w : Word32) : Slot :=
  { trig := fld w 26 6, dst := fld w 13 5, srcA := fld w 8 5, srcB := fld w 3 5,
    deqA := w.getLsbD 2, deqB := w.getLsbD 1, bit0 := w.getLsbD 0 }

/-- An element slot word, as CONF.LOAD checks it (04 R64, R77, 05 R84). -/
def decodeSlot (w : Word32) : Except Reject Instr :=
  match slotOf (fld w 18 8) (slotFields w) with
  | .error r => .error r
  | .ok i => need i.wf .refusedSlot i

/-- A sequencer instruction from the bytes at the program counter, little-endian (00 R2), with the bytes after it. -/
def decode : List Byte → Except Reject (Instr × List Byte)
  | b0 :: b1 :: b2 :: b3 :: rest =>
    let w : Word32 := b3 ++ b2 ++ b1 ++ b0
    if isPrefix w then
      match rest with
      | c0 :: c1 :: c2 :: c3 :: rest2 => (decodeSeq w (some (c3 ++ c2 ++ c1 ++ c0))).map (·, rest2)
      | _ => .error .truncated
    else (decodeSeq w none).map (·, rest)
  | _ => .error .truncated

/-- An E-format word, and every other format through the fields it shares with E (04 R57). -/
def eWord (major : BitVec 6) (gd ga gb gc : GReg) (sub : BitVec 6) : Word32 := major ++ gd ++ ga ++ gb ++ gc ++ sub
/-- An R-format word. -/
def rWord (gd ga gb : GReg) (fn : BitVec 11) : Word32 := (0 : BitVec 6) ++ gd ++ ga ++ gb ++ fn
/-- An I- or B-format word: two register fields and 16 bits. -/
def iWord (major : BitVec 6) (r1 r2 : GReg) (imm : BitVec 16) : Word32 := major ++ r1 ++ r2 ++ imm
/-- An M-format word. -/
def mWord (major : BitVec 6) (gd ga : GReg) (size : BitVec 2) (mode : BitVec 3) (disp : BitVec 11) : Word32 :=
  major ++ gd ++ ga ++ size ++ mode ++ disp
/-- A J-format or XI word. -/
def jWord (major : BitVec 6) (off : BitVec 26) : Word32 := major ++ off
/-- A slot word of format T (04 R64). -/
def tWord (op : BitVec 8) (x : Slot) : Word32 :=
  x.trig ++ op ++ x.dst ++ x.srcA ++ x.srcB ++ BitVec.ofBool x.deqA ++ BitVec.ofBool x.deqB ++ BitVec.ofBool x.bit0
/-- The opcode of a format-parameterised row (05 R81). -/
def rowOp (row : BitVec 4) (f : BitVec 3) : BitVec 8 := (0 : BitVec 1) ++ row ++ f
/-- The size bit of an AMO or CAS in its sub-operation (05 R80). -/
def amoSub (dbl : Bool) (op : BitVec 4) : BitVec 6 := (0 : BitVec 1) ++ BitVec.ofBool dbl ++ op

/-- The words of an instruction; an event has none. -/
def encode : Instr → List Word32
  | .add gd ga gb => [rWord gd ga gb 0x000]
  | .sub gd ga gb => [rWord gd ga gb 0x001]
  | .mul gd ga gb => [rWord gd ga gb 0x002]
  | .mulh gd ga gb => [rWord gd ga gb 0x003]
  | .mulhu gd ga gb => [rWord gd ga gb 0x004]
  | .div gd ga gb => [rWord gd ga gb 0x005]
  | .divu gd ga gb => [rWord gd ga gb 0x006]
  | .rem gd ga gb => [rWord gd ga gb 0x007]
  | .remu gd ga gb => [rWord gd ga gb 0x008]
  | .and gd ga gb => [rWord gd ga gb 0x010]
  | .or gd ga gb => [rWord gd ga gb 0x011]
  | .xor gd ga gb => [rWord gd ga gb 0x012]
  | .shl gd ga gb => [rWord gd ga gb 0x018]
  | .shr gd ga gb => [rWord gd ga gb 0x019]
  | .sar gd ga gb => [rWord gd ga gb 0x01A]
  | .clz gd ga => [rWord gd ga 0 0x020]
  | .ctz gd ga => [rWord gd ga 0 0x021]
  | .popc gd ga => [rWord gd ga 0 0x022]
  | .min gd ga gb => [rWord gd ga gb 0x028]
  | .max gd ga gb => [rWord gd ga gb 0x029]
  | .minu gd ga gb => [rWord gd ga gb 0x02A]
  | .maxu gd ga gb => [rWord gd ga gb 0x02B]
  | .slt gd ga gb => [rWord gd ga gb 0x030]
  | .sltu gd ga gb => [rWord gd ga gb 0x031]
  | .addI gd ga imm => [iWord 0x10 gd ga imm]
  | .mulI gd ga imm => [iWord 0x11 gd ga imm]
  | .andI gd ga imm => [iWord 0x12 gd ga imm]
  | .orI gd ga imm => [iWord 0x13 gd ga imm]
  | .xorI gd ga imm => [iWord 0x14 gd ga imm]
  | .shlI gd ga c => [iWord 0x15 gd ga ((0 : BitVec 10) ++ c)]
  | .shrI gd ga c => [iWord 0x16 gd ga ((0 : BitVec 10) ++ c)]
  | .sarI gd ga c => [iWord 0x17 gd ga ((0 : BitVec 10) ++ c)]
  | .minI gd ga imm => [iWord 0x18 gd ga imm]
  | .maxI gd ga imm => [iWord 0x19 gd ga imm]
  | .sltI gd ga imm => [iWord 0x1A gd ga imm]
  | .sltuI gd ga imm => [iWord 0x1B gd ga imm]
  | .lih gd ga imm => [iWord 0x1C gd ga imm]
  | .jalr gd ga imm => [iWord 0x1D gd ga imm]
  | .mfc gd num => [iWord 0x1E gd 0 num]
  | .mtc ga num => [iWord 0x1F 0 ga num]
  | .j off => [jWord 0x02 off]
  | .jal off => [jWord 0x03 off]
  | .beq ga gb off => [iWord 0x04 ga gb off]
  | .bne ga gb off => [iWord 0x05 ga gb off]
  | .blt ga gb off => [iWord 0x06 ga gb off]
  | .bge ga gb off => [iWord 0x07 ga gb off]
  | .bltu ga gb off => [iWord 0x08 ga gb off]
  | .bgeu ga gb off => [iWord 0x09 ga gb off]
  | .trap code => [iWord 0x25 0 0 code]
  | .svc code => [iWord 0x26 0 0 code]
  | .xiPrefix hi w => [jWord 0x3F hi, w]
  | .ld size gd ga disp => [mWord 0x20 gd ga size 0 disp]
  | .ldW size gd ga disp => [mWord 0x20 gd ga size 1 disp]
  | .ldC size gd ga disp => [mWord 0x20 gd ga size 2 disp]
  | .st size gd ga disp => [mWord 0x21 gd ga size 0 disp]
  | .stF size gd ga disp => [mWord 0x21 gd ga size 3 disp]
  | .stX size gd ga disp => [mWord 0x21 gd ga size 4 disp]
  | .feget gd ga disp => [mWord 0x22 gd ga 3 0 disp]
  | .feset gd ga disp => [mWord 0x23 gd ga 3 0 disp]
  | .prefL2 ga disp => [mWord 0x24 0 ga 3 0 disp]
  | .prefL1 ga disp => [mWord 0x24 1 ga 3 0 disp]
  | .amoAdd dbl gd ga gb => [eWord 0x30 gd ga gb 0 (amoSub dbl 0)]
  | .amoAnd dbl gd ga gb => [eWord 0x30 gd ga gb 0 (amoSub dbl 1)]
  | .amoOr dbl gd ga gb => [eWord 0x30 gd ga gb 0 (amoSub dbl 2)]
  | .amoXor dbl gd ga gb => [eWord 0x30 gd ga gb 0 (amoSub dbl 3)]
  | .amoMin dbl gd ga gb => [eWord 0x30 gd ga gb 0 (amoSub dbl 4)]
  | .amoMax dbl gd ga gb => [eWord 0x30 gd ga gb 0 (amoSub dbl 5)]
  | .amoMinu dbl gd ga gb => [eWord 0x30 gd ga gb 0 (amoSub dbl 6)]
  | .amoMaxu dbl gd ga gb => [eWord 0x30 gd ga gb 0 (amoSub dbl 7)]
  | .amoSwap dbl gd ga gb => [eWord 0x30 gd ga gb 0 (amoSub dbl 8)]
  | .amoFadd dbl gd ga gb => [eWord 0x30 gd ga gb 0 (amoSub dbl 9)]
  | .cas dbl gd ga gb gc => [eWord 0x30 gd ga gb gc ((0x10 : BitVec 5) ++ BitVec.ofBool dbl)]
  | .samoF32 ga gb gc => [eWord 0x30 0 ga gb gc 0x22]
  | .samoF64 ga gb gc => [eWord 0x30 0 ga gb gc 0x23]
  | .samoI64 ga gb gc => [eWord 0x30 0 ga gb gc 0x24]
  | .fence => [eWord 0x30 0 0 0 0 0x28]
  | .fenceEng => [eWord 0x30 1 0 0 0 0x28]
  | .flush ga gb => [eWord 0x30 0 ga gb 0 0x29]
  | .discard ga => [eWord 0x30 0 ga 0 0 0x2A]
  | .bcopy gd ga gb gc => [eWord 0x30 gd ga gb gc 0x2B]
  | .confLoad ga => [eWord 0x31 0 ga 0 0 0x00]
  | .confSwitch ga => [eWord 0x31 0 ga 0 0 0x01]
  | .confWait gd => [eWord 0x31 gd 0 0 0 0x02]
  | .sparge => [eWord 0x31 0 0 0 0 0x03]
  | .sbind ga gb => [eWord 0x31 0 ga gb 0 0x04]
  | .scopy ga gb => [eWord 0x31 0 ga gb 0 0x05]
  | .smcast ga gb gc => [eWord 0x31 0 ga gb gc 0x06]
  | .permLoad ga gb => [eWord 0x31 0 ga gb 0 0x07]
  | .tdesc ga => [eWord 0x31 0 ga 0 0 0x08]
  | .wopen ga => [eWord 0x32 0 ga 0 0 0x00]
  | .wstep gd ga => [eWord 0x32 gd ga 0 0 0x01]
  | .wclose ga => [eWord 0x32 0 ga 0 0 0x02]
  | .wstat gd ga => [eWord 0x32 gd ga 0 0 0x03]
  | .launch ga => [eWord 0x33 0 ga 0 0 0x00]
  | .graphReplay gd ga gb => [eWord 0x33 gd ga gb 0 0x01]
  | .cancel ga => [eWord 0x33 0 ga 0 0 0x02]
  | .cancelE ga => [eWord 0x33 1 ga 0 0 0x02]
  | .fork ga gb gc => [eWord 0x33 0 ga gb gc 0x03]
  | .join gd ga => [eWord 0x33 gd ga 0 0 0x04]
  | .steal gd => [eWord 0x33 gd 0 0 0 0x05]
  | .yield => [eWord 0x33 0 0 0 0 0x06]
  | .exit => [eWord 0x33 0 0 0 0 0x07]
  | .rett => [eWord 0x34 0 0 0 0 0x00]
  | .ctxsave gd ga gb => [eWord 0x34 gd ga gb 0 0x01]
  | .ctxload ga gb => [eWord 0x34 0 ga gb 0 0x02]
  | .tlbinv ga gb => [eWord 0x34 0 ga gb 0 0x03]
  | .strandInstructionComplete _ => []
  | .vadd f x => [tWord (rowOp 0 f) x]
  | .vsub f x => [tWord (rowOp 1 f) x]
  | .vmul f x => [tWord (rowOp 2 f) x]
  | .vmin f x => [tWord (rowOp 3 f) x]
  | .vmax f x => [tWord (rowOp 4 f) x]
  | .vabs f x => [tWord (rowOp 5 f) x]
  | .vneg f x => [tWord (rowOp 6 f) x]
  | .fma f x => [tWord (rowOp 7 f) x]
  | .fms f x => [tWord (rowOp 8 f) x]
  | .radd f x => [tWord (rowOp 9 f) x]
  | .rmax f x => [tWord (rowOp 10 f) x]
  | .rmin f x => [tWord (rowOp 11 f) x]
  | .rmaxabs f x => [tWord (rowOp 12 f) x]
  | .vand f x => [tWord (rowOp 13 f) x]
  | .vor f x => [tWord (rowOp 14 f) x]
  | .vxor f x => [tWord (rowOp 15 f) x]
  | .cvtNamedSource src mode x => [tWord ((0b10 : BitVec 2) ++ src ++ mode) x]
  | .cvt mode x => [tWord ((0x30 : BitVec 6) ++ mode) x]
  | .qnt dst x => [tWord ((0x31 : BitVec 6) ++ dst) x]
  | .scalex f x => [tWord ((0x32 : BitVec 6) ++ f) x]
  | .vshl x => [tWord 0xCC x]
  | .vshr x => [tWord 0xCD x]
  | .vsar x => [tWord 0xCE x]
  | .fdiv dbl x => [tWord ((0x68 : BitVec 7) ++ BitVec.ofBool dbl) x]
  | .fsqrt dbl x => [tWord ((0x69 : BitVec 7) ++ BitVec.ofBool dbl) x]
  | .rcp x => [tWord 0xD4 x]
  | .rsq x => [tWord 0xD5 x]
  | .exp2 x => [tWord 0xD6 x]
  | .log2 x => [tWord 0xD7 x]
  | .sinpi x => [tWord 0xD8 x]
  | .cospi x => [tWord 0xD9 x]
  | .tanh x => [tWord 0xDA x]
  | .mov x => [tWord 0xE0 x]
  | .retag x => [tWord 0xE1 x]
  | .vbcast x => [tWord 0xE2 x]
  | .vshuf x => [tWord 0xE3 x]
  | .vsel x => [tWord 0xE4 x]
  | .pset x => [tWord 0xE5 x]
  | .pcmpeq x => [tWord 0xE6 x]
  | .pcmplt x => [tWord 0xE7 x]
  | .pcmple x => [tWord 0xE8 x]
  | .ldl x => [tWord 0xE9 x]
  | .stl x => [tWord 0xEA x]
  | .nop x => [tWord 0xEB x]
  | .efault x => [tWord 0xEC x]
  | .lateFiringFault _ => []
  | .evdec x => [tWord 0xED x]
  | .evmac x => [tWord 0xEE x]
  | .mcfg x => [tWord 0xF0 x]
  | .mzero x => [tWord 0xF1 x]
  | .mma x => [tWord 0xF2 x]
  | .mmas x => [tWord 0xF3 x]
  | .mread x => [tWord 0xF4 x]
  | .mrel x => [tWord 0xF5 x]
  | .mwrite x => [tWord 0xF6 x]
  | .slotAgeLift _ _ => []
  | .tokenArrive _ _ => []
  | .outputTokenSend _ _ => []
  | .planeFlip _ => []
  | .elementComplete _ => []
  | .generatorTransfer _ _ => []
  | .generatorReexamine _ _ => []
  | .bufferProducerClaim _ _ => []
  | .bufferProducerComplete _ _ => []
  | .bufferConsumerClaim _ _ => []
  | .bufferConsumerRelease _ _ => []
  | .landingWrite _ _ => []
  | .copyTransfer _ _ => []
  | .copyFinish _ _ => []
  | .followStartToken _ _ => []
  | .historyCompress _ _ => []
  | .homeSliceAccess _ _ => []
  | .accessReexamine _ => []
  | .unlistedReexamine _ => []
  | .l1WriteAck _ _ => []
  | .l2LineEvict _ _ => []
  | .samoContribution _ => []
  | .completionDecrement => []
  | .multicastRequest _ _ => []
  | .multicastLineSend _ _ => []
  | .mergeWindowExpire _ _ => []
  | .phaseStart _ => []
  | .dispatchPass => []
  | .classTargetTimeout _ => []
  | .preempt _ => []
  | .launchComplete _ => []
  | .taskPop _ => []
  | .trapRecordPost => []
  | .windowCommit _ => []
  | .windowVoid _ => []
  | .windowRerun _ => []
  | .governorWindow _ => []
  | .roundStart _ _ => []
  | .subslotEmit _ _ => []
  | .eventPacketReceive _ _ _ => []
  | .subslotJudge _ _ => []
  | .roundApply _ _ => []
  | .stepEnd _ _ => []
  | .decoderEnqueue _ _ _ => []
  | .sqResumeResume _ _ => []
  | .sqResumeEnd _ _ => []
  | .sqResumeDeliver _ _ => []
  | .clPresentWrite _ _ => []
  | .clIssuebudgetWrite _ _ => []
  | .dvAccgenWrite _ => []
  | .controlRegisterWrite _ _ => []
  | .hostMemoryWrite _ _ _ => []
  | .hostMemoryRead _ _ _ => []
  | .hostFillWrite _ _ _ => []
  | .hostFillRead _ _ _ => []
  | .cwWaitArm _ _ _ => []
  | .cwWaitComplete _ _ => []
  | .cwControlWarmReset _ _ => []
  | .cwControlFreeze _ _ => []
  | .cwControlBoot _ _ _ => []
  | .cwPowercapWrite _ _ => []
  | .cwAttnonceWrite _ _ => []
  | .coldReset => []
  | .pfHotReset => []
  | .vfFlr _ => []
  | .powerGovernorTick => []
  | .unitFailure _ => []
  | .portalRequest _ => []
  | .portalReply _ => []
  | .portalTimeout _ => []
  | .portalPutData _ => []
  | .portalPutMarker _ => []
  | .peerRequest _ _ => []
  | .illegalInstruction _ => []
  | .instructionFetchFault _ _ => []

/-- The instruction the decoder reads from nbits bits of w, numbered as the opcode table numbers them: little-endian
words, the first lowest. A word is read as a sequencer instruction; where the sequencer refuses it, or reads an ADD
whose bits 25:18 are not zero while its low 11 bits are a slot's, it is read as an element slot (log 4). -/
def decodeTableWord (nbits w : Nat) : Option Instr :=
  let w0 : Word32 := BitVec.ofNat 32 (w % 2 ^ min nbits 32)
  let w1 : Word32 := BitVec.ofNat 32 ((w % 2 ^ nbits) / 2 ^ 32)
  let slot := (decodeSlot w0).toOption
  let seq := (decodeSeq w0 (some w1)).toOption
  if fld w0 26 6 == 0 && fld w0 0 11 == 0 && !(fld w0 18 8 == 0) && slot.isSome then slot
  else match seq with
    | some i => some i
    | none => slot

/-- The row has no word: what a unit does by itself, or what comes from outside. -/
def Instr.isEvent (i : Instr) : Bool := (encode i).isEmpty

/-- The row's word is an element slot's (05 R81–R83): format T, whose opcode field is bits 25:18 (04 R64). -/
def Instr.isSlot : Instr → Bool
  | .vadd _ _ | .vsub _ _ | .vmul _ _ | .vmin _ _ | .vmax _ _ | .vabs _ _ | .vneg _ _ | .fma _ _ | .fms _ _ => true
  | .radd _ _ | .rmax _ _ | .rmin _ _ | .rmaxabs _ _ | .vand _ _ | .vor _ _ | .vxor _ _ => true
  | .cvtNamedSource _ _ _ | .cvt _ _ | .qnt _ _ | .scalex _ _ | .vshl _ | .vshr _ | .vsar _ => true
  | .fdiv _ _ | .fsqrt _ _ | .rcp _ | .rsq _ | .exp2 _ | .log2 _ | .sinpi _ | .cospi _ | .tanh _ => true
  | .mov _ | .retag _ | .vbcast _ | .vshuf _ | .vsel _ | .pset _ | .pcmpeq _ | .pcmplt _ | .pcmple _ => true
  | .ldl _ | .stl _ | .nop _ | .efault _ | .evdec _ | .evmac _ => true
  | .mcfg _ | .mzero _ | .mma _ | .mmas _ | .mread _ | .mrel _ | .mwrite _ => true
  | _ => false

/-- The four bytes of a word as memory holds it, little-endian (00 R2). -/
def wordBytes (w : Word32) : List Byte :=
  [w.extractLsb' 0 8, w.extractLsb' 8 8, w.extractLsb' 16 8, w.extractLsb' 24 8]

end Sys2Proof
end

