-- ==== Sys2Proof/Config.lean ====
section
/-! DEFINITION. What the manual leaves open, as constants without a body: free values, which no proof can evaluate (log
3, 10). The fixed sizes of the part (00 R1, 02) stand beside them. -/

namespace Sys2Proof.Config

open Sys2Proof.Machine (Turn)

/-- Who moves next when `turns` names nobody: the order of agents that the manual leaves open (log 3). -/
opaque freeTurn : Nat → Turn

/-- SHAKE256 to 256 bits of a byte string (23 R341, R342; log 10). -/
opaque shake256 : List Byte → BitVec 256

/-- Whether a Falcon-1024 signature verifies: key, signature, message (23 R341; log 10). -/
opaque falconVerify : List Byte → List Byte → List Byte → Bool

/-- The Falcon-1024 signature the device identity key makes, given a counter and the message (23 R342; log 10). -/
opaque falconSign : Nat → List Byte → List Byte

/-- The part serial in an attestation report (23 R342; log 10). -/
opaque partSerial : List Byte

/-- The key digest fused into the part (23 R341; log 10). -/
opaque fusedKeyDigest : BitVec 256

/-- The value firmware writes into the n-th of DV_JOBTAB, DV_PARKTAB, DV_WORKTAB, DV_CASKTAB, DV_TRAPRING, DV_ACCTAB at
bring-up (23 R345 step 5; log 10). -/
opaque firmwareTable : Nat → Word64

/-- CL_PRESENT as firmware writes it at bring-up, by counter and cluster (23 R345 step 3; log 10). -/
opaque inventory : Nat → Nat → BitVec 22

/-- The address at which firmware starts an S7 strand, by its cluster (23 R341; log 10). -/
opaque firmwareEntry : Nat → Word64

/-- A measured module power, in watts (23 R343; log 10). -/
opaque powerMeas : Nat → BitVec 16

/-- A measured inlet temperature, in 1/16 °C (23 R343; log 10). -/
opaque powerTemp : Nat → BitVec 16

/-- What a host or peer answers to a portal request: old value and status (23 R350; log 10). -/
opaque portalReply : Nat → Word64 × BitVec 2

/-- The worst status of a run of PUT writes at a peer (23 R351; log 10). -/
opaque putStatus : Nat → BitVec 2

/-- The waiting cycles that the slot tables reserve for a packet: clusters of the region, identifiers of each group, group
number, subslot, receiver. The manual does not give the construction (11 R167; log 17). -/
opaque slotWait : List Nat → List (List Nat) → Nat → Nat → Nat → Nat

/-- The units of the service history that the body of a firmware image holds: its offset and form are not given (23 R345 step 2,
R348; log 10). -/
opaque serviceHistory : List Byte → List (BitVec 16)

/-- A word, where the manual fixes an effect and not its value (log 10). -/
opaque freeWord : Nat → Word64

/-- Clusters of the module (02 R20). -/
def clusters : Nat := 144
/-- Home slices of the module (02 R23). -/
def slices : Nat := 216

end Sys2Proof.Config
end

