-- ==== Sys2Proof/Machine/Memory.lean ====
section
/-! DEFINITION. Memories of cells in canonical form, and the check code (16 R228, R239–R241). Multi-byte values are
little-endian (00 R2), decided here once. -/

namespace Sys2Proof.Machine

/-! ### Bytes and side bands -/

/-- What an unlisted byte reads as (23 R345 step 4, 09 R354; log 2). -/
def defaultByte : Byte := 0
/-- What an unlisted side band reads as: full, no waiters, code 0. -/
def defaultSide : Side := { fe := 2, w := false, code := 0 }

/-- Insert or remove one entry of a list sorted by key, keeping it sorted and free of default values. -/
def sparsePut {α : Type} [DecidableEq α] (d : α) (k : Nat) (x : α) (l : List (Nat × α)) : List (Nat × α) :=
  if x = d then (if l.any (fun p => p.1 == k) then l.filter (fun p => p.1 != k) else l) else tabPut k x l

/-- The list is sorted strictly by key and lists no default value. -/
def sparseWf {α : Type} [DecidableEq α] (d : α) : List (Nat × α) → Bool
  | [] => true
  | [(_, x)] => decide (x ≠ d)
  | (j, x) :: (k, y) :: t => decide (x ≠ d) && decide (j < k) && sparseWf d ((k, y) :: t)

/-- The canonical form of a memory. -/
def Memory.wf (m : Memory) : Bool := sparseWf defaultByte m.bytes && sparseWf defaultSide m.side

/-- The byte at address a. Every address of 44 bits has one, also those above the device memory of 00 R1: what an access does
there is not stated (log 87). -/
def Memory.byte (m : Memory) (a : Nat) : Byte := tabGet defaultByte m.bytes a
/-- The side band of the cell at address a. -/
def Memory.sideAt (m : Memory) (a : Nat) : Side := tabGet defaultSide m.side (a / 32 * 32)
/-- The memory with byte b at address a. -/
def Memory.setByte (m : Memory) (a : Nat) (b : Byte) : Memory := { m with bytes := sparsePut defaultByte a b m.bytes }
/-- The memory with side band x at the cell of address a. -/
def Memory.setSide (m : Memory) (a : Nat) (x : Side) : Memory :=
  { m with side := sparsePut defaultSide (a / 32 * 32) x m.side }

/-- n bytes from address a, as a little-endian number. -/
def Memory.nat (m : Memory) (a : Nat) : Nat → Nat
  | 0 => 0
  | n + 1 => (m.byte a).toNat + 256 * m.nat (a + 1) n

/-- The memory with the n low bytes of v stored little-endian from address a. -/
def Memory.setNat (m : Memory) (a : Nat) : Nat → Nat → Memory
  | 0, _ => m
  | n + 1, v => (m.setByte a (BitVec.ofNat 8 v)).setNat (a + 1) n (v / 256)

/-- The whole cell that contains address a. -/
def Memory.cell (m : Memory) (a : Nat) : Cell :=
  let c := a / 32 * 32
  let x := m.sideAt c
  { data := BitVec.ofNat 256 (m.nat c 32), fe := x.fe, w := x.w, code := x.code }

/-- The memory with the whole cell that contains address a. -/
def Memory.setCell (m : Memory) (a : Nat) (x : Cell) : Memory :=
  let c := a / 32 * 32
  (m.setNat c 32 x.data.toNat).setSide c { fe := x.fe, w := x.w, code := x.code }

/-! ### The check code (16 R239, R240) -/

/-- Multiplication by x in GF(2^9) with x^9 + x^4 + 1. -/
def gfTimesX (a : Nat) : Nat := if a.testBit 8 then ((a <<< 1) ^^^ 0x211) % 512 else a <<< 1

/-- The product of two elements of GF(2^9), n steps of shift and add. -/
def gfMul (a b : Nat) : Nat → Nat
  | 0 => 0
  | n + 1 => (if b.testBit 0 then a else 0) ^^^ gfMul (gfTimesX a) (b >>> 1) n

/-- The product of two polynomials over GF(2), n steps. -/
def polyMul (a b : Nat) : Nat → Nat
  | 0 => 0
  | n + 1 => (if b.testBit 0 then a else 0) ^^^ polyMul (a <<< 1) (b >>> 1) n

/-- The generator g(x) = (x + 1)·m1(x)·m3(x)·m5(x), of degree 28 (16 R239): m1 = x^9+x^4+1, m3 = x^9+x^6+x^4+x^3+1,
m5 = x^9+x^8+x^5+x^4+1. -/
def genPoly : Nat := polyMul (polyMul (polyMul 0x3 0x211 10) 0x259 10) 0x331 10

/-- n steps of division by the generator, most significant bit of d first. -/
def genStep (d : Nat) : Nat → Nat → Nat
  | 0, r => r
  | n + 1, r =>
    let t := (r <<< 1) ^^^ (if (d.testBit n) != (r.testBit 27) then genPoly else 0)
    genStep d n (t % 2 ^ 28)

/-- Division of the n low bytes of d, most significant byte first; a zero byte leaves a zero remainder zero. -/
def genBytes (d : Nat) : Nat → Nat → Nat
  | 0, r => r
  | n + 1, r =>
    let b := (d >>> (8 * n)) % 256
    genBytes d n (if r = 0 && b = 0 then 0 else genStep b 8 r)

/-- Gen(d): the 28-bit check code of 256 data bits (16 R239). -/
def gen (d : CellData) : BitVec 28 := BitVec.ofNat 28 (genBytes d.toNat 32 0)

/-- The syndrome that marks poison (16 R240). -/
def poisonMark : BitVec 28 := 0x000000F

/-- The syndrome of one flipped bit of the 284: code bits 0–27, then data bits 0–255. It is x^i mod g(x). -/
def xPow : Nat → Nat
  | 0 => 1
  | n + 1 => let t := xPow n <<< 1; if t.testBit 28 then t ^^^ genPoly else t

/-- The syndromes of single flips with their bit positions in the codeword, position n−1 first. -/
def flipTable : Nat → List (Nat × Nat)
  | 0 => []
  | n + 1 => (n, xPow n) :: flipTable n

/-- The positions of one to w flipped bits, taken from the table from the front, whose syndromes sum to s. -/
def findFlips : Nat → List (Nat × Nat) → Nat → Option (List Nat)
  | 0, _, s => if s = 0 then some [] else none
  | _ + 1, [], s => if s = 0 then some [] else none
  | w + 1, (p, x) :: t, s =>
    if s = 0 then some []
    else match findFlips w t (s ^^^ x) with
      | some r => some (p :: r)
      | none => findFlips (w + 1) t s

/-- The outcomes of Check (16 R240), with the corrected data. -/
inductive Checked where
  | clean (d : CellData)
  | corrected (d : CellData)
  | poison
  | bad
deriving DecidableEq, Repr

/-- The data with the flips of codeword positions undone; positions below 28 are code bits. -/
def flipBack (d : CellData) : List Nat → CellData
  | [] => d
  | p :: t => flipBack (if p < 28 then d else d ^^^ BitVec.ofNat 256 (2 ^ (p - 28))) t

/-- Check(d, c) (16 R240). -/
def check (d : CellData) (c : BitVec 28) : Checked :=
  let s := gen d ^^^ c
  if s = 0 then .clean d
  else if s = poisonMark then .poison
  else match findFlips 3 (flipTable 284) s.toNat with
    | some ps => .corrected (flipBack d ps)
    | none => .bad

/-- The data of a check that passed. -/
def Checked.data? : Checked → Option CellData
  | .clean d => some d
  | .corrected d => some d
  | .poison => none
  | .bad => none

/-- The element fault that a consuming lane takes: "uncorrectable check", or "poison consumed" (16 R245). -/
def Checked.cause : Checked → Nat
  | .poison => 0x02
  | _ => 0x03

/-- One when the check corrected. -/
def Checked.corr : Checked → Nat
  | .corrected _ => 1
  | _ => 0

/-- One when the check refused. -/
def Checked.badN : Checked → Nat
  | .poison => 1
  | .bad => 1
  | _ => 0

/-- The state is neither full nor empty (16 R228, R232). -/
def badFe (fe : BitVec 2) : Bool := fe == 0 || fe == 3

/-- A cell of data d with its generated code, in a given state, with no waiters (16 R242). -/
def freshCell (d : CellData) (fe : BitVec 2) : Cell := { data := d, fe := fe, w := false, code := gen d }

end Sys2Proof.Machine
end

