-- ==== Sys2Proof/Machine/Units.lean ====
section
/-! DEFINITION. Units: identifiers, the module grid, regions (02 R20–R25, R31), and the counters and records that every
unit's errors enter (16 R244, 23 R347). -/

namespace Sys2Proof.Machine

/-! ### Bit fields and bytes of records -/

/-- Bytes lo to lo+n−1 of a cell, little-endian (00 R2). -/
def cbytes (d : CellData) (lo n : Nat) : Nat := (d.toNat >>> (8 * lo)) % 2 ^ (8 * n)

/-- Bytes lo to lo+n−1 of a two-cell record. -/
def lbytes (d : Line) (lo n : Nat) : Nat := (d.toNat >>> (8 * lo)) % 2 ^ (8 * n)

/-- Bits lo to lo+n−1 of a number. -/
def bits (x lo n : Nat) : Nat := (x >>> lo) % 2 ^ n

/-! ### The grid (02 R20) -/

/-- The grid column of a cluster. -/
def gridX (c : Nat) : Nat := 4 * ((c / 16) % 3) + c % 4
/-- The grid row of a cluster. -/
def gridY (c : Nat) : Nat := 4 * ((c / 16) / 3) + (c % 16) / 4
/-- The cluster at a grid position. -/
def clusterAt (x y : Nat) : Nat := 16 * (3 * (y / 4) + x / 4) + 4 * (y % 4) + x % 4

/-! ### Regions (02 R25) -/

/-- The cluster of region index n of a launch, if n lies in the region. -/
def Launch.cluster? (l : Launch) (n : Nat) : Option Nat :=
  if n < l.record.a * l.record.b then some (clusterAt (l.x + n % l.record.a) (l.y + n / l.record.a)) else none

/-- The clusters of a launch's region in region order. -/
def Launch.clusters (l : Launch) : List Nat :=
  (List.range (l.record.a * l.record.b)).map (fun n => clusterAt (l.x + n % l.record.a) (l.y + n / l.record.a))

/-- The region index of a cluster of the launch. -/
def Launch.rcl (l : Launch) (c : Nat) : Nat := (gridY c - l.y) * l.record.a + (gridX c - l.x)

/-- A firing of the element is in flight: one that has issued and will fault, or a winner that a port holds (07 R111, R119;
log 76). -/
def Element.busy (x : Element) : Bool := x.late.isSome || x.heldV.isSome || x.heldM.isSome

/-- The launch that holds cluster c. -/
def State.ownerOf (s : State) (c : Nat) : Option Launch :=
  match (s.cluster c).owner with
  | none => none
  | some l => s.launch? l

/-- Strand S7 of a D4 sequencer, which is reserved for the supervisor (02 R27). -/
def superStrand (k : Nat) : Bool := k / 128 == 4 && k % 8 == 7

/-- The launch of strand k, if a launch holds its cluster and the strand is not the supervisor's. -/
def State.launchOf (s : State) (k : Nat) : Option Launch := if superStrand k then none else s.ownerOf (k / 8)

/-! ### Identifiers (02 R24) -/

/-- A unit that an identifier names. -/
inductive UnitRef where
  | element (e : Nat)
  | tile (t : Nat)
  | port (p : Nat)
  | strand (k : Nat)
  | slice (h : Nat)
  | seam (c i : Nat)
deriving DecidableEq, Repr

/-- The cluster of a unit; for a slice there is none. -/
def UnitRef.cluster : UnitRef → Option Nat
  | .element e => some (e / 12)
  | .tile t => some (t / 6)
  | .port p => some (p / 3)
  | .strand k => some (k / 8)
  | .slice _ => none
  | .seam c _ => some c

/-- The unit of kind and index in cluster c (02 R24). -/
def unitIn (c kind idx : Nat) : Option UnitRef :=
  match kind with
  | 0 => if idx < 12 then some (.element (12 * c + idx)) else none
  | 1 => if idx < 6 then some (.tile (6 * c + idx)) else none
  | 2 => if idx < 3 then some (.port (3 * c + idx)) else none
  | 3 => if idx < 8 then some (.strand (8 * c + idx)) else none
  | 5 => if idx < 4 then some (.seam c idx) else none
  | _ => none

/-- The unit of an absolute identifier (02 R24). -/
def unitAbs (id : Nat) : Option UnitRef :=
  let die := bits id 12 4
  let cl := bits id 8 4
  let kind := bits id 5 3
  let idx := bits id 0 5
  if 9 ≤ die then none
  else if kind = 4 then (if cl = 0 && idx < 24 then some (.slice (24 * die + idx)) else none)
  else unitIn (16 * die + cl) kind idx

/-- The unit of a region-relative identifier (02 R24). -/
def Launch.unit? (l : Launch) (id : Nat) : Option UnitRef :=
  match l.cluster? (bits id 8 8) with
  | none => none
  | some c => if bits id 5 3 = 4 then none else unitIn c (bits id 5 3) (bits id 0 5)

/-- The kind and index bits of a unit. -/
def UnitRef.low : UnitRef → Nat
  | .element e => e % 12
  | .tile t => 32 + t % 6
  | .port p => 64 + p % 3
  | .strand k => 96 + k % 8
  | .slice h => 128 + h % 24
  | .seam _ i => 160 + i

/-- The absolute identifier of a unit. -/
def UnitRef.abs : UnitRef → BitVec 16
  | .slice h => BitVec.ofNat 16 (4096 * (h / 24) + 128 + h % 24)
  | u => BitVec.ofNat 16 (256 * (u.cluster.getD 0) + u.low)

/-- The region-relative identifier of a unit of the launch. -/
def Launch.relId (l : Launch) (u : UnitRef) : Nat := 256 * l.rcl (u.cluster.getD 0) + u.low

/-- The die of a unit. -/
def UnitRef.die : UnitRef → Nat
  | .slice h => h / 24
  | u => (u.cluster.getD 0) / 16

/-- The need-mask bit of a unit (02 R30, R31). -/
def UnitRef.needBit : UnitRef → Nat
  | .element e => e % 12
  | .tile t => 12 + t % 6
  | .port p => 18 + p % 3
  | _ => 21

/-- The launch's need mask names the unit (02 R31, R32). -/
def Launch.needs (l : Launch) (u : UnitRef) : Bool :=
  match u.cluster with
  | none => false
  | some c => (l.record.needs.getD (l.rcl c) 0).getLsbD u.needBit

/-- The unit's presence bit is set (02 R30). -/
def State.present (s : State) (u : UnitRef) : Bool :=
  match u.cluster with
  | none => true
  | some c => (s.cluster c).present.getLsbD u.needBit

/-! ### The trub record (23 R347) -/

/-- Saturating increment. -/
def satAdd {n : Nat} (x : BitVec n) (k : Nat) : BitVec n := BitVec.ofNat n (Nat.min (x.toNat + k) (2 ^ n - 1))

/-- The trub ring of a die. -/
def State.ring (s : State) (die : Nat) : TrubRing := tabGet { entries := [], head := 0, lastCor := [] } s.trub die

/-- Enter a record in the trub ring of a die: the ring keeps the last 4,096. -/
def State.trubAdd (s : State) (die kind : Nat) (unit : BitVec 16) (job code : Nat) (detail : Word64) : State :=
  let r := s.ring die
  let t : Trub := { time := BitVec.ofNat 48 s.fc, kind := BitVec.ofNat 8 kind, unit := unit, job := BitVec.ofNat 8 job,
                    code := BitVec.ofNat 8 code, detail := detail }
  let es := r.entries ++ [t]
  { s with trub := tabPut die { r with entries := es.drop (es.length - 4096), head := r.head + 1 } s.trub }

/-- Enter a correction, at most once per unit per 4,096 fc (23 R347). -/
def State.trubCorrection (s : State) (die : Nat) (unit : BitVec 16) (job : Nat) (detail : Word64) : State :=
  let r := s.ring die
  let fresh := match r.lastCor.find? (fun p => p.1 == unit.toNat) with
    | none => true
    | some p => p.2 + 4096 ≤ s.fc
  if fresh then
    let s1 := s.trubAdd die 3 unit job 0 detail
    { s1 with trub := tabPut die { (s1.ring die) with lastCor := tabPut unit.toNat s.fc r.lastCor } s1.trub }
  else s

/-- CODE of a trub entry for a cell that a unit found bad: the trap cause where a strand or a home slice met it, the
element-fault cause elsewhere (23 R347; 06 R92; 22 R322). -/
def badCode (u : UnitRef) (x : Checked) : Nat :=
  match u with
  | .strand _ | .slice _ => 0x07
  | _ => x.cause

/-- Count the outcome of a check by a consumer of a unit's cluster, and enter it in the die's trub record (16 R244). -/
def State.countCheck (s : State) (u : UnitRef) (job : Nat) (addr : Word64) (x : Checked) : State :=
  match x with
  | .clean _ => s
  | .corrected _ =>
    match u.cluster with
    | none => (s.setDv { s.dv with corr := satAdd s.dv.corr 1 }).trubCorrection u.die u.abs job addr
    | some c =>
      let cl := s.cluster c
      (s.setCluster c { cl with corr := satAdd cl.corr 1 }).trubCorrection u.die u.abs job addr
  | _ =>
    match u.cluster with
    | none => (s.setDv { s.dv with bad := satAdd s.dv.bad 1 }).trubAdd u.die 4 u.abs job (badCode u x) addr
    | some c =>
      let cl := s.cluster c
      (s.setCluster c { cl with bad := satAdd cl.bad 1 }).trubAdd u.die 4 u.abs job (badCode u x) addr

/-- The home slice of a physical address (14 R212). -/
def homeOf (pa : Nat) : Nat :=
  let g := pa / 8192 % 2 ^ 31
  ((g % 2 ^ 21) ^^^ (g / 2 ^ 21)) % 216

/-- The slice's die records that an access of a job found an invalid state (16 R232). -/
def State.feNote (s : State) (pa va job : Nat) : State :=
  let u := UnitRef.slice (homeOf pa)
  s.trubAdd u.die 8 u.abs job 0x1F (BitVec.ofNat 64 va)

/-- Count a check made at the home slice of an address (16 R244). -/
def State.countHome (s : State) (pa job : Nat) (va : Word64) (x : Checked) : State :=
  s.countCheck (.slice (homeOf pa)) job va x

end Sys2Proof.Machine
end

