-- ==== Sys2Proof/Machine/Ops.lean ====
section
/-! DEFINITION. The shared operations over a strand: registers, retiring an instruction, the program counter, taking a
trap and returning from one (06 R58, R61, R63, R101, R102), and starting and ending strands and tasks (01 R12, 21 R311,
R316). -/

namespace Sys2Proof.Machine

/-- What a meaning answers. -/
abbrev Out : Type := Host.Outcome State Fault Refusal

/-! ### Registers (04 R58) -/

/-- General register r of a strand; g0 reads zero. -/
def Strand.reg (x : Strand) (r : GReg) : Word64 := if r = 0 then 0 else x.g[r.toNat]'(by omega)

/-- The strand with general register r written; a write to g0 is discarded. -/
def Strand.setReg (x : Strand) (r : GReg) (v : Word64) : Strand :=
  if r = 0 then x else { x with g := x.g.set r.toNat v (by omega) }

/-- Register r of the issuing strand. -/
def State.reg (s : State) (r : GReg) : Word64 := s.cur.reg r

/-- The state with register r of the issuing strand written. -/
def State.setReg (s : State) (r : GReg) (v : Word64) : State := s.setCur (s.cur.setReg r v)

/-! ### The program counter (04 R61, R63) -/

/-- The instruction is the second word of a pair. -/
def State.isPair (s : State) : Bool := s.issue.hi.isSome

/-- The address of the instruction word itself, never that of its prefix (04 R61). -/
def State.wordPc (s : State) : Word64 := if s.isPair then s.cur.pc + 4 else s.cur.pc

/-- The address of the word after the instruction, or after the pair. -/
def State.nextPc (s : State) : Word64 := s.wordPc + 4

/-- The issuing strand goes on at address a, with nothing in flight. -/
def State.goto (s : State) (a : Word64) : State := s.setCur { s.cur with pc := a, mode := .ready, pend := none }

/-- The instruction has completed: the strand goes on at the next word. -/
def State.retire (s : State) : State := s.goto s.nextPc

/-- The instruction has completed with register r written. -/
def State.retireReg (s : State) (r : GReg) (v : Word64) : State := (s.setReg r v).retire

/-- The 42-bit field of an I or B format (04 R62): the immediate alone, or with the prefix's high bits. -/
def State.sext16 (s : State) (imm : BitVec 16) : Word64 :=
  match s.issue.hi with
  | none => imm.signExtend 64
  | some h => (h ++ imm : BitVec 42).signExtend 64

/-- As `sext16` for a zero-extended immediate (04 R59). -/
def State.zext16 (s : State) (imm : BitVec 16) : Word64 :=
  match s.issue.hi with
  | none => imm.zeroExtend 64
  | some h => (h ++ imm : BitVec 42).zeroExtend 64

/-- The 26- or 52-bit word offset of a J format, sign-extended. -/
def State.sext26 (s : State) (off : BitVec 26) : Word64 :=
  match s.issue.hi with
  | none => off.signExtend 64
  | some h => (h ++ off : BitVec 52).signExtend 64

/-- The byte displacement of an M format: SignExt(disp)·size, with size 2^n bytes (04 R60, R62). -/
def State.disp (s : State) (n : Nat) (disp : BitVec 11) : Word64 :=
  let d : Word64 :=
    match s.issue.hi with
    | none => disp.signExtend 64
    | some h => (h ++ disp : BitVec 37).signExtend 64
  d <<< n

/-- The instruction word of i, as SQ_TVAL records it: the word after the prefix for a pair (04 R63). -/
def tvalWord (i : Instr) : Word64 := ((encode i).getLastD 0).zeroExtend 64

/-! ### Work records (21 R298) -/

/-- The physical address of job j's work record. -/
def State.workRec (s : State) (j : Nat) : Nat := s.dv.worktab.toNat + 64 * j

/-- The trap vector of job j: bytes 39:32 of its work record. -/
def State.jobTvec (s : State) (j : Nat) : Word64 := BitVec.ofNat 64 (s.mem.nat (s.workRec j + 32) 8)

/-! ### Starting and ending strands (01 R12, 21 R311, R316) -/

/-- The SQ_ registers and general registers of a strand at a start: g1 to g4 given, all else zero (01 R12, 21 R311). -/
def Strand.start (x : Strand) (pc g1 g2 g3 g4 tvec : Word64) (prio running : Bool) : Strand :=
  { x with
    mode := .ready, pc := pc, prio := prio, running := running, depth := 0, intrap := false, cause := 0, epc := 0, tval := 0,
    tvec := tvec &&& ~~~3, retry := 0x0400, scratch := 0, pend := none, susp := none, yield := none,
    g := ((((Vector.replicate 32 (0 : Word64)).set 1 g1).set 2 g2).set 3 g3).set 4 g4 }

/-- Strand k starts a popped or stolen task (21 R311). -/
def State.startTask (s : State) (k : Nat) (t : Task) : State :=
  match s.launchOf k with
  | none => s
  | some l =>
    let x := s.strand k
    s.setStrand k (x.start t.entry l.record.param l.record.image t.arg t.join (s.jobTvec l.job) t.high true)

/-- Strand k has no task and no entry left: it pops its cluster's head task and starts it, or exits if declared and is
idle if not (21 R316). -/
def State.endStrand (s : State) (k : Nat) : State :=
  let x := s.strand k
  let cl := s.cluster (k / 8)
  let s1 := s.setStrand k { x with running := false, depth := 0, pend := none, susp := none,
                                   mode := if x.declared then .exited else .idle }
  match cl.deque with
  | [] => s1
  | t :: rest => if (s.launchOf k).isSome then (s1.setCluster (k / 8) { cl with deque := rest }).startTask k t else s1

/-- A launch takes a fault word: FWORD is its first; of words of one cycle that of the lowest UNIT, then of the lowest SLOT
(22 R323). -/
def Launch.takeFault (l : Launch) (fc : Nat) (w : Word64) : Launch :=
  let less := w.toNat / 2 ^ 48 < l.fword.toNat / 2 ^ 48 ||
    (w.toNat / 2 ^ 48 == l.fword.toNat / 2 ^ 48 && bits w.toNat 35 5 < bits l.fword.toNat 35 5)
  { l with status := l.status ||| 2, fword := if l.fword = 0 || (l.faultAt == fc && less) then w else l.fword,
           faultAt := if l.fword = 0 then fc else l.faultAt }

/-- Record FAULT and a fault word in the launch that holds a strand (22 R321, R323). -/
def State.strandFault (s : State) (k : Nat) : State :=
  match s.launchOf k with
  | none => s
  | some l =>
    let w : Word64 := (BitVec.ofNat 64 (l.relId (.strand k)) <<< 48) ||| (0x11 <<< 40)
    s.modLaunch l.id (fun y => y.takeFault s.fc w)

/-! ### Taking a trap (06 R92, R101; 22 R320) -/

/-- The causes routed to the supervisor (06 R92). -/
def supervisorRouted (code : Nat) : Bool := code == 0x04 || code == 0x06 || code == 0x0D || code == 0x1F

/-- Hand a trap to the supervisor: the strand is suspended and no SQ_ register changes; its record goes to the trap ring.
With the ring disabled the strand ends as ACT 1 of 22 R321 does, and the trap enters the trub record. -/
def State.suspend (s : State) (k : Nat) (code : BitVec 8) (tval epc : Word64) (pair : Bool) : State :=
  let x := s.strand k
  let r : TrapRec := { epc := epc, tval := tval, unit := (UnitRef.strand k).abs, code := code, pair := pair, job := x.job }
  if bits s.dv.trapring.toNat 0 5 = 0 then
    ((s.strandFault k).endStrand k).trubAdd (k / 128) 2 r.unit x.job.toNat code.toNat tval
  else
    { (s.setStrand k { x with mode := .suspended, susp := some r, pend := none }) with traps := s.traps ++ [r] }

/-- TakeTrap(code, tval, epc, pair) of 06 R101 on strand k: the one way a strand takes an exception. -/
def State.takeTrap (s : State) (k : Nat) (code : BitVec 8) (tval epc : Word64) (pair : Bool) : State :=
  let x := s.strand k
  if supervisorRouted code.toNat then s.suspend k code tval epc pair
  else if x.intrap || x.tvec = 0 then s.suspend k 0x0D (code.zeroExtend 64) epc pair
  else
    s.setStrand k
      { x with epc := epc &&& ~~~3, tval := tval, cause := BitVec.ofBool pair ++ code, intrap := true, pc := x.tvec,
               mode := .ready, pend := none }

/-- The current instruction traps: the recorded address is that of the instruction or its prefix (06 R101). -/
def State.trap (s : State) (code : BitVec 8) (tval : Word64) : State :=
  s.takeTrap s.issue.k code tval s.cur.pc s.isPair

/-- Run f as strand k with a given prefix, and put the issuing context back. -/
def State.asStrand (s : State) (k : Nat) (hi : Option (BitVec 26)) (f : State → State) : State :=
  let i := s.issue
  (f (s.setIssue { k := k, hi := hi, exam := false })).setIssue i

/-- Return from a trap (06 R102): the strand goes on at SQ_EPC and INTRAP is cleared. -/
def State.returnFromTrap (s : State) : State :=
  s.setCur { s.cur with pc := s.cur.epc, intrap := false, mode := .ready, pend := none }

/-- An illegal instruction: trap 0x01 with the word refused (04 R77). -/
def State.illegal (s : State) (w : Word64) : State := s.trap 0x01 w

/-- Access denied: trap 0x02. -/
def State.denied (s : State) (v : Word64) : State := s.trap 0x02 v

/-- The current instruction is in flight and waits (06 R86): `parked` for a cell or JOIN, else `waiting`. -/
def State.hold (s : State) (i : Instr) (parked : Bool) (f : Pend → Pend) : State :=
  let p : Pend := { instr := i, hi := s.issue.hi, pa := 0, va := 0, place := .none, stage := 0, value := 0, cmds := [],
                    walks := [], sends := [], left := [], sum := 0 }
  let p0 := match s.cur.pend with
    | some q => q
    | none => p
  s.setCur { s.cur with mode := if parked then .parked else .waiting, pend := some (f p0) }

end Sys2Proof.Machine
end

