-- ==== Sys2Proof/Machine/Translate.lean ====
section
/-! DEFINITION. Translation of virtual addresses: the job's heap, the page tables, the TLBs (14 R207–R211), and the
access tables of the targets (23 R339, R340). -/

namespace Sys2Proof.Machine

/-- Whose TLB a translation uses: a cluster's sequencer, a memory-port tile, or none (the host and the dispatchers). -/
inductive Site where
  | seq (c : Nat)
  | port (p : Nat)
  | bare
deriving DecidableEq, Repr

/-- What a translation finds (14 R208, R210): a heap address; a resident page with its W and X bits; a discarded page with
the address its frame gives, the physical address of its entry, its bits, and whether it is of 2 MiB; no mapping; not resident; arriving; or an
entry no level accepts. -/
inductive Xlate where
  | heap (pa : Nat)
  | page (pa : Nat) (w x : Bool)
  | discarded (pa entry : Nat) (w x big : Bool)
  | noMap
  | absent
  | arriving
  | machine
deriving DecidableEq, Repr

/-- Job j's translation record as memory holds it (14 R208). -/
def State.xrecOf (s : State) (j : Nat) : XRec :=
  let a := s.dv.jobtab.toNat + 64 * j
  { hbase := s.mem.nat a 8, hlimit := s.mem.nat (a + 8) 8, hoff := s.mem.nat (a + 16) 8, root := s.mem.nat (a + 24) 8,
    kegpa := s.mem.nat (a + 32) 8, kegcells := s.mem.nat (a + 40) 4 }

/-- The address lies in the job's heap (14 R208). -/
def XRec.inHeap (x : XRec) (va : Nat) : Bool := x.hbase ≤ va && va < x.hbase + x.hlimit

/-- Read a page-table entry, checking its cell as the walker does; none when the cell is bad
or its state invalid (14 R211, 16 R232, R245). -/
def State.readEntry (s : State) (u : UnitRef) (job a : Nat) : Option Word64 × State :=
  let c := s.mem.cell a
  let k := check c.data c.code
  if badFe c.fe then (none, s.feNote a a job)
  else (k.data?.map (fun d => BitVec.ofNat 64 (cbytes d (a % 32) 8)), s.countCheck u job (BitVec.ofNat 64 a) k)

/-- The kind of a page-table entry. -/
def entryKind (e : Word64) : Nat := bits e.toNat 0 3
/-- The address field of a page-table entry. -/
def entryAddr (e : Word64) : Nat := bits e.toNat 8 36 * 256
/-- W of an entry. -/
def entryW (e : Word64) : Bool := e.getLsbD 3
/-- X of an entry. -/
def entryX (e : Word64) : Bool := e.getLsbD 4

/-- A walk found an entry of a leaf kind: the entry, its address, and whether it maps 2 MiB. -/
structure Found where
  entry : Word64
  at_   : Nat
  big   : Bool
deriving DecidableEq, Repr

/-- The three-level walk (14 R210): none for a machine check. An entry of kind 0 at any level is returned as found. -/
def State.walk (s : State) (u : UnitRef) (job : Nat) (x : XRec) (va : Nat) : Option Found × State :=
  let a0 := x.root + 8 * bits va 37 15
  match s.readEntry u job a0 with
  | (none, s1) => (none, s1)
  | (some e0, s1) =>
    if entryW e0 && entryX e0 then (none, s1)
    else if entryKind e0 = 0 then (some ⟨e0, a0, false⟩, s1)
    else if entryKind e0 ≠ 1 then (none, s1)
    else
      let a1 := entryAddr e0 + 8 * bits va 21 16
      match s1.readEntry u job a1 with
      | (none, s2) => (none, s2)
      | (some e1, s2) =>
        if 6 ≤ entryKind e1 || (entryW e1 && entryX e1) then (none, s2)
        else if entryKind e1 ≠ 1 then (some ⟨e1, a1, true⟩, s2)
        else
          let a2 := entryAddr e1 + 8 * bits va 16 5
          match s2.readEntry u job a2 with
          | (none, s3) => (none, s3)
          | (some e2, s3) =>
            if entryKind e2 = 1 || 6 ≤ entryKind e2 || (entryW e2 && entryX e2) then (none, s3)
            else (some ⟨e2, a2, false⟩, s3)

/-- The virtual page number at a page size. -/
def vpnOf (va : Nat) (big : Bool) : Nat := if big then va / 2 ^ 21 else va / 2 ^ 16

/-- The TLB entry of a job for an address. -/
def tlbFind (t : List TlbEntry) (job va : Nat) : Option TlbEntry :=
  t.find? (fun e => e.job == job && e.vpn == vpnOf va e.big)

/-- The TLB of a site. -/
def State.tlb (s : State) : Site → List TlbEntry
  | .seq c => (s.cluster c).tlb
  | .port p => (s.port p).tlb
  | .bare => []

/-- Enter a translation in the site's TLB, the oldest leaving when it is full (14 R211). -/
def State.tlbAdd (s : State) (w : Site) (e : TlbEntry) : State :=
  match w with
  | .seq c => let x := s.cluster c; s.setCluster c { x with tlb := (x.tlb ++ [e]).drop (x.tlb.length - 255) }
  | .port p => let x := s.port p; s.setPort p { x with tlb := (x.tlb ++ [e]).drop (x.tlb.length - 1023) }
  | .bare => s

/-- The unit whose load path a walk of the site uses. -/
def Site.unit : Site → UnitRef
  | .seq c => .strand (8 * c)
  | .port p => .port p
  | .bare => .slice 0

/-- What an entry of a leaf kind means for an address. -/
def entryMeans (e : Word64) (at_ va : Nat) (big : Bool) : Xlate :=
  let pa := (entryAddr e + (if big then va % 2 ^ 21 else va % 2 ^ 16)) % 2 ^ 44
  match entryKind e with
  | 0 => .noMap
  | 2 => .page pa (entryW e) (entryX e)
  | 3 => .absent
  | 4 => .discarded pa at_ (entryW e) (entryX e) big
  | 5 => .arriving
  | _ => .machine

/-- Translate a virtual address of a job at a site (14 R208, R210, R211). -/
def State.translate (s : State) (w : Site) (job : Nat) (x : XRec) (va : Nat) : Xlate × State :=
  if x.inHeap va then (.heap ((va + x.hoff) % 2 ^ 44), s)
  else
    match tlbFind (s.tlb w) job va with
    | some e =>
      if entryKind e.entry = 4 then
        match s.walk w.unit job x va with
        | (some f, s1) => (entryMeans e.entry f.at_ va e.big, s1)
        | (none, s1) => (.machine, s1)
      else (entryMeans e.entry 0 va e.big, s)
    | none =>
      match s.walk w.unit job x va with
      | (none, s1) => (.machine, s1)
      | (some f, s1) =>
        let k := entryKind f.entry
        let s2 := if k = 2 || k = 3 || k = 4 then
            s1.tlbAdd w { job := job, vpn := vpnOf va f.big, big := f.big, entry := f.entry } else s1
        (entryMeans f.entry f.at_ va f.big, s2)

/-- Translate for an access that may write. A write that a cached entry of a discarded page lets through revives the page
by a compare-and-swap on the entry in memory; when that entry is no longer of kind 4 the access translates again (14
R217). -/
def State.translateFor (s : State) (w : Site) (job : Nat) (x : XRec) (va : Nat) (write : Bool) : Xlate × State :=
  match s.translate w job x va with
  | (.discarded pa entry wr ex big, s1) =>
    if write && entryKind (BitVec.ofNat 64 (s1.mem.nat entry 8)) ≠ 4 then
      match s1.walk w.unit job x va with
      | (some f, s2) => (entryMeans f.entry f.at_ va f.big, s2)
      | (none, s2) => (.machine, s2)
    else (.discarded pa entry wr ex big, s1)
  | r => r

/-- Forget the translations a predicate matches, in every TLB of the module (06 R103), and the requests to the pager for
their pages. -/
def State.tlbForget (s : State) (p : TlbEntry → Bool) : State :=
  let gone (a : Nat × Nat) : Bool := p { job := a.1, vpn := a.2, big := false, entry := 0 } ||
    p { job := a.1, vpn := a.2 / 32, big := true, entry := 0 }
  { s with clusters := s.clusters.map (fun x => (x.1, { x.2 with tlb := x.2.tlb.filter (fun e => !p e) })),
           ports := s.ports.map (fun x => (x.1, { x.2 with tlb := x.2.tlb.filter (fun e => !p e),
                                                           asked := x.2.asked.filter (fun a => !gone a) })) }

/-! ### Access tables (23 R339, R340) -/

/-- The entry of master m in the table of a target, as loaded; before the first reload 0, and 3 for masters 768–911. -/
def State.access (s : State) (target m : Nat) : Nat :=
  if s.dv.loaded then bits (tabGet 0 s.dv.access (256 * target + m / 4)).toNat (2 * (m % 4)) 2
  else if 768 ≤ m && m ≤ 911 then 3 else 0

/-- The access-table number of a home slice, a memory-port tile, a portal, a control window (23 R340). -/
def targetSlice (h : Nat) : Nat := h
/-- Memory-port tile p's table. -/
def targetPort (p : Nat) : Nat := 216 + p
/-- Portal p's table. -/
def targetPortal (p : Nat) : Nat := 648 + p
/-- Function f's control-window table. -/
def targetWindow (f : Nat) : Nat := 1080 + f

/-- The master number of strand k (23 R339). -/
def State.masterOf (s : State) (k : Nat) : Nat :=
  let x := s.strand k
  if x.priv then 768 + k / 8 else x.job.toNat

/-- The translation record a strand uses: job 0's for a supervisor strand (log 9), else the one its launch took. -/
def State.strandX (s : State) (k : Nat) : XRec :=
  if (s.strand k).priv then s.xrecOf 0
  else match s.launchOf k with
    | some l => l.xrec
    | none => s.xrecOf (s.strand k).job.toNat

/-- The job of a strand's accesses. -/
def State.strandJob (s : State) (k : Nat) : Nat := if (s.strand k).priv then 0 else (s.strand k).job.toNat

end Sys2Proof.Machine
end

