-- ==== Sys2Proof/Machine/Slice.lean ====
section
/-! DEFINITION. The home slices: cached lines, performing accesses, state changes, wait tables, park lists and waking (14
R213–R217, R223; 16 R229–R234, R243). -/

namespace Sys2Proof.Machine

/-! ### Tensor descriptors (09 R155) -/

/-- BASE of a descriptor. -/
def tBase (d : Line) : Nat := lbytes d 0 8
/-- ID of a descriptor. -/
def tId (d : Line) : Nat := lbytes d 8 2
/-- Format tag of a descriptor. -/
def tFmt (d : Line) : Nat := lbytes d 10 1 % 16
/-- RANK of a descriptor. -/
def tRank (d : Line) : Nat := lbytes d 11 1
/-- The value count of a descriptor: the product of its extents. -/
def tCount (d : Line) : Nat := lbytes d 12 4 * lbytes d 16 4 * lbytes d 20 4 * lbytes d 24 4
/-- The bytes the tensor occupies, rounded up to a whole cell. -/
def tBytes (d : Line) : Nat := (tCount d * (tagWidth (tFmt d) / 8) + 31) / 32 * 32

/-- The ID of the job's tensor whose range wholly contains the 256-byte line of an address, or 0 (14 R216). -/
def State.lineTag (s : State) (job pa va : Nat) : BitVec 16 :=
  let lv := va - pa % 256
  match (s.job job).tensors.find? (fun t => tBase t.2 ≤ lv && lv + 256 ≤ tBase t.2 + tBytes t.2 && pa % 256 ≤ va) with
  | some t => t.1
  | none => 0

/-! ### Cached lines (14 R213–R216) -/

/-- The L2 line of an address at its home slice. -/
def State.l2Line (s : State) (pa : Nat) : Option L2Line :=
  (s.slice (homeOf pa)).lines.find? (fun l => l.addr == pa / 256 * 256)

/-- Mark the cell of an address dirty in its line, if the slice holds the line, keeping what device memory holds behind it. -/
def State.dirtyCell (s : State) (pa : Nat) : State :=
  let h := homeOf pa
  let x := s.slice h
  let j := pa / 32 % 8
  s.setSlice h { x with lines := x.lines.map (fun l =>
    if l.addr == pa / 256 * 256 && !l.dirty.getLsbD j then
      { l with dirty := l.dirty ||| BitVec.ofNat 8 (2 ^ j), back := l.back ++ [(j, s.mem.cell pa)] }
    else l) }

/-- The 64-byte line number of an address in an L1. -/
def l1Of (pa : Nat) : Nat := pa / 64

/-- Invalidate every L1 copy of an address's line other than the writer's (14 R214). -/
def State.l1Drop (s : State) (pa : Nat) (keep : Option Nat) : State :=
  { s with ports := s.ports.map (fun x =>
      if some x.1 == keep then x else (x.1, { x.2 with l1 := x.2.l1.filter (fun n => n != l1Of pa) })) }

/-- A port other than the writer's holds the line of an address in its L1. -/
def State.l1Shared (s : State) (pa : Nat) (keep : Option Nat) : Bool :=
  s.ports.any (fun x => some x.1 != keep && x.2.l1.contains (l1Of pa))

/-- A port's L1 takes the line of an address: 1,024 lines, the oldest leaving (14 R213). -/
def State.l1Fill (s : State) (p pa : Nat) : State :=
  let x := s.port p
  if x.l1.contains (l1Of pa) then s
  else s.setPort p { x with l1 := (x.l1 ++ [l1Of pa]).drop (x.l1.length - 1023) }

/-- The memory-port tile whose L1 serves a strand: P(n mod 3) of its cluster (14 R213). -/
def portOfStrand (k : Nat) : Nat := 3 * (k / 8) + k % 8 % 3

/-! ### Fields of cells (16 R242, R243) -/

/-- The cell of an address with n bytes of v merged in. -/
def mergeBytes (d : CellData) (off n v : Nat) : CellData :=
  let mask : CellData := BitVec.ofNat 256 (2 ^ (8 * n) - 1) <<< (8 * off)
  (d &&& ~~~mask) ||| (BitVec.ofNat 256 (v % 2 ^ (8 * n)) <<< (8 * off))

/-- The share of n bytes of v at byte `off` of a cell (16 R241). -/
def shareOf (off n v : Nat) : BitVec 28 := gen (mergeBytes 0 off n v)

/-- n bytes at an address as a consumer has them: of the corrected cell, or 0 of a bad one (16 R240, R244). -/
def Memory.good (m : Memory) (a n : Nat) : Nat :=
  let c := m.cell a
  match (check c.data c.code).data? with
  | some d => cbytes d (a % 32) n
  | none => 0

/-- A home slice writes n bytes of v at an address for the hardware's own tables: the old cell is checked, and the cell is
the corrected one with the bytes merged in and re-coded, or poisoned (16 R243). -/
def State.writeField (s : State) (a n v : Nat) : State :=
  let c := s.mem.cell a
  let k := check c.data c.code
  let m := mergeBytes (k.data?.getD c.data) (a % 32) n v
  let s1 := (s.dirtyCell a).l1Drop a none
  s1.setMem (s1.mem.setCell a { c with data := m, code := if k.data?.isSome then gen m else gen m ^^^ poisonMark })

/-- As `writeField`, with the check of the old cell counted (16 R244). -/
def State.putField (s : State) (job a n v : Nat) : State :=
  let c := s.mem.cell a
  (s.countHome a job (BitVec.ofNat 64 a) (check c.data c.code)).writeField a n v

/-! ### Merge groups hold writes (14 R223) -/

/-- The group sends a cell of the L2 line of an address. -/
def Merge.covers (m : Merge) (pa : Nat) : Bool := m.cells.any (fun c => c.2 / 256 == pa / 256)

/-- A group covering the address still runs, so a write to it is held. -/
def State.writeHeld (s : State) (pa : Nat) : Bool :=
  s.slices.any (fun x => x.2.merges.any (fun m => m.covers pa))

/-- A write to a line of a running group closes its window at once (14 R223). -/
def State.closeMerges (s : State) (pa : Nat) : State :=
  { s with slices := s.slices.map (fun x =>
      (x.1, { x.2 with merges := x.2.merges.map (fun m => if m.covers pa then { m with isOpen := false } else m) })) }

/-! ### Machine checks of units that are no strand (16 R233; 22 R320; 23 R346) -/

/-- A machine check that no strand takes goes to the supervisor as a record of the unit. With the trap ring disabled nothing
can take it, and the module freezes (log 67). A record that still waits to be posted is not repeated. -/
def State.machineCheck (s : State) (unit : BitVec 16) (job : Nat) (epc tval : Word64) : State :=
  if bits s.dv.trapring.toNat 0 5 = 0 then s.setDv { s.dv with frozen := true }
  else
    let r : TrapRec := { epc := epc, tval := tval, unit := unit, code := 0x1F, pair := false, job := BitVec.ofNat 8 job }
    if s.traps.contains r then s else { s with traps := s.traps ++ [r] }

/-- The identifier of an address's home slice, as a machine check of its cell reports it. -/
def sliceTval (pa : Nat) : Word64 := (UnitRef.slice (homeOf pa)).abs.zeroExtend 64

/-! ### Park areas (16 R233) -/

/-- The park area of a job; none when SHIFT is 0. -/
def State.parkArea (s : State) (job : Nat) : Option Nat :=
  let sh := bits s.dv.parktab.toNat 0 6
  if sh = 0 then none else some (bits s.dv.parktab.toNat 20 24 * 2 ^ 20 + job * 2 ^ sh)

/-- The bucket cell of a virtual address in a park area (16 R233). -/
def bucketOf (area logb va : Nat) : Nat :=
  area + 32 * (1 + (bits va 5 20 ^^^ bits va 25 20 ^^^ bits va 45 7) % 2 ^ logb)

/-- The bucket cell of a virtual address in an area, with the LOGB of its header. -/
def State.bucket (s : State) (area va : Nat) : Nat := bucketOf area (s.mem.good (area + 8) 1) va

/-- A cell of the park area passes its check. -/
def State.parkOk (s : State) (a : Nat) : Bool := let c := s.mem.cell a; (check c.data c.code).data?.isSome

/-- The records of a chain from an address, following NEXT, at most n. -/
def chainFrom (m : Memory) : Nat → Nat → List Nat
  | 0, _ => []
  | n + 1, a => if a = 0 then [] else a :: chainFrom m n (m.good (a + 16) 8)

/-- The records of the bucket of a virtual address, in chain order. -/
def State.chain (s : State) (area va : Nat) : List Nat :=
  chainFrom s.mem (s.mem.bytes.length + 1) (s.mem.good (s.bucket area va) 8)

/-- The records of a job's cell, in list order (16 R231). -/
def State.recordsOf (s : State) (job va : Nat) : List Nat :=
  match s.parkArea job with
  | none => []
  | some area => (s.chain area va).filter (fun r => s.mem.good r 8 == va / 32 * 32)

/-- The park-area cells that a walk of the chain of a job's cell reads. -/
def State.parkCells (s : State) (job va : Nat) : List Nat :=
  match s.parkArea job with
  | none => []
  | some area => area :: s.bucket area va :: s.chain area va

/-- A walk of the chain of a job's cell meets no bad cell. -/
def State.parkSound (s : State) (job va : Nat) : Bool := (s.parkCells job va).all s.parkOk

/-- A slice reads park-area cells as a consumer, and its checks are counted (16 R233, R244). -/
def State.parkVisit (s : State) (job : Nat) : List Nat → State
  | [] => s
  | a :: t =>
    let c := s.mem.cell a
    (s.countHome a job (BitVec.ofNat 64 a) (check c.data c.code)).parkVisit job t

/-- Set or clear the W bit of a cell; its code does not change (16 R228). -/
def State.setW (s : State) (pa : Nat) (w : Bool) : State :=
  s.setMem (s.mem.setSide pa { s.mem.sideAt pa with w := w })

/-- What parking did: listed in a record, no record free, or a bad park-area cell. -/
inductive Parked where
  | listed (rec : Nat)
  | unlisted
  | machine
deriving DecidableEq, Repr

/-- Park an access on the list of a job's cell: a record from FREE, filled and appended at TAIL, and W set; an access that
finds no record is counted in NOREC. A bad cell of the area changes nothing (16 R233, R234). -/
def State.park (s : State) (job pa va : Nat) (unit : BitVec 16) (kind : Nat) : Parked × State :=
  match s.parkArea job with
  | none => (.unlisted, s)
  | some area =>
    let m := s.mem
    let rec_ := m.good area 8
    let b := s.bucket area va
    let first := m.good b 8 == 0
    let tail := m.good (b + 8) 8
    let read := area :: (if rec_ = 0 then [] else b :: rec_ :: (if first then [] else [tail]))
    let s0 := s.parkVisit job read
    if !read.all s.parkOk then (.machine, s0)
    else if rec_ = 0 then (.unlisted, s0.writeField (area + 12) 4 (Nat.min (m.good (area + 12) 4 + 1) (2 ^ 32 - 1)))
    else
      let s1 := s0.writeField area 8 (m.good (rec_ + 16) 8)
      let s2 := s1.writeField rec_ 24 (va / 32 * 32 + unit.toNat * 2 ^ 64 + kind * 2 ^ 80)
      let s3 := if first then s2.writeField b 8 rec_ else s2.writeField (tail + 16) 8 rec_
      (.listed rec_, (s3.writeField (b + 8) 8 rec_).setW pa true)

/-- The record before a given one in a chain. -/
def chainPrev : List Nat → Nat → Option Nat
  | a :: b :: t, r => if b = r then some a else chainPrev (b :: t) r
  | _, _ => none

/-- Set or clear the WOKEN flag of a record. -/
def State.setWoken (s : State) (rec_ : Nat) (b : Bool) : State := s.writeField (rec_ + 11) 1 (if b then 1 else 0)

/-! ### Waiters -/

/-- Where a waiter stands. -/
def State.placeOf (s : State) : Waiter → Place
  | .strand k => match (s.strand k).pend with
    | some p => p.place
    | none => .none
  | .engine p id => match (s.port p).cmds.find? (fun c => c.id == id) with
    | some c => c.place
    | none => .none
  | .host f n => (vget (s.func f).waits n { va := 0, armed := false, place := .none, value := 0 }).place
  | .fill f => match (s.func f).posted with
    | w :: _ => w.place
    | [] => .none

/-- Move a waiter to a place. -/
def State.setPlace (s : State) (u : Waiter) (pl : Place) : State :=
  match u with
  | .strand k =>
    let x := s.strand k
    s.setStrand k { x with pend := x.pend.map (fun p => { p with place := pl }) }
  | .engine p id =>
    let x := s.port p
    s.setPort p { x with cmds := x.cmds.map (fun c => if c.id == id then { c with place := pl } else c) }
  | .host f n =>
    let x := s.func f
    let w := vget x.waits n { va := 0, armed := false, place := .none, value := 0 }
    s.setFunc f { x with waits := vset x.waits n { w with place := pl } }
  | .fill f =>
    let x := s.func f
    match x.posted with
    | w :: t => s.setFunc f { x with posted := { w with place := pl } :: t }
    | [] => s

/-- The launch of the engine command that waits. -/
def State.cmdLaunch (s : State) (p id : Nat) : Option Launch :=
  ((s.port p).cmds.find? (fun c => c.id == id)).bind (fun c => s.launch? c.launch)

/-- The job of a waiter. -/
def State.jobOf (s : State) : Waiter → Nat
  | .strand k => s.strandJob k
  | .engine p id => ((s.cmdLaunch p id).map (·.job)).getD 0
  | .host f _ => f
  | .fill f => f

/-- The translation record a waiter uses: the one its launch took at placement, or its job's (14 R208). -/
def State.recordX (s : State) : Waiter → XRec
  | .strand k => s.strandX k
  | .engine p id => ((s.cmdLaunch p id).map (·.xrec)).getD (s.xrecOf 0)
  | .host f _ => s.xrecOf f
  | .fill f => s.xrecOf f

/-- The identifier a park record holds for a waiter (16 R233). -/
def waiterUnit : Waiter → BitVec 16
  | .strand k => (UnitRef.strand k).abs
  | .engine p _ => (UnitRef.port p).abs
  | _ => 0

/-- The cell of memory that a virtual address of a job names now under a translation record: in the heap, or in the frame of
a resident, discarded or arriving page (14 R208, R210). -/
def State.cellIn (s : State) (x : XRec) (job va : Nat) : Option Nat :=
  if x.inHeap va then some ((va + x.hoff) % 2 ^ 44)
  else match (s.walk (.slice 0) job x va).1 with
    | none => none
    | some f =>
      if entryKind f.entry = 2 || entryKind f.entry = 4 || entryKind f.entry = 5 then
        some ((entryAddr f.entry + (if f.big then va % 2 ^ 21 else va % 2 ^ 16)) % 2 ^ 44)
      else none

/-- As `cellIn`, under the job's record as memory holds it. -/
def State.cellOf (s : State) (job va : Nat) : Option Nat := s.cellIn (s.xrecOf job) job va

/-- The translation record by which a launch's addresses are understood: from its placement on the one that it took then, before
that the job's own (14 R208). -/
def State.launchX (s : State) (l : Launch) : XRec :=
  match l.stage with
  | .placed | .ended => l.xrec
  | .waiting | .ready => s.xrecOf l.job

/-- The completion cell of a launch. -/
def State.doneOfLaunch (s : State) (l : Launch) : Option Nat := s.cellIn (s.launchX l) l.job l.record.done.toNat

/-- Remove a waiter's record from its chain and return it to FREE; when it was the cell's last, W is cleared in the cell's
frame of the moment (16 R232, R233, R238). A bad cell of the area is a machine check, and the record stays. -/
def State.unpark (s : State) (u : Waiter) (rec_ : Nat) : State :=
  let job := s.jobOf u
  match s.parkArea job with
  | none => s
  | some area =>
    let va := s.mem.good rec_ 8
    let b := s.bucket area va
    let next := s.mem.good (rec_ + 16) 8
    let ch := s.chain area va
    let s0 := s.parkVisit job (s.parkCells job va)
    if !s.parkSound job va then s0.machineCheck (UnitRef.slice (homeOf b)).abs job (BitVec.ofNat 64 va) (sliceTval b)
    else if !ch.contains rec_ then s0
    else
      let s1 := match chainPrev ch rec_ with
        | some p => s0.writeField (p + 16) 8 next
        | none => s0.writeField b 8 next
      let s2 := if next = 0 then s1.writeField (b + 8) 8 ((chainPrev ch rec_).getD 0) else s1
      let s3 := (s2.writeField rec_ 24 (s2.mem.good area 8 * 2 ^ 128)).writeField area 8 rec_
      if (s3.recordsOf job va).isEmpty then
        match s3.cellIn (s3.recordX u) job va with
        | some pa => s3.setW pa false
        | none => s3
      else s3

/-- Remove a waiter's wait-table entry or park record (16 R232, R235). -/
def State.dropWait (s : State) (u : Waiter) : State :=
  let s1 := match s.placeOf u with
    | .table h =>
      let x := s.slice h
      s.setSlice h { x with waits := x.waits.filter (fun w => w.who != u) }
    | .listed r => s.unpark u r
    | .woken (some r) => s.unpark u r
    | _ => s
  match s1.placeOf u with
  | .none => s1
  | _ => s1.setPlace u .none

/-- A waiter came to park and met a bad cell of the park area (16 R233): a strand takes the machine check; for an engine the
supervisor gets a record, and it is examined again later. -/
def State.parkFailed (s : State) (u : Waiter) (pa va : Nat) : State :=
  match u with
  | .strand k => s.asStrand k ((s.strand k).pend.bind (·.hi)) (fun t => t.trap 0x1F (sliceTval pa))
  | _ => (s.setPlace u (.unlisted s.fc)).machineCheck (waiterUnit u) (s.jobOf u) (BitVec.ofNat 64 va) (sliceTval pa)

/-- Park a waiter (16 R233, R234); a host waiter has no unit a record could name and stays unlisted (log 11). -/
def State.parkWaiter (s : State) (u : Waiter) (pa va kind : Nat) : State :=
  match u with
  | .host .. | .fill .. => s.setPlace u (.unlisted s.fc)
  | _ =>
    match s.park (s.jobOf u) pa va (waiterUnit u) kind with
    | (.listed r, s1) => s1.setPlace u (.listed r)
    | (.unlisted, s1) => s1.setPlace u (.unlisted s.fc)
    | (.machine, s1) => s1.parkFailed u pa va

/-! ### Lines leave and come (14 R215, R216; 16 R230) -/

/-- A line leaves its slice: the waiters on its cells move to their park lists, its L1 copies go, its dirty cells are
written back. -/
def State.evictLine (s : State) (h line : Nat) : State :=
  let x := s.slice h
  let ws := x.waits.filter (fun w => w.pa / 256 * 256 == line && w.kind != 4)
  let s1 := s.setSlice h { x with lines := x.lines.filter (fun y => y.addr != line),
                                  waits := x.waits.filter (fun w => !ws.contains w) }
  let s2 := ws.foldl (fun t w => t.parkWaiter w.who w.pa w.va w.kind) s1
  { s2 with ports := s2.ports.map (fun p => (p.1, { p.2 with l1 := p.2.l1.filter (fun n => n * 64 / 256 * 256 != line) })) }

/-- Lines that a slice's L2 of 4 MiB holds (00 R1; 14 R215). -/
def l2Lines : Nat := 16384

/-- The home slice fills the line of an address if it has none, tagged by the request (14 R216). A full L2 first evicts its
oldest line that no merge group keeps (14 R222); which line leaves shows nowhere (14 R215). -/
def State.fillLine (s : State) (job pa va : Nat) : State :=
  match s.l2Line pa with
  | some _ => s
  | none =>
    let h := homeOf pa
    let s1 := if (s.slice h).lines.length < l2Lines then s
      else match (s.slice h).lines.find? (fun l => !s.writeHeld l.addr) with
        | some l => s.evictLine h l.addr
        | none => s
    let x := s1.slice h
    if x.lines.length < l2Lines then
      s1.setSlice h { x with lines := x.lines ++
        [{ addr := pa / 256 * 256, job := job, id := s.lineTag job pa va, dirty := 0, back := [] }] }
    else s1

/-- Store a whole cell at its home slice: the line is filled and dirtied, other L1 copies go (14 R214, R215). -/
def State.storeCell (s : State) (job pa va : Nat) (x : Cell) (keep : Option Nat) : State :=
  let s1 := ((s.fillLine job pa va).dirtyCell pa).l1Drop pa keep
  s1.setMem (s1.mem.setCell pa x)

/-! ### Waiting (16 R230, R232) -/

/-- The first examination of an access found that it must wait (16 R230): a wait-table entry, bound to the cached line, if
one is free, else it parks; on a discarded page it parks at once (14 R218). -/
def State.enterWait (s : State) (u : Waiter) (pa va kind : Nat) (discarded : Bool) : State :=
  let h := homeOf pa
  if !discarded && (s.slice h).waits.length < 64 then
    let s1 := s.fillLine (s.jobOf u) pa va
    let x := s1.slice h
    (s1.setSlice h { x with waits := x.waits ++ [{ pa := pa / 32 * 32, va := va, who := u, kind := kind }] }).setPlace
      u (.table h)
  else s.parkWaiter u pa va kind

/-- A re-examined access still waits (16 R232): a listed record keeps its place and loses WOKEN, an access without one is
appended, an unlisted access stays unlisted. -/
def State.reWait (s : State) (u : Waiter) (pa va kind : Nat) : State :=
  match s.placeOf u with
  | .woken (some r) => (s.setWoken r false).setPlace u (.listed r)
  | .unlisted _ => s.setPlace u (.unlisted s.fc)
  | _ => s.parkWaiter u pa va kind

/-! ### Waking (16 R231) -/

/-- The waiter a park record names, by the record it is listed in. -/
def State.ownerOfRecord (s : State) (rec_ : Nat) : Option Waiter :=
  match unitAbs (s.mem.good (rec_ + 8) 2) with
  | some (.strand k) => if s.placeOf (.strand k) == .listed rec_ then some (.strand k) else none
  | some (.port p) => ((s.port p).cmds.find? (fun c => c.place == .listed rec_)).map (fun c => .engine p c.id)
  | _ => none

/-- Wake a list of park records whose kinds are invited: `loads` and at most one consuming access, or one filler. -/
def State.wakeRecords (s : State) (full : Bool) : List Nat → Bool → Bool × State
  | [], one => (one, s)
  | r :: t, one =>
    let kind := s.mem.good (r + 10) 1
    let invited := if full then (kind == 0 || (!one && (kind == 1 || kind == 3))) else (!one && kind == 2)
    let single := kind != 0
    match (if invited then s.ownerOfRecord r else none) with
    | some u => ((s.setWoken r true).setPlace u (.woken (some r))).wakeRecords full t (one || single)
    | none => s.wakeRecords full t one

/-- Wake wait-table entries in order of entry; a woken entry is freed. -/
def State.wakeTable (s : State) (pa : Nat) (full : Bool) : List WaitEntry → Bool → State
  | [], _ => s
  | w :: t, one =>
    let invited := w.pa == pa / 32 * 32 &&
      (if full then (w.kind == 0 || (!one && (w.kind == 1 || w.kind == 3))) else (!one && w.kind == 2))
    if invited then
      let h := homeOf pa
      let x := s.slice h
      let s1 := s.setSlice h { x with waits := x.waits.filter (fun y => y.who != w.who) }
      (s1.setPlace w.who (.woken none)).wakeTable pa full t (one || w.kind != 0)
    else s.wakeTable pa full t one

/-- The waiters that park records list. -/
def State.listedWaiters (s : State) : List (Waiter × Nat) :=
  s.strands.filterMap (fun x => match x.2.pend with
    | some p => (match p.place with
      | .listed r => some (.strand x.1, r)
      | _ => none)
    | none => none) ++
  s.ports.flatMap (fun x => x.2.cmds.filterMap (fun c => match c.place with
    | .listed r => some (.engine x.1 c.id, r)
    | _ => none))

/-- The key of a cell's park list: the accessor's job and address, or those under which a listed waiter of the cell
parked. -/
def State.parkKey (s : State) (job pa va : Nat) : Nat × Nat :=
  if (s.recordsOf job va).isEmpty then
    match s.listedWaiters.find? (fun x =>
        (s.cellIn (s.recordX x.1) (s.jobOf x.1) (s.mem.good x.2 8)).any (fun q => q / 32 == pa / 32)) with
    | some x => (s.jobOf x.1, s.mem.good x.2 8)
    | none => (job, va)
  else (job, va)

/-- Wake(cell, s) of 16 R231: park-list records first, then wait-table entries. A walk that meets a bad cell is a machine
check; the slice lets no access begin one (`gate`) but the dispatchers' own (log 88). -/
def State.wake (s : State) (job pa va : Nat) (full : Bool) : State :=
  let key := s.parkKey job pa va
  let s0 := s.parkVisit key.1 (s.parkCells key.1 key.2)
  if s.parkSound key.1 key.2 then
    let rs := s0.recordsOf key.1 key.2
    let r := s0.wakeRecords full rs false
    let s1 := r.2
    let s2 := s1.wakeTable pa full (s1.slice (homeOf pa)).waits r.1
    if rs.isEmpty && (s2.mem.sideAt pa).w then s2.setW pa false else s2
  else
    let s1 := s0.machineCheck (UnitRef.slice (homeOf pa)).abs key.1 (BitVec.ofNat 64 va) (sliceTval pa)
    s1.wakeTable pa full (s1.slice (homeOf pa)).waits false

/-- The ready DEP at an address is a completion cell whose STATUS has CANCEL or FAULT: the launch does not run (21 R301). -/
def State.depRefuses (s : State) (pa : Nat) : Bool :=
  s.mem.nat (pa / 32 * 32 + 9) 1 != 0 && s.mem.nat (pa / 32 * 32 + 8) 1 % 4 != 0

/-- A launch joins its queue: the list holds ready launches in the order in which they became ready (21 R301, R303). -/
def Launch.becomeReady (l : Launch) (fc : Nat) (refused : Bool) : Launch :=
  { l with stage := .ready, readyAt := fc, cancelled := l.cancelled || refused,
           status := if refused then l.status ||| 1 else l.status }

/-- A launch that waits on a dependence cell becomes ready at the change to full (21 R301). -/
def State.latchReady (s : State) (pa : Nat) : State :=
  let hit (l : Launch) : Bool :=
    l.stage == .waiting && (s.cellOf l.job l.record.dep.toNat).any (fun q => q / 32 == pa / 32)
  if s.launches.any hit then
    { s with launches := s.launches.filter (fun l => !hit l) ++
        (s.launches.filter hit).map (fun l => l.becomeReady s.fc (s.depRefuses pa)) }
  else s

/-- SetState(cell, s) of 16 R229: a change wakes, and latches the readiness of launches that depend on the cell. -/
def State.setFe (s : State) (job pa va : Nat) (fe : BitVec 2) : State :=
  let x := s.mem.sideAt pa
  if x.fe = fe then s
  else
    let s1 := ((s.fillLine job pa va).dirtyCell pa).l1Drop pa none
    let s2 := s1.setMem (s1.mem.setSide pa { x with fe := fe })
    let s3 := s2.wake job pa va (fe == 2)
    if fe = 2 then s3.latchReady pa else s3

/-! ### What a slice lets perform (14 R223; 16 R232, R233) -/

/-- What a slice does with an access whose turn it is: it performs; its cell's state is invalid; a merge group holds it; or
the park list that it would walk has a bad cell. -/
inductive Gate where
  | pass (s : State)
  | invalid (s : State)
  | held (s : State)
  | damaged (s : State)

/-- The record a waiter is listed in. -/
def State.recordOf (s : State) (u : Waiter) : Option Nat :=
  match s.placeOf u with
  | .listed r => some r
  | .woken r => r
  | _ => none

/-- Examine an access to a cell before it performs: `write` says that it writes the cell or changes its state, `fe` the state
it would leave, if it changes it, and u whose park record goes with it. -/
def State.gate (s : State) (u : Option Waiter) (job pa va : Nat) (write : Bool) (fe : Option (BitVec 2)) : Gate :=
  let key := s.parkKey job pa va
  let x := s.mem.sideAt pa
  if badFe x.fe then .invalid s
  else if write && s.writeHeld pa then .held (s.closeMerges pa)
  else if ((fe.any (· != x.fe)) || (u.bind s.recordOf).isSome) && !s.parkSound key.1 key.2 then
    .damaged (s.parkVisit key.1 (s.parkCells key.1 key.2))
  else .pass s

/-! ### Performing at the slice (16 R229, R243) -/

/-- A write of less than a cell (16 R243): the old cell and the new bytes with their share are checked, corrected, merged
and re-coded, or the merge of the bytes as they stand is poisoned; the state is left as it was. -/
def State.partialWrite (s : State) (job pa va n v : Nat) (share : BitVec 28) (keep : Option Nat) : State :=
  let c := s.mem.cell pa
  let k := check c.data c.code
  let new := check (mergeBytes 0 (pa % 32) n v) share
  let s1 := (s.countHome pa job (BitVec.ofNat 64 va) k).countHome pa job (BitVec.ofNat 64 va) new
  match k.data?, new.data? with
  | some d, some b =>
    let m := mergeBytes d (pa % 32) n (cbytes b (pa % 32) n)
    s1.storeCell job pa va { c with data := m, code := gen m } keep
  | _, _ =>
    let m := mergeBytes c.data (pa % 32) n v
    s1.storeCell job pa va { c with data := m, code := gen m ^^^ poisonMark } keep

/-- A write of a whole cell as it arrived, unchecked (16 R242); W stays the destination's own. -/
def State.wholeWrite (s : State) (job pa va : Nat) (d : CellData) (code : BitVec 28) : State :=
  let c := s.mem.cell pa
  s.storeCell job pa va { c with data := d, code := code } none

/-- Read-modify-write at the slice as one step (16 R243): the old value on success, none when the cell is bad. -/
def State.sliceRmw (s : State) (job pa va n : Nat) (f : Nat → Nat) : Option Nat × State :=
  let c := s.mem.cell pa
  let k := check c.data c.code
  let s1 := s.countHome pa job (BitVec.ofNat 64 va) k
  match k.data? with
  | none => (none, s1)
  | some d =>
    let old := cbytes d (pa % 32) n
    let m := mergeBytes d (pa % 32) n (f old)
    (some old, s1.storeCell job pa va { c with data := m, code := gen m } none)

/-! ### Discarded pages (14 R217, R218) -/

/-- Mark the entry of a discarded page: a strand or generator has parked on it (14 R218). -/
def State.setWaiters (s : State) (job entry : Nat) : State :=
  s.putField job entry 8 (s.mem.good entry 8 ||| 64)

/-- Give n cells from an address zero data, code 0, the empty state and a W bit. -/
def reviveSides (m : Memory) (a : Nat) (w : Bool) : Nat → Memory
  | 0 => m
  | n + 1 => reviveSides (m.setSide a { fe := 1, w := w, code := 0 }) (a + 32) w n

/-- Revive a discarded page (14 R217): its entry becomes kind 2 and loses WAITERS, every cell of the page is zero, empty,
with W = WAITERS, no TLB keeps its entry and no cache a line of it. -/
def State.revive (s : State) (job va entry : Nat) (big : Bool) : State :=
  let e := BitVec.ofNat 64 (s.mem.good entry 8)
  if entryKind e ≠ 4 then s
  else
    let n := if big then 2 ^ 21 else 2 ^ 16
    let a := entryAddr e / n * n
    let inPage (x : Nat) : Bool := a ≤ x && x < a + n
    let w := e.getLsbD 6
    let s1 := s.putField job entry 8 ((e.toNat - 4 + 2) - (if w then 64 else 0))
    let m := { s1.mem with bytes := s1.mem.bytes.filter (fun b => !inPage b.1) }
    let s2 := (s1.setMem (reviveSides m a w (n / 32))).tlbForget (fun t => t.job == job && t.vpn == vpnOf va t.big)
    { s2 with ports := s2.ports.map (fun x => (x.1, { x.2 with l1 := x.2.l1.filter (fun l => !inPage (64 * l)) })),
              slices := s2.slices.map (fun x => (x.1, { x.2 with lines := x.2.lines.filter (fun l => !inPage l.addr) })) }

end Sys2Proof.Machine
end

