-- ==== Sys2Proof/Machine/Faults.lean ====
section
/-! DEFINITION. Regions' commit-window records and element faults: recording a fault word, halting a launch (22
R322–R324, R327), and cancelling a launch's waits (21 R309). -/

namespace Sys2Proof.Machine

/-! ### Regions -/

/-- The strands of a launch's region. -/
def Launch.strands (l : Launch) : List Nat :=
  l.clusters.flatMap (fun c => ((List.range 8).map (fun i => 8 * c + i)).filter (fun k => !superStrand k))

/-- A cluster belongs to the launch's region. -/
def Launch.holds (l : Launch) (c : Nat) : Bool := l.clusters.contains c

/-- DONE of a launch, as SQ_TVAL shows it. -/
def Launch.doneVa (l : Launch) : Word64 := l.record.done

/-! ### Window records (22 R327) -/

/-- The cells of a merge group that a member has still to get, by number (14 R222). -/
def Merge.rest (m : Merge) (j : Joiner) : List Nat :=
  ((List.range m.cells.length).zip m.cells).filterMap (fun q =>
    if (j.got ≤ q.1 && q.1 < j.start) || (j.start ≤ q.1 && m.sent ≤ q.1) then some q.2.1 else none)

/-- A command with the cells that merge groups owe it left to its own fetching. -/
def State.withRest (s : State) (p : Nat) (c : Cmd) : Cmd :=
  { c with fetch := c.fetch.map (fun f => f ++ s.slices.flatMap (fun x => x.2.merges.flatMap (fun m =>
      (m.who.filter (fun j => j.p == p && j.id == c.id)).flatMap m.rest))) }

/-- The commands of a region keep what they have still to move, whatever becomes of their merge groups (22 R327, R329). -/
def State.keepProgress (s : State) (l : Launch) : State :=
  { s with ports := s.ports.map (fun x =>
      if l.holds (x.1 / 3) then (x.1, { x.2 with cmds := x.2.cmds.map (s.withRest x.1) }) else x) }

/-- The region's units as they stand. -/
def State.windowRecord (s : State) (l : Launch) : Window :=
  { opened := s.fc,
    elems := s.elements.filter (fun x => l.holds (x.1 / 12)),
    tiles := s.tiles.filter (fun x => l.holds (x.1 / 6)),
    ports := (s.keepProgress l).ports.filter (fun x => l.holds (x.1 / 3)),
    groups := l.groups, ver := l.ver, held := [], lmUndo := [], tlUndo := [], close := false, voided := false, fault := none,
    committing := false }

/-- Open a window of a windowed launch that is neither halted nor cancelled: its records are taken now. -/
def State.openWindow (s : State) (l : Nat) : State :=
  match s.launch? l with
  | none => s
  | some x => if x.record.direct || x.halted || x.cancelled then s else s.modLaunch l (fun y => { y with window := some (s.windowRecord x) })

/-- The table with the entries of a region replaced by recorded ones. -/
def tabRestore {α : Type} (m saved : List (Nat × α)) (inRegion : Nat → Bool) : List (Nat × α) :=
  saved.foldl (fun t x => tabPut x.1 x.2 t) (m.filter (fun x => !inRegion x.1))

/-- Commands of a region's ports leave the merge groups that carry them. -/
def State.leaveMerges (s : State) (l : Launch) : State :=
  { s with slices := s.slices.map (fun x => (x.1, { x.2 with
      merges := x.2.merges.map (fun m => { m with who := m.who.filter (fun j => !l.holds (j.p / 3)) }) })) }

/-- The state with a group of a launch changed. -/
def State.modGroup (s : State) (l : Nat) (num : BitVec 14) (f : Group → Group) : State :=
  s.modLaunch l (fun y => { y with groups := y.groups.map (fun g => if g.num == num then f g else g) })

/-- Restore the region to the state its window recorded and discard the held effects (22 R327). The L1s, TLBs and requests
to the pager of its memory-port tiles are not among the records. A window whose commit has begun is not restored. -/
def State.restoreWindow (s : State) (l : Nat) : State :=
  match s.launch? l with
  | none => s
  | some x =>
    match x.window with
    | none => s
    | some w =>
      if w.committing then s else
      let s1 : State := { s.leaveMerges x with
        elements := tabRestore s.elements w.elems (fun e => x.holds (e / 12)),
        tiles := tabRestore s.tiles w.tiles (fun t => x.holds (t / 6)),
        ports := s.ports.map (fun p => if x.holds (p.1 / 3) then
          (p.1, { tabGet Port.reset w.ports p.1 with l1 := p.2.l1, tlb := p.2.tlb, asked := p.2.asked }) else p) }
      s1.modLaunch l (fun y => { y with groups := w.groups, ver := w.ver,
                                        window := some { w with held := [], lmUndo := [], tlUndo := [], close := false } })

/-! ### Element faults (22 R322–R324) -/

/-- A fault word (22 R323). -/
def faultWord (rel cause slot ecode bank info : Nat) : Word64 :=
  BitVec.ofNat 64 (rel % 2 ^ 16 * 2 ^ 48 + cause % 256 * 2 ^ 40 + slot % 32 * 2 ^ 35 + ecode % 32 * 2 ^ 30 +
    bank % 4 * 2 ^ 28 + info % 2 ^ 28)

/-- Keep a fault word in its unit's register, if it is the unit's first (22 R323). -/
def State.keepFault (s : State) (u : UnitRef) (w : Word64) : State :=
  match u with
  | .element e =>
    let x := s.element e
    s.setElement e { x with fault := if x.fault = 0 then w else x.fault, faulted := true, stopped := true }
  | .tile t => let x := s.tile t; s.setTile t { x with fault := if x.fault = 0 then w else x.fault }
  | .port p => let x := s.port p; s.setPort p { x with fault := if x.fault = 0 then w else x.fault }
  | _ => s

/-- The majors whose instructions a halt refuses: 0x31, 0x32, and 0x33 other than EXIT and CANCEL (22 R324). -/
def haltRefuses (i : Instr) : Bool :=
  match i with
  | .exit | .cancel _ | .cancelE _ => false
  | _ =>
    match encode i with
    | [w] => let m := (fld w 26 6).toNat; m == 0x31 || m == 0x32 || m == 0x33
    | _ => false

/-- What a halt does to one strand with an instruction in flight (22 R324 step 2): CONF.WAIT completes with the fault
word; a WSTEP whose steps have begun completes with all ones in a windowed launch and stops its groups otherwise; every
other refused instruction takes trap 0x0A. -/
def State.haltStrand (s : State) (l : Launch) (w : Word64) (k : Nat) : State :=
  match (s.strand k).pend with
  | none => s
  | some p =>
    s.asStrand k p.hi (fun s0 =>
      match p.instr with
      | .confWait gd => s0.retireReg gd w
      | .wstep gd _ =>
        if p.stage = 0 then (s0.dropWait (.strand k)).trap 0x0A l.doneVa
        else if l.record.direct then s0
        else s0.retireReg gd (BitVec.allOnes 64)
      | i => if haltRefuses i then (s0.dropWait (.strand k)).trap 0x0A l.doneVa else s0)

/-- A group's step is over: the WSTEP that waits for it counts its events (12 R188). -/
def State.stepEnded (s : State) (l : Launch) (num : BitVec 14) (n : Nat) : State :=
  { s with strands := s.strands.map (fun x =>
      if l.holds (x.1 / 8) && !superStrand x.1 then
        (x.1, { x.2 with pend := x.2.pend.map (fun p => match p.instr with
          | .wstep _ _ => if p.left.contains num then { p with left := p.left.filter (· != num), sum := p.sum + n } else p
          | _ => p) })
      else x) }

/-- The entries of a group in a region's tiles have no step in progress. -/
def State.unstep (s : State) (l : Launch) (num : BitVec 14) : State :=
  { s with tiles := s.tiles.map (fun x =>
      if l.holds (x.1 / 6) then
        (x.1, { x.2 with watch := x.2.watch.map (fun w =>
          if w.2.group == num then (w.1, { w.2 with stepping := false, stretching := false }) else w) })
      else x) }

/-- The groups of a launch that halts or is cancelled stop (12 R188, R195): in a direct launch one in a round at the round's
end, every other at once. -/
def State.stopGroups (s : State) (l : Launch) : State :=
  l.groups.foldl (fun t g =>
    if l.record.direct && g.phase == .round then t.modGroup l.id g.num (fun z => { z with stopReq := true })
    else ((t.modGroup l.id g.num (fun z => { z with stopReq := true, phase := .idle })).unstep l g.num).stepEnded l g.num 0) s

/-- Drop the engine commands of a region's ports, and the waits of those that wait (22 R324). -/
def State.dropCommands (s : State) (l : Launch) : State :=
  let ps := (s.ports.filter (fun x => l.holds (x.1 / 3))).flatMap (fun x => x.2.cmds.map (fun c => (x.1, c.id)))
  let s1 := (ps.foldl (fun t x => t.dropWait (.engine x.1 x.2)) s).leaveMerges l
  { s1 with ports := s1.ports.map (fun x => if l.holds (x.1 / 3) then (x.1, { x.2 with cmds := [] }) else x) }

/-- A launch meets an element fault: it takes the word, unless it halted in an earlier cycle, and halts at the end of this
one, so that every fault of the cycle is detected (22 R323, R324; log 90). -/
def State.haltLaunch (s : State) (l : Nat) (w : Word64) : State :=
  s.modLaunch l (fun y =>
    if y.halted && !y.haltDue then y else { y.takeFault s.fc w with halted := true, haltDue := true })

/-- Keep the fault words that a region's units have recorded. -/
def State.keepFaults (s old : State) (l : Launch) : State :=
  let s1 := old.elements.foldl (fun t x =>
    if l.holds (x.1 / 12) && x.2.fault != 0 then t.keepFault (.element x.1) x.2.fault else t) s
  let s2 := old.tiles.foldl (fun t x =>
    if l.holds (x.1 / 6) && x.2.fault != 0 then t.keepFault (.tile x.1) x.2.fault else t) s1
  old.ports.foldl (fun t x =>
    if l.holds (x.1 / 3) && x.2.fault != 0 then t.keepFault (.port x.1) x.2.fault else t) s2

/-- A launch halts (22 R324): an open window is voided, but the records of faults stay; engine commands are dropped, groups
stop, and its strands' instructions in flight end. -/
def State.halt (s : State) (x : Launch) : State :=
  let s1 := ((s.restoreWindow x.id).keepFaults s x).dropCommands x
  let s2 := s1.modLaunch x.id (fun y =>
    { y with haltDue := false, window := y.window.filter (·.committing) })
  let s3 := match s2.launch? x.id with
    | some y => s2.stopGroups y
    | none => s2
  x.strands.foldl (fun t k => t.haltStrand x x.fword k) s3

/-- At the end of a cycle the launches that met a fault in it halt. -/
def State.settle (s : State) : State := (s.launches.filter (·.haltDue)).foldl (fun t x => t.halt x) s

/-- Raise an element fault at a unit of a launch: its word is kept by the unit and the trub record, and the launch halts
(22 R322–R324). -/
def State.elementFault (s : State) (u : UnitRef) (l : Launch) (cause slot ecode bank info : Nat) : State :=
  let w := faultWord (l.relId u) cause slot ecode bank info
  let s1 := s.trubAdd u.die 1 u.abs l.job cause w
  (s1.keepFault u w).haltLaunch l.id w

/-- An element fault of a unit, in the launch that holds its cluster. -/
def State.unitFault (s : State) (u : UnitRef) (cause info : Nat) : State :=
  match u.cluster with
  | none => s
  | some c =>
    match s.ownerOf c with
    | some l => s.elementFault u l cause 0 0 0 info
    | none => s.keepFault u (faultWord u.low cause 0 0 0 info)

/-- INFO of a memory-related cause: bits 32:5 of the virtual address (22 R323). -/
def faultInfo (va : Nat) : Nat := bits va 5 28

/-! ### Cancelled and halted launches (21 R309, 22 R324) -/

/-- The launch of strand k is cancelled. -/
def State.cancelledK (s : State) (k : Nat) : Bool := ((s.launchOf k).map (·.cancelled)).getD false
/-- The launch has halted. -/
def Launch.hasHalted (l : Launch) : Bool := l.halted && !l.haltDue
/-- The launch of strand k has halted. -/
def State.haltedK (s : State) (k : Nat) : Bool := ((s.launchOf k).map (·.hasHalted)).getD false
/-- DONE of strand k's launch. -/
def State.doneOf (s : State) (k : Nat) : Word64 := ((s.launchOf k).map (·.doneVa)).getD 0

/-- The cancel trap of the current instruction: 0x0A with DONE (21 R309). -/
def State.cancelTrap (s : State) : State := (s.dropWait (.strand s.issue.k)).trap 0x0A (s.doneOf s.issue.k)

/-- A command of major 0x31, 0x32 or 0x33 is refused because its launch is cancelled or halted. -/
def State.refusesCommand (s : State) : Bool := s.cancelledK s.issue.k || s.haltedK s.issue.k

/-! ### A wait of the current instruction (16 R230–R232) -/

/-- The current access must wait on its cell: a cancelled launch's strand takes 0x0A; a re-examination without budget
takes 0x08; otherwise the strand parks. -/
def State.waitOn (s : State) (i : Instr) (pa va kind : Nat) (discarded : Bool) : State :=
  let u := Waiter.strand s.issue.k
  if s.cancelledK s.issue.k then s.cancelTrap
  else if s.issue.exam && s.cur.retry = 0 then (s.dropWait u).trap 0x08 (BitVec.ofNat 64 (va / 32 * 32))
  else
    let s1 := s.hold i true (fun p => { p with pa := pa, va := va })
    if s.issue.exam then s1.reWait u pa va kind else s1.enterWait u pa va kind discarded

/-- The current instruction waits for something other than a cell. -/
def State.waitFor (s : State) (i : Instr) : State := s.hold i false (fun p => p)

/-- The access finds an invalid state: machine check, recorded at the slice's die (16 R232). -/
def State.feCheck (s : State) (pa va : Nat) : State :=
  ((s.dropWait (.strand s.issue.k)).feNote pa va s.cur.job.toNat).trap 0x1F (sliceTval pa)

/-- The current access is examined at its slice and goes on with f, or it takes the machine check of an invalid state or a
bad park-area cell, or a merge group holds it. -/
def State.strandGate (s : State) (i : Instr) (pa va : Nat) (write : Bool) (fe : Option (BitVec 2)) (f : State → State) :
    State :=
  match s.gate (some (.strand s.issue.k)) (s.strandJob s.issue.k) pa va write fe with
  | .invalid t => t.feCheck pa va
  | .held t => t.waitFor i
  | .damaged t => t.trap 0x1F (sliceTval pa)
  | .pass t => f t

end Sys2Proof.Machine
end

