-- ==== Sys2Proof/Machine/Phases.lean ====
section
/-! DEFINITION. Decrements of completion cells and what a full one does: the levels launch, replay, phase and job (21
R295–R299, R307). -/

namespace Sys2Proof.Machine

/-! ### Completion-cell decrements (21 R296) -/

/-- Decrement(cell, c): the status bits, COUNT, OVERRUN, and SetState(full) at zero. A cell that fails its check is
written poisoned and set full, and the trub record takes it by the check's own entry. What the poisoned cell's data becomes
is not stated: it keeps its data (log 73). -/
def State.decrement (s : State) (pa va job : Nat) (c : BitVec 7) : State :=
  let cell := s.mem.cell pa
  let k := check cell.data cell.code
  let s1 := s.countHome pa job (BitVec.ofNat 64 va) k
  match k.data? with
  | none =>
    (s1.storeCell job pa va { cell with code := gen cell.data ^^^ poisonMark } none).setFe job pa va 2
  | some d =>
    let n := cbytes d 0 8
    let st := cbytes d 8 1 ||| c.toNat
    let d1 := mergeBytes d 8 1 (if n = 0 then st ||| 32 else st)
    let d2 := if n = 0 then d1 else mergeBytes d1 0 8 (n - 1)
    let s2 := s1.storeCell job pa va { cell with data := d2, code := gen d2 } none
    if n = 1 then s2.setFe job pa va 2 else s2

/-! ### Work records and phase rings (21 R298) -/

/-- PHASE of a job. -/
def State.phaseNo (s : State) (j : Nat) : Nat := s.mem.nat (s.workRec j + 24) 8
/-- The start cell of phase p of a job. -/
def State.phaseStart (s : State) (j p : Nat) : Nat :=
  s.mem.nat (s.workRec j) 8 + 64 * (p % Nat.max 1 (s.mem.nat (s.workRec j + 8) 4))
/-- The physical address of a job's completion cell. -/
def State.jobDone (s : State) (j : Nat) : Nat := s.mem.nat (s.workRec j + 16) 8
/-- The weight of a job in a class. -/
def State.weight (s : State) (j c : Nat) : Nat := s.mem.nat (s.workRec j + 12 + c) 1

/-- The physical address a job's virtual address has for the hardware's own accesses; a discarded page is revived. -/
def State.resolve (s : State) (job va : Nat) : Option Nat × State :=
  let r := s.translate .bare job (s.xrecOf job) va
  match r.1 with
  | .heap pa => (some pa, r.2)
  | .page pa _ _ => (some pa, r.2)
  | .discarded pa entry _ _ big => (some pa, r.2.revive job va entry big)
  | _ => (none, r.2)

/-- STATUS bits 6:0 of a completion cell. -/
def State.statusAt (s : State) (pa : Nat) : BitVec 7 := BitVec.ofNat 7 (s.mem.nat (pa / 32 * 32 + 8) 1)

/-- OR status bits into a completion cell's STATUS. A cell that fails its check is left poisoned. -/
def State.orStatus (s : State) (pa job : Nat) (c : BitVec 7) : State :=
  let a := pa / 32 * 32 + 8
  match s.sliceRmw job a pa 1 (fun v => v ||| c.toNat) with
  | (some _, s1) => s1
  | (none, s1) => s1.writeField a 1 (s1.mem.nat a 1)

/-- Write a whole completion cell: COUNT, LEVEL, STATUS bits and FWORD, in a state (21 R295). -/
def State.writeDone (s : State) (pa va job count level status : Nat) (fword : Word64) (fe : BitVec 2) : State :=
  let d : CellData := BitVec.ofNat 256 (count + 2 ^ 64 * (level * 256 + status) + 2 ^ 128 * fword.toNat)
  (s.wholeWrite job pa va d (gen d)).setFe job pa va fe

/-- Add n to the COUNT of a completion cell. -/
def State.addCount (s : State) (pa job n : Nat) : State := (s.sliceRmw job (pa / 32 * 32) pa 8 (fun v => (v + n) % 2 ^ 64)).2

/-- Add n to the COUNT of the current phase of a job (21 R299, R307, R317). -/
def State.addPhase (s : State) (job n : Nat) : State :=
  match (s.job job).running with
  | some pa => s.addCount pa job n
  | none => s

/-! ### A completion cell becomes full (21 R297, R299, R307) -/

/-- A decrement sets out for a completion cell. -/
def State.pushDecr (s : State) (job addr : Nat) (virt : Bool) (c : BitVec 7) : State :=
  { s with decrs := s.decrs ++ [{ addr := addr, virt := virt, bits := c, job := job }] }

/-- A decrement of the phase cell of a job. -/
def State.decrPhase (s : State) (job : Nat) (c : BitVec 7) : State :=
  match (s.job job).running with
  | some pa => s.pushDecr job pa false c
  | none => s

/-- A phase is complete: its flags reach the job's cell and PHASE goes on. -/
def State.phaseFull (s : State) (job pa : Nat) : State :=
  let c := s.statusAt pa
  let s1 := s.setJob job { s.job job with running := none, chain := none, phCancel := false }
  (s1.orStatus (s1.jobDone job) job c).putField job (s1.workRec job + 24) 8 ((s.phaseNo job + 1) % 2 ^ 64)

/-- A replay is complete: its HOLD cell is filled and the phase takes its decrement. -/
def State.replayFull (s : State) (job pa : Nat) (r : Replay) : State :=
  let j := s.job job
  let s1 := s.setJob job { j with replays := j.replays.erase r }
  let h := s1.resolve job r.hold
  let s2 := match h.1 with
    | some q => h.2.setFe job q r.hold 2
    | none => h.2
  s2.decrPhase job (s.statusAt pa)

/-- A write of CL_PRESENT that was held back takes effect (02 R32). -/
def State.releasePresent (s : State) (c : Nat) : State :=
  let x := s.cluster c
  match x.held with
  | none => s
  | some v => s.setCluster c { x with present := v, held := none }

/-- The clusters that a launch holds. -/
def State.heldClusters (s : State) (l : Launch) : List Nat :=
  l.clusters.filter (fun c => (s.cluster c).owner == some l.id)

/-- The region of a launch returns to the free map: its exited strands are idle (06 R86), and presence bits that were held
go (02 R32). -/
def State.freeRegion (s : State) (l : Launch) : State :=
  (s.heldClusters l).foldl (fun t c =>
    let t1 := (List.range 8).foldl (fun u i =>
      let k := 8 * c + i
      if superStrand k || (u.strand k).mode == .idle then u
      else u.setStrand k { u.strand k with mode := .idle, declared := false, running := false, depth := 0, pend := none }) t
    (t1.setCluster c { t1.cluster c with owner := none, deque := [] }).releasePresent c) s

/-- A launch's DONE is full: its parent takes the decrement (21 R297). Its region returns to the free map after that, with
LAUNCH_COMPLETE (21 R305; 06 R86). -/
def State.launchFull (s : State) (pa : Nat) (l : Launch) : State :=
  (s.pushDecr l.job l.parent l.parentVa (s.statusAt pa)).modLaunch l.id (fun y => { y with full := true })

/-- The launch leaves the machine: the free map regains its region (21 R305). -/
def State.retireLaunch (s : State) (l : Launch) : State :=
  let s1 := s.freeRegion l
  { s1 with launches := s1.launches.filter (fun y => y.id != l.id) }

/-- What the hardware does when the completion cell at an address becomes full. -/
def State.cellFull (s : State) (job addr pa : Nat) (virt : Bool) : State :=
  if virt then
    match (s.job job).replays.find? (fun r => r.done == addr) with
    | some r => s.replayFull job pa r
    | none =>
      match s.launches.find? (fun l => l.job == job && l.stage == .ended && !l.full && l.record.done.toNat == addr) with
      | some l => s.launchFull pa l
      | none => s
  else if (s.job job).running == some addr then s.phaseFull job addr
  else s

/-- A decrement of the cell would set it full: COUNT is 1, or the cell fails its check. -/
def State.lastAt (s : State) (pa : Nat) : Bool :=
  let cell := s.mem.cell pa
  match (check cell.data cell.code).data? with
  | some d => cbytes d 0 8 == 1
  | none => true

/-- The state that a decrement of the cell would give it, if it changes it. -/
def State.decrFe (s : State) (pa : Nat) : Option (BitVec 2) := if s.lastAt pa then some 2 else none

/-- Decrement(cell, c) with what follows when it becomes full (21 R296, R297). -/
def State.decrementAt (s : State) (job addr pa : Nat) (virt : Bool) (c : BitVec 7) : State :=
  let s1 := s.decrement pa addr job c
  if s.lastAt pa then s1.cellFull job addr pa virt else s1

/-- A decrement that has come to its cell performs. A merge group of the cell's line holds it, and so does a bad cell of the
park area that its wake would walk, with a machine check; on a cell of invalid state it performs nothing (14 R223; 16 R232,
R233). -/
def State.decrementNow (s : State) (d : Decr) (pa : Nat) : State :=
  match s.gate none d.job pa d.addr true (s.decrFe pa) with
  | .invalid t => t.feNote pa d.addr d.job
  | .held t => { t with decrs := d :: t.decrs }
  | .damaged t => ({ t with decrs := d :: t.decrs }).machineCheck (UnitRef.slice (homeOf pa)).abs d.job (BitVec.ofNat 64 d.addr)
      (sliceTval pa)
  | .pass t => t.decrementAt d.job d.addr pa d.virt d.bits

/-- COMPLETION_DECREMENT: the oldest decrement on its way performs. One whose page the pager must bring waits; one whose
cell has lost its mapping is lost, and the trub record takes it (log 23). -/
def execCompletionDecrement (s : State) : Out :=
  match s.decrs with
  | [] => .next s
  | d :: rest =>
    let s0 := { s with decrs := rest }
    if !d.virt then .next (s0.decrementNow d d.addr)
    else
      let r := s0.translate .bare d.job (s0.xrecOf d.job) d.addr
      match r.1 with
      | .heap pa => .next (r.2.decrementNow d pa)
      | .page pa _ _ => .next (r.2.decrementNow d pa)
      | .discarded pa entry _ _ big => .next ((r.2.revive d.job d.addr entry big).decrementNow d pa)
      | .absent | .arriving => .next s
      | .noMap | .machine => .next (r.2.trubAdd (d.job % 9) 8 0 d.job 0x1F (BitVec.ofNat 64 d.addr))

end Sys2Proof.Machine
end

