-- ==== Sys2Proof/Machine/Records.lean ====
section
/-! DEFINITION. The fields of pattern records and copy records (09 R142, R147). -/

namespace Sys2Proof.Machine

/-! ### Pattern records (09 R142) -/

/-- Word n of a pattern record. -/
def patWord (p : CellData) (n : Nat) : Nat := cbytes p (4 * n) 4
/-- BASE. -/
def patBase (p : CellData) : Nat := patWord p 0
/-- The count of dimension i. -/
def patCount (p : CellData) (i : Nat) : Nat := bits (patWord p (2 + i / 2)) (16 * (i % 2)) 16
/-- The stride of dimension i. -/
def patStride (p : CellData) (i : Nat) : Int := sval 32 (patWord p (4 + i))
/-- WRITE. -/
def patWrite (p : CellData) : Bool := p.getLsbD 32
/-- HALF. -/
def patHalf (p : CellData) : Bool := p.getLsbD 33
/-- MARK. -/
def patMark (p : CellData) : Bool := p.getLsbD 34
/-- PERM. -/
def patPerm (p : CellData) : Bool := p.getLsbD 35
/-- TAG. -/
def patTag (p : CellData) : Nat := bits (patWord p 1) 4 4
/-- BANK. -/
def patBank (p : CellData) : Nat := bits (patWord p 1) 8 2
/-- FEMODE. -/
def patFe (p : CellData) : Nat := bits (patWord p 1) 10 3
/-- CBUF. -/
def patCbuf (p : CellData) : Bool := p.getLsbD 45
/-- PDIM. -/
def patPdim (p : CellData) : Nat := bits (patWord p 1) 14 2
/-- BUF. -/
def patBuf (p : CellData) : Nat := bits (patWord p 1) 16 3
/-- Some count is 0: the walk transfers nothing (09 R143). -/
def patEmpty (p : CellData) : Bool := (List.range 4).any (fun i => patCount p i == 0)
/-- The bytes one transfer covers. -/
def patBytes (p : CellData) : Nat := if patHalf p then 32 else 64

/-! ### Copy records (09 R147) -/

/-- MEMVA. -/
def crVa (r : Line) : Nat := lbytes r 0 8
/-- TOFF. -/
def crToff (r : Line) : Nat := lbytes r 8 4
/-- TILE. -/
def crTile (r : Line) : Nat := lbytes r 12 2
/-- DIR: tile to memory. -/
def crDir (r : Line) : Bool := r.getLsbD 112
/-- CBUF. -/
def crCbuf (r : Line) : Bool := r.getLsbD 113
/-- BUF. -/
def crBuf (r : Line) : Nat := bits (lbytes r 14 1) 2 3
/-- COMP. -/
def crComp (r : Line) : Bool := r.getLsbD 118
/-- FOLLOW. -/
def crFollow (r : Line) : Bool := r.getLsbD 117
/-- HIST. -/
def crHist (r : Line) : Bool := r.getLsbD 119
/-- The FE mode. -/
def crFe (r : Line) : Nat := bits (lbytes r 15 1) 0 2
/-- ROWS. -/
def crRows (r : Line) : Nat := lbytes r 16 2
/-- ROWBYTES. -/
def crRowBytes (r : Line) : Nat := lbytes r 20 4
/-- MPITCH. -/
def crMPitch (r : Line) : Int := sval 32 (lbytes r 24 4)
/-- TPITCH. -/
def crTPitch (r : Line) : Int := sval 32 (lbytes r 28 4)
/-- FELEM. -/
def crFelem (r : Line) : Nat := lbytes r 32 2
/-- The input channel of FCH. -/
def crChan (r : Line) : Nat := bits (lbytes r 34 1) 0 3
/-- The bank tag of FCH. -/
def crBank (r : Line) : Nat := bits (lbytes r 34 1) 3 2
/-- HFMT. -/
def crHfmt (r : Line) : Nat := lbytes r 35 1
/-- BETA. -/
def crBeta (r : Line) : Nat := lbytes r 36 4
/-- GROUP. -/
def crGroup (r : Line) : Nat := lbytes r 40 3
/-- HREF. -/
def crHref (r : Line) : Nat := lbytes r 44 4
/-- DONE. -/
def crDone (r : Line) : Nat := lbytes r 48 8

/-- Cells of one row. -/
def crRowCells (r : Line) : Nat := crRowBytes r / 32
/-- Cells of all rows. -/
def crCells (r : Line) : Nat := crRows r * crRowCells r
/-- The memory address of cell n of the rows. -/
def crMem (r : Line) (n : Nat) : Nat :=
  (((crVa r : Int) + (n / crRowCells r : Nat) * crMPitch r + (32 * (n % crRowCells r) : Nat)) % 2 ^ 64).toNat
/-- The tile offset of cell n of the rows, from T. -/
def crOff (r : Line) (base n : Nat) : Nat :=
  ((base : Int) + (n / crRowCells r : Nat) * crTPitch r + (32 * (n % crRowCells r) : Nat)).toNat
/-- Values that a history command compresses (09 R150). -/
def crValues (r : Line) : Nat := crRows r * crRowBytes r / (if crHfmt r = 1 then 8 else 4)

end Sys2Proof.Machine
end

