-- ==== Sys2Proof/Machine/Access.lean ====
section
/-! DEFINITION. Forming and checking a strand's access (17 R246), reading a cell on the sequencer load path (16 R242,
R245), and performing posted stores (17 R247). -/

namespace Sys2Proof.Machine

/-- What the steps of 17 R246 give: a trap, an arriving page (the access waits and translates again), an address, or an
address on a discarded page. -/
inductive Prep where
  | trap (code : BitVec 8) (tval : Word64)
  | stall
  | ok (pa va : Nat)
  | disc (pa va entry : Nat) (big : Bool)
deriving DecidableEq, Repr

/-- The access the home slice's table must give: 1 read, 2 write, 3 atomic (23 R339). -/
abbrev Right := Nat

/-- The steps of 17 R246 on an address: bits 63:52, alignment to `size` (0 for none), translation, permission, and the
home slice's access table. -/
def State.prep (s : State) (a : Word64) (size : Nat) (write : Bool) (right : Right) : Prep × State :=
  let k := s.issue.k
  let va := a.toNat
  if 2 ^ 52 ≤ va then (.trap 0x05 a, s)
  else if size ≠ 0 && va % size ≠ 0 then (.trap 0x0C a, s)
  else
    let r := s.translateFor (.seq (k / 8)) (s.strandJob k) (s.strandX k) va write
    let allowed (pa : Nat) : Bool := right ≤ r.2.access (targetSlice (homeOf pa)) (r.2.masterOf k)
    match r.1 with
    | .heap pa => if allowed pa then (.ok pa va, r.2) else (.trap 0x02 a, r.2)
    | .page pa w x =>
      if write && (!w || x) then (.trap 0x02 a, r.2)
      else if allowed pa then (.ok pa va, r.2) else (.trap 0x02 a, r.2)
    | .discarded pa entry w x big =>
      if write && (!w || x) then (.trap 0x02 a, r.2)
      else if allowed pa then (.disc pa va entry big, r.2) else (.trap 0x02 a, r.2)
    | .noMap => (.trap 0x05 a, r.2)
    | .absent => (.trap 0x06 a, r.2)
    | .arriving => (.stall, r.2)
    | .machine => (.trap 0x1F ((UnitRef.strand k).abs.zeroExtend 64), r.2)

/-- Prepare an access and go on with it. A trap drops the access's wait first; an arriving page holds the instruction; a
write to a discarded page revives it first (14 R217). -/
def State.withAccess (s : State) (i : Instr) (a : Word64) (size : Nat) (write : Bool) (right : Right)
    (f : State → Nat → Nat → Bool → Nat → State) : State :=
  match s.prep a size write right with
  | (.trap code tval, s1) => (s1.dropWait (.strand s.issue.k)).trap code tval
  | (.stall, s1) => s1.waitFor i
  | (.ok pa va, s1) => f s1 pa va false 0
  | (.disc pa va entry big, s1) =>
    if write then f (s1.revive (s1.strandJob s1.issue.k) va entry big) pa va false 0
    else f s1 pa va true entry

/-- The strand has a posted store to the cell of an address that has not performed (17 R247 rule 1). -/
def State.ownStore (s : State) (pa : Nat) : Bool := s.cur.posted.any (fun p => p.pa / 32 == pa / 32)

/-- The virtual address of the cell of an address, as traps 0x07 and 0x08 report it. -/
def cellVa (va : Nat) : Word64 := BitVec.ofNat 64 (va / 32 * 32)

/-- Check the cell of an address on the sequencer load path: go on with its data, or trap 0x07 (16 R245). -/
def State.checkedCell (s : State) (pa va : Nat) (f : State → CellData → State) : State :=
  let c := s.mem.cell pa
  let k := check c.data c.code
  let s1 := s.countCheck (.strand s.issue.k) s.cur.job.toNat (cellVa va) k
  match k.data? with
  | some d => f s1 d
  | none => (s1.dropWait (.strand s.issue.k)).trap 0x07 (cellVa va)

/-- The caches after an ordinary read by strand k: its port's L1 takes the line, the home slice fills its own (14 R213). -/
def State.cacheRead (s : State) (k pa va : Nat) : State :=
  let p := portOfStrand k
  if (s.port p).l1.contains (l1Of pa) then s
  else (s.fillLine (s.strandJob k) pa va).l1Fill p pa

/-- Read n bytes of record memory at a virtual address on the load path, cell by cell in order, and go on with them as
the instruction reads its record in program order (04 R72, 09 R146): the bytes as a little-endian number. -/
def State.readRecord (s : State) (i : Instr) (a : Word64) : Nat → (State → Nat → State) → State
  | 0, f => f s 0
  | n + 1, f =>
    s.withAccess i a 0 false 1 (fun s1 pa va disc _ =>
      if disc then s1.readRecord i (a + 32) n (fun s2 hi => f s2 (hi * 2 ^ 256))
      else if badFe (s1.mem.sideAt pa).fe then s1.feCheck pa va
      else s1.checkedCell pa va (fun s2 d =>
        (s2.cacheRead s2.issue.k pa va).readRecord i (a + 32) n (fun s3 hi => f s3 (d.toNat + hi * 2 ^ 256))))

/-! ### Posted stores at the home slice (17 R247, 14 R214) -/

/-- The posted store n of strand k may perform now: no earlier one to its cell, and none earlier at all for ST.X. -/
def postedFree (l : List Posted) (n : Nat) : Bool :=
  match l[n]? with
  | none => false
  | some p => if p.fill then n == 0 else (l.take n).all (fun q => q.pa / 32 != p.pa / 32)

/-- Perform a posted store: the bytes are merged, and an overwrite-filling store sets the cell full (16 R229). A cell of
invalid state takes nothing and is recorded (16 R232, log 12); a store that a merge group holds stays, and so does one whose
wake would meet a bad park-area cell, for which the supervisor gets a record (14 R223, 16 R233). -/
def State.performPosted (s : State) (k n : Nat) (p : Posted) : State :=
  let job := s.strandJob k
  let drop (t : State) : State := t.setStrand k { t.strand k with posted := (t.strand k).posted.eraseIdx n }
  match s.gate none job p.pa p.va true (if p.fill then some 2 else none) with
  | .invalid t => (drop t).feNote p.pa p.va job
  | .held t => t
  | .damaged t => t.machineCheck (UnitRef.strand k).abs job (BitVec.ofNat 64 p.va) (sliceTval p.pa)
  | .pass t =>
    let s2 := (drop t).partialWrite job p.pa p.va p.size p.value.toNat p.share (some (portOfStrand k))
    if p.fill then s2.setFe job p.pa p.va 2 else s2

end Sys2Proof.Machine
end

