-- ==== Sys2Proof/Machine/LoadStore.lean ====
section
/-! DEFINITION. Loads, stores, state operations and prefetch (17 R248–R252), and what home slices do with posted stores
and L1 copies (14 R214, R215; 17 R247). -/

namespace Sys2Proof.Machine

/-- The address of an M-format access: ga + displacement (17 R246 step 1). -/
def State.mAddr (s : State) (size : BitVec 2) (ga : GReg) (disp : BitVec 11) : Word64 :=
  s.reg ga + s.disp size.toNat disp

/-- The bytes of a size field. -/
def sizeOf (size : BitVec 2) : Nat := 2 ^ size.toNat

/-- A load completes with the bytes of a cell. -/
def State.loaded (s : State) (gd : GReg) (d : CellData) (va n : Nat) : State :=
  s.retireReg gd (BitVec.ofNat 64 (cbytes d (va % 32) n))

/-- LD, ordinary (17 R248): held behind the strand's own posted store to the cell; zero data on a discarded page. -/
def execLd (size : BitVec 2) (gd ga : GReg) (disp : BitVec 11) (s : State) : Out :=
  let i := Instr.ld size gd ga disp
  .next (s.withAccess i (s.mAddr size ga disp) (sizeOf size) false 1 (fun s1 pa va disc _ =>
    if disc then s1.retireReg gd 0
    else if s1.ownStore pa then s1.waitFor i
    else if badFe (s1.mem.sideAt pa).fe then s1.feCheck pa va
    else s1.checkedCell pa va (fun s2 d => (s2.cacheRead s2.issue.k pa va).loaded gd d va (sizeOf size))))

/-- A waiting (kind 0) or consuming (kind 1) load at the home slice (16 R229–R232). -/
def State.slowLoad (s : State) (i : Instr) (kind n : Nat) (gd : GReg) (a : Word64) : State :=
  s.withAccess i a n false 1 (fun s1 pa va disc entry =>
    if disc then (s1.setWaiters (s1.strandJob s1.issue.k) entry).waitOn i pa va kind true
    else if s1.ownStore pa then s1.waitFor i
    else if (s1.mem.sideAt pa).fe = 1 then s1.waitOn i pa va kind false
    else s1.strandGate i pa va (kind == 1) (if kind = 1 then some 1 else none) (fun s2 =>
      s2.checkedCell pa va (fun s3 d =>
        let s4 := (s3.fillLine (s3.strandJob s3.issue.k) pa va).dropWait (.strand s3.issue.k)
        let s5 := if kind = 1 then s4.setFe (s4.strandJob s4.issue.k) pa va 1 else s4
        s5.loaded gd d va n)))

/-- LD.W, a waiting load (17 R248). -/
def execLdW (size : BitVec 2) (gd ga : GReg) (disp : BitVec 11) (s : State) : Out :=
  .next (s.slowLoad (.ldW size gd ga disp) 0 (sizeOf size) gd (s.mAddr size ga disp))

/-- LD.C, a consuming load: it empties the cell it reads (17 R248). -/
def execLdC (size : BitVec 2) (gd ga : GReg) (disp : BitVec 11) (s : State) : Out :=
  .next (s.slowLoad (.ldC size gd ga disp) 1 (sizeOf size) gd (s.mAddr size ga disp))

/-- A posted store: accepted by the store path; it performs later at the home slice (17 R247, R249). -/
def State.post (s : State) (i : Instr) (size : BitVec 2) (gd : GReg) (a : Word64) (fill : Bool) : State :=
  let v := s.reg gd
  s.withAccess i a (sizeOf size) true 2 (fun s1 pa va _ _ =>
    let x := s1.cur
    (s1.setCur { x with posted := x.posted ++
      [{ va := va, pa := pa, size := sizeOf size, value := v, share := shareOf (pa % 32) (sizeOf size) v.toNat, fill := fill,
         atSlice := false }] }).retire)

/-- ST, ordinary (17 R249). -/
def execSt (size : BitVec 2) (gd ga : GReg) (disp : BitVec 11) (s : State) : Out :=
  .next (s.post (.st size gd ga disp) size gd (s.mAddr size ga disp) false)

/-- ST.X, overwrite-filling (17 R249). -/
def execStX (size : BitVec 2) (gd ga : GReg) (disp : BitVec 11) (s : State) : Out :=
  .next (s.post (.stX size gd ga disp) size gd (s.mAddr size ga disp) true)

/-- ST.F, a filling store: it performs after every earlier store of the strand, waits while the cell is full, and sets it
full (17 R247, R249). -/
def execStF (size : BitVec 2) (gd ga : GReg) (disp : BitVec 11) (s : State) : Out :=
  let i := Instr.stF size gd ga disp
  let v := (s.reg gd).toNat
  if !s.cur.posted.isEmpty then .next (s.waitFor i)
  else .next (s.withAccess i (s.mAddr size ga disp) (sizeOf size) true 2 (fun s1 pa va _ _ =>
    if (s1.mem.sideAt pa).fe = 2 then s1.waitOn i pa va 2 false
    else s1.strandGate i pa va true (some 2) (fun t =>
      let s2 := t.dropWait (.strand t.issue.k)
      let job := s2.strandJob s2.issue.k
      let n := sizeOf size
      ((s2.partialWrite job pa va n v (shareOf (pa % 32) n v) (some (portOfStrand s2.issue.k))).setFe job pa va 2).retire)))

/-- FEGET: gd := W·4 + FE; 1 on a discarded page (17 R250). -/
def execFeget (gd ga : GReg) (disp : BitVec 11) (s : State) : Out :=
  let i := Instr.feget gd ga disp
  .next (s.withAccess i (s.mAddr 3 ga disp) 0 false 1 (fun s1 pa va disc _ =>
    if disc then s1.retireReg gd 1
    else if s1.ownStore pa then s1.waitFor i
    else if badFe (s1.mem.sideAt pa).fe then s1.feCheck pa va
    else
      let x := s1.mem.sideAt pa
      s1.retireReg gd (BitVec.ofNat 64 ((if x.w then 4 else 0) + x.fe.toNat))))

/-- FESET: SetState(cell, gd[1:0]), after every earlier store of the strand; 0b00 and 0b11 trap 0x01 (17 R251). -/
def execFeset (gd ga : GReg) (disp : BitVec 11) (s : State) : Out :=
  let i := Instr.feset gd ga disp
  let fe : BitVec 2 := (s.reg gd).extractLsb' 0 2
  if badFe fe then .next (s.illegal (if s.isPair then (mWord 0x23 gd ga 3 0 disp).zeroExtend 64 else tvalWord i))
  else if !s.cur.posted.isEmpty then .next (s.waitFor i)
  else .next (s.withAccess i (s.mAddr 3 ga disp) 0 true 2 (fun s1 pa va _ _ =>
    s1.strandGate i pa va true (some fe) (fun t => (t.setFe (t.strandJob t.issue.k) pa va fe).retire)))

/-- PREF: the home slice fills the line, and for .L1 the strand's port tile takes a copy; a PREF that would fault after
step 3 of 17 R246 is dropped (17 R252). -/
def State.prefetch (s : State) (ga : GReg) (disp : BitVec 11) (l1 : Bool) : State :=
  match s.prep (s.mAddr 3 ga disp) 0 false 1 with
  | (.trap code tval, s1) => if 2 ^ 52 ≤ (s.mAddr 3 ga disp).toNat then s1.trap code tval else s1.retire
  | (.ok pa va, s1) =>
    let s2 := s1.fillLine (s1.strandJob s1.issue.k) pa va
    (if l1 then s2.l1Fill (portOfStrand s2.issue.k) pa else s2).retire
  | (_, s1) => s1.retire

/-- PREF.L2 (17 R252). -/
def execPrefL2 (ga : GReg) (disp : BitVec 11) (s : State) : Out := .next (s.prefetch ga disp false)
/-- PREF.L1 (17 R252). -/
def execPrefL1 (ga : GReg) (disp : BitVec 11) (s : State) : Out := .next (s.prefetch ga disp true)

/-! ### Home slices -/

/-- HOME_SLICE_ACCESS: the home slice takes posted store n of strand k, if the order of 17 R247 lets it. While another L1
holds the line the slice first invalidates it, and the write performs at the acknowledgement (14 R214). -/
def execHomeSliceAccess (k n : Nat) (s : State) : Out :=
  let l := (s.strand k).posted
  match l[n]? with
  | none => .next s
  | some p =>
    if !postedFree l n || p.atSlice then .next s
    else if s.writeHeld p.pa then .next (s.closeMerges p.pa)
    else if s.l1Shared p.pa (some (portOfStrand k)) then
      let x := s.strand k
      .next (s.setStrand k { x with posted := x.posted.set n { p with atSlice := true } })
    else .next (s.performPosted k n p)

/-- L1_WRITE_ACK: the invalidations of a write at the slice are acknowledged, and it performs (14 R214, 18 R265). -/
def execL1WriteAck (k n : Nat) (s : State) : Out :=
  let l := (s.strand k).posted
  match l[n]? with
  | none => .next s
  | some p =>
    if p.atSlice && postedFree l n then .next ((s.l1Drop p.pa (some (portOfStrand k))).performPosted k n p)
    else .next s

/-- L2_LINE_EVICT: a line that no merge group keeps leaves (14 R215, R222; 16 R230). -/
def execL2LineEvict (h line : Nat) (s : State) : Out :=
  .next (if (s.slice h).lines.any (fun l => l.addr == line) && !s.writeHeld line then s.evictLine h line else s)

end Sys2Proof.Machine
end

