-- ==== Sys2Proof/Machine/Atomic.lean ====
section
/-! DEFINITION. AMO, CAS and SAMO (17 R253–R257). -/

namespace Sys2Proof.Machine

/-! ### AMO and CAS (17 R253, R254) -/

/-- The wait of an atomic for the strand's earlier stores (17 R247 rule 2), its access, and its rewrite at the home slice:
f gives the new value from the old, g acts on a success before the old value is returned. -/
def State.atomic (s : State) (i : Instr) (gd ga : GReg) (n : Nat) (f : Nat → Nat) (g : State → State) : State :=
  if !s.cur.posted.isEmpty then s.waitFor i
  else s.withAccess i (s.reg ga) n true 3 (fun s1 pa va _ _ =>
    s1.strandGate i pa va true none (fun t =>
      match t.sliceRmw (t.strandJob t.issue.k) pa va n f with
      | (some old, s2) => (g s2).retireReg gd (BitVec.ofNat 64 old)
      | (none, s2) => s2.trap 0x07 (cellVa va)))

/-- The size of an atomic: 4 for .S, 8 for .D. -/
def amoSize (dbl : Bool) : Nat := if dbl then 8 else 4

/-- An AMO with operator op on n-byte values. -/
def State.amo (s : State) (i : Instr) (dbl : Bool) (gd ga gb : GReg) (op : Nat → Nat → Nat → Nat) : State :=
  let n := amoSize dbl
  let b := (s.reg gb).toNat % 2 ^ (8 * n)
  s.atomic i gd ga n (fun old => op n old b) (fun t => t)

/-- The signed minimum of two n-byte values. -/
def amoMinOp (n a b : Nat) : Nat := if sval (8 * n) b < sval (8 * n) a then b else a
/-- The signed maximum of two n-byte values. -/
def amoMaxOp (n a b : Nat) : Nat := if sval (8 * n) a < sval (8 * n) b then b else a
/-- The FP32 or FP64 sum of two n-byte values, rounded to nearest even. -/
def amoFaddOp (n a b : Nat) : Nat :=
  let f := if n = 8 then FloatFmt.f64 else FloatFmt.f32
  f.ne ((f.value a).add (f.value b))

/-- AMO.ADD (17 R253). -/
def execAmoAdd (dbl : Bool) (gd ga gb : GReg) (s : State) : Out :=
  .next (s.amo (.amoAdd dbl gd ga gb) dbl gd ga gb (fun n a b => (a + b) % 2 ^ (8 * n)))
/-- AMO.AND (17 R253). -/
def execAmoAnd (dbl : Bool) (gd ga gb : GReg) (s : State) : Out :=
  .next (s.amo (.amoAnd dbl gd ga gb) dbl gd ga gb (fun _ a b => a &&& b))
/-- AMO.OR (17 R253). -/
def execAmoOr (dbl : Bool) (gd ga gb : GReg) (s : State) : Out :=
  .next (s.amo (.amoOr dbl gd ga gb) dbl gd ga gb (fun _ a b => a ||| b))
/-- AMO.XOR (17 R253). -/
def execAmoXor (dbl : Bool) (gd ga gb : GReg) (s : State) : Out :=
  .next (s.amo (.amoXor dbl gd ga gb) dbl gd ga gb (fun _ a b => a ^^^ b))
/-- AMO.MIN (17 R253). -/
def execAmoMin (dbl : Bool) (gd ga gb : GReg) (s : State) : Out :=
  .next (s.amo (.amoMin dbl gd ga gb) dbl gd ga gb amoMinOp)
/-- AMO.MAX (17 R253). -/
def execAmoMax (dbl : Bool) (gd ga gb : GReg) (s : State) : Out :=
  .next (s.amo (.amoMax dbl gd ga gb) dbl gd ga gb amoMaxOp)
/-- AMO.MINU (17 R253). -/
def execAmoMinu (dbl : Bool) (gd ga gb : GReg) (s : State) : Out :=
  .next (s.amo (.amoMinu dbl gd ga gb) dbl gd ga gb (fun _ a b => Nat.min a b))
/-- AMO.MAXU (17 R253). -/
def execAmoMaxu (dbl : Bool) (gd ga gb : GReg) (s : State) : Out :=
  .next (s.amo (.amoMaxu dbl gd ga gb) dbl gd ga gb (fun _ a b => Nat.max a b))
/-- AMO.SWAP (17 R253). -/
def execAmoSwap (dbl : Bool) (gd ga gb : GReg) (s : State) : Out :=
  .next (s.amo (.amoSwap dbl gd ga gb) dbl gd ga gb (fun _ _ b => b))

/-- Set FPUNSEQ in the launch of the issuing strand (03 R56, 17 R253). -/
def State.flagUnseq (s : State) : State :=
  match s.launchOf s.issue.k with
  | none => s
  | some l => s.modLaunch l.id (fun y => { y with status := y.status ||| 8 })

/-- AMO.FADD: the sum in arrival order, flagged in the launch's status (17 R253). -/
def execAmoFadd (dbl : Bool) (gd ga gb : GReg) (s : State) : Out :=
  let n := amoSize dbl
  let b := (s.reg gb).toNat % 2 ^ (8 * n)
  .next (s.atomic (.amoFadd dbl gd ga gb) gd ga n (fun old => amoFaddOp n old b) State.flagUnseq)

/-- CAS: gb replaces the old value where it equals gc (17 R254). -/
def execCas (dbl : Bool) (gd ga gb gc : GReg) (s : State) : Out :=
  let n := amoSize dbl
  let b := (s.reg gb).toNat % 2 ^ (8 * n)
  let c := (s.reg gc).toNat % 2 ^ (8 * n)
  .next (s.atomic (.cas dbl gd ga gb gc) gd ga n (fun old => if old = c then b else old) (fun t => t))

/-! ### SAMO (17 R255–R257) -/

/-- The three formats of SAMO. -/
inductive SamoFmt where
  | f32 | f64 | i64
deriving DecidableEq, Repr

/-- The element size of a format. -/
def SamoFmt.size : SamoFmt → Nat
  | .f32 => 4
  | _ => 8

/-- The code a sequence entry holds. -/
def SamoFmt.code : SamoFmt → Nat
  | .f32 => 0
  | .f64 => 1
  | .i64 => 2

/-- The element plus a contribution: rounded to nearest even in its format, or modulo 2^64 (17 R256). -/
def samoSum (fmt : Nat) (v c : Nat) : Nat :=
  match fmt with
  | 0 => FloatFmt.f32.ne ((FloatFmt.f32.value v).add (FloatFmt.f32.value c))
  | 1 => FloatFmt.f64.ne ((FloatFmt.f64.value v).add (FloatFmt.f64.value c))
  | _ => (v + c) % 2 ^ 64

/-- The bytes of an element. -/
def samoBytes (fmt : Nat) : Nat := if fmt = 0 then 4 else 8

/-- The sequence of an element at its home slice. -/
def State.seqAt (s : State) (pa : Nat) : Option Seq := (s.slice (homeOf pa)).seqs.find? (fun q => q.pa == pa)

/-- Replace the sequence of an element. -/
def State.setSeq (s : State) (q : Seq) : State :=
  let h := homeOf q.pa
  let x := s.slice h
  s.setSlice h { x with seqs := x.seqs.map (fun y => if y.pa == q.pa then q else y) }

/-- Every wait-table entry of a slice that waits for a sequence is woken (17 R257). -/
def State.wakeSamo (s : State) (h : Nat) : State :=
  let x := s.slice h
  let ws := x.waits.filter (fun w => w.kind == 4)
  ws.foldl (fun t w => t.setPlace w.who (.woken none))
    (s.setSlice h { x with waits := x.waits.filter (fun w => w.kind != 4) })

/-- Apply a contribution to the element of a sequence (17 R256): a cell that fails its check is poisoned as a partial
write poisons it, and the sequence drops what follows. What the poisoned element's bytes become is not stated (log 13). -/
def State.samoApply (s : State) (q : Seq) (va : Nat) (c : Word64) : State :=
  let n := samoBytes q.fmt
  let s1 :=
    if q.bad then s
    else
      match s.sliceRmw q.job q.pa va n (fun v => samoSum q.fmt v c.toNat) with
      | (some _, t) => t
      | (none, t) =>
        let r := t.nextFree
        let cell := r.2.mem.cell q.pa
        let m := mergeBytes cell.data (q.pa % 32) n (Config.freeWord r.1).toNat
        r.2.storeCell q.job q.pa va { cell with data := m, code := gen m ^^^ poisonMark } none
  let cell := s.mem.cell q.pa
  let bad := q.bad || (check cell.data cell.code).data?.isNone
  (s1.setSeq { q with x := q.x + 1, bad := bad }).wakeSamo (homeOf q.pa)

/-- Apply the numbers the reorder buffer holds in turn, and close the sequence after the last (17 R256); n bounds the
entries that can be applied. -/
def State.samoDrain (s : State) (pa va : Nat) : Nat → State
  | 0 => s
  | n + 1 =>
    match s.seqAt pa with
    | none => s
    | some q =>
      let h := homeOf pa
      let x := s.slice h
      if q.x = q.t then
        (s.setSlice h { x with seqs := x.seqs.filter (fun y => y.pa != pa) }).setFe q.job pa va 2
      else
        match x.reorder.find? (fun b => b.pa == pa && b.n == q.x) with
        | none => s
        | some b =>
          ((s.setSlice h { x with reorder := x.reorder.filter (fun y => !(y.pa == pa && y.n == q.x)) }).samoApply q va
            b.c).samoDrain pa va n

/-- A contribution waits for a table entry or for buffer room (17 R257): in the wait table, or unlisted when it is full, and
then for the rest of its wait (16 R234). A re-examination spends budget. -/
def State.samoWait (s : State) (i : Instr) (pa va : Nat) : State :=
  let u := Waiter.strand s.issue.k
  if s.cancelledK s.issue.k then s.cancelTrap
  else if s.issue.exam && s.cur.retry = 0 then (s.dropWait u).trap 0x08 (cellVa va)
  else
    let unlisted := match s.placeOf u with
      | .unlisted _ => true
      | _ => false
    let s1 := (s.dropWait u).hold i true (fun p => { p with pa := pa, va := va })
    let h := homeOf pa
    let x := s1.slice h
    if !unlisted && x.waits.length < 64 then
      (s1.setSlice h { x with waits := x.waits ++ [{ pa := pa / 32 * 32, va := va, who := u, kind := 4 }] }).setPlace u
        (.table h)
    else s1.setPlace u (.unlisted s1.fc)

/-- The home slice takes contribution n of T to an element (17 R256, R257). -/
def State.samoArrive (s : State) (i : Instr) (fmt : SamoFmt) (pa va : Nat) (ga : Word64) (t n : Nat) (c : Word64) :
    State :=
  let h := homeOf pa
  let x := s.slice h
  let done (y : State) : State := (y.dropWait (.strand y.issue.k)).retire
  let buffer (y : State) : State :=
    let z := y.slice h
    done (y.setSlice h { z with reorder := z.reorder ++ [{ pa := pa, n := n, c := c }] })
  let apply (y : State) (q : Seq) : State := done ((y.samoApply q va c).samoDrain pa va (x.reorder.length + 2))
  match s.seqAt pa with
  | none =>
    if 64 ≤ x.seqs.length || (n ≠ 0 && 256 ≤ x.reorder.length) then s.samoWait i pa va
    else
      let job := s.strandJob s.issue.k
      let q : Seq := { pa := pa, fmt := fmt.code, t := t, x := 0, job := job, bad := false }
      let s1 := (s.setSlice h { x with seqs := x.seqs ++ [q] }).setFe job pa va 1
      if n = 0 then apply s1 q else buffer s1
  | some q =>
    if q.fmt ≠ fmt.code || q.t ≠ t || n < q.x || x.reorder.any (fun b => b.pa == pa && b.n == n) then
      (s.dropWait (.strand s.issue.k)).denied ga
    else if n = q.x then apply s q
    else if 256 ≤ x.reorder.length then s.samoWait i pa va
    else buffer s

/-- The state that taking contribution n of T may leave its cell in: empty when it opens the sequence, full when it closes
it (17 R256). -/
def State.samoFe (s : State) (pa t n : Nat) : Option (BitVec 2) :=
  match s.seqAt pa with
  | none => some (if n = 0 && t = 1 then 2 else 1)
  | some q => if n = q.x then some 2 else none

/-- SAMO: the control word is checked at the strand; the contribution is a release of every earlier store (17 R255). -/
def State.samo (s : State) (i : Instr) (fmt : SamoFmt) (ga gb gc : GReg) : State :=
  let ctl := s.reg gc
  let t := ctl.toNat / 2 ^ 32
  let n := ctl.toNat % 2 ^ 32
  if t ≤ n then s.denied ctl
  else if !s.cur.posted.isEmpty then s.waitFor i
  else
    let c := s.reg gb
    s.withAccess i (s.reg ga) fmt.size true 3 (fun s1 pa va _ _ =>
      s1.strandGate i pa va true (s1.samoFe pa t n) (fun s2 => s2.samoArrive i fmt pa va (s2.reg ga) t n c))

/-- SAMO.F32 (17 R255). -/
def execSamoF32 (ga gb gc : GReg) (s : State) : Out := .next (s.samo (.samoF32 ga gb gc) .f32 ga gb gc)
/-- SAMO.F64 (17 R255). -/
def execSamoF64 (ga gb gc : GReg) (s : State) : Out := .next (s.samo (.samoF64 ga gb gc) .f64 ga gb gc)
/-- SAMO.I64 (17 R255). -/
def execSamoI64 (ga gb gc : GReg) (s : State) : Out := .next (s.samo (.samoI64 ga gb gc) .i64 ga gb gc)

end Sys2Proof.Machine
end

