-- ==== Sys2Proof/Machine/Sync.lean ====
section
/-! DEFINITION. FENCE, FLUSH, DISCARD, BCOPY (17 R258–R263; 16 R236, R237) and TLBINV (06 R103). -/

namespace Sys2Proof.Machine

/-! ### FENCE (17 R258) -/

/-- A copy, multicast or history command that strand k issued has not finished. -/
def State.ownCommands (s : State) (k : Nat) : Bool := s.ports.any (fun x => x.2.cmds.any (fun c => c.owner == k))

/-- FENCE: every earlier store of the strand has performed. -/
def execFence (s : State) : Out :=
  .next (if s.cur.posted.isEmpty then s.retire else s.waitFor .fence)

/-- FENCE.ENG: also every engine command of this strand has finished. -/
def execFenceEng (s : State) : Out :=
  .next (if s.cur.posted.isEmpty && !s.ownCommands s.issue.k then s.retire else s.waitFor .fenceEng)

/-! ### FLUSH (17 R259) -/

/-- Write back the dirty cells of every L2 line that overlaps [pa, pa + n): the lines stay, clean. -/
def State.flushRange (s : State) (pa n : Nat) : State :=
  { s with slices := s.slices.map (fun x => (x.1, { x.2 with lines := x.2.lines.map (fun l =>
      if l.addr < pa + n && pa < l.addr + 256 then { l with dirty := 0, back := [] } else l) })) }

/-- Write back a range 64 KiB at a time and go on with f, passing over what has no mapping, is not resident or is discarded;
an arriving page makes the instruction wait, and an entry no level accepts is a machine check (14 R210). -/
def State.flushPages (s : State) (i : Instr) (f : State → State) (va stop : Nat) : Nat → State
  | 0 => f s
  | n + 1 =>
    if stop ≤ va || 2 ^ 52 ≤ va then f s
    else
      let k := s.issue.k
      let r := s.translate (.seq (k / 8)) (s.strandJob k) (s.strandX k) va
      let next := (va / 65536 + 1) * 65536
      match r.1 with
      | .heap pa => (r.2.flushRange pa (Nat.min stop next - va)).flushPages i f next stop n
      | .page pa _ _ => (r.2.flushRange pa (Nat.min stop next - va)).flushPages i f next stop n
      | .arriving => r.2.waitFor i
      | .machine => r.2.trap 0x1F ((UnitRef.strand k).abs.zeroExtend 64)
      | .discarded .. | .noMap | .absent => r.2.flushPages i f next stop n

/-- FLUSH: write back every dirty cell of the L2 lines that overlap [ga, ga + gb). -/
def execFlush (ga gb : GReg) (s : State) : Out :=
  let a := s.reg ga
  let n := s.reg gb
  .next (
    if 2 ^ 30 < n.toNat then s.denied n
    else if n = 0 then s.retire
    else if 2 ^ 52 ≤ a.toNat then s.trap 0x05 a
    else s.flushPages (.flush ga gb) State.retire a.toNat (a.toNat + n.toNat) 16386)

/-! ### DISCARD (17 R260) -/

/-- A line that DISCARD keeps: a W bit, a wait-table entry, an open sequence, or an open merge group. -/
def State.keepsLine (s : State) (x : Slice) (l : L2Line) : Bool :=
  (List.range 8).any (fun j => (s.mem.sideAt (l.addr + 32 * j)).w) ||
  x.waits.any (fun w => w.pa / 256 * 256 == l.addr) ||
  x.seqs.any (fun q => q.pa / 256 * 256 == l.addr) ||
  s.writeHeld l.addr

/-- Put back what device memory holds behind the dirty cells of a line. -/
def restoreCells (m : Memory) (addr : Nat) : List (Nat × Cell) → Memory
  | [] => m
  | (j, c) :: t => restoreCells (m.setCell (addr + 32 * j) c) addr t

/-- Drop a line without writing it back, with its L1 copies. -/
def State.dropLine (s : State) (h : Nat) (l : L2Line) : State :=
  let x := s.slice h
  let s1 := (s.setSlice h { x with lines := x.lines.filter (fun y => y.addr != l.addr) }).setMem
    (restoreCells s.mem l.addr l.back)
  { s1 with ports := s1.ports.map (fun p =>
      (p.1, { p.2 with l1 := p.2.l1.filter (fun n => n * 64 / 256 * 256 != l.addr) })) }

/-- DISCARD: drop the L2 lines tagged with the issuing job and tensor ID ga[15:0]; a release of every earlier store. -/
def execDiscard (ga : GReg) (s : State) : Out :=
  let a := s.reg ga
  let job := s.strandJob s.issue.k
  .next (
    if 2 ^ 16 ≤ a.toNat || a = 0 || !(s.job job).tensors.any (fun t => t.1.toNat == a.toNat) then s.denied a
    else if !s.cur.posted.isEmpty then s.waitFor (.discard ga)
    else
      let ls := s.slices.flatMap (fun x => (x.2.lines.filter (fun l =>
        l.job == job && l.id.toNat == a.toNat && !s.keepsLine x.2 l)).map (fun l => (x.1, l)))
      (ls.foldl (fun t x => t.dropLine x.1 x.2) s).retire)

/-! ### BCOPY (17 R261, R262; 16 R236, R237) -/

/-- What the source of one copied cell gives: a trap or wait already taken, or the cell read. -/
inductive Fetched where
  | stop (s : State)
  | got (s : State) (c : Cell)

/-- Read one source cell at its home slice as a carrier (16 R242): ordinarily, or as a consuming access (mode 3), which a merge group holds (14 R223). -/
def State.bcopySource (s : State) (i : Instr) (mode : Nat) (p : Prep) : Fetched :=
  match p with
  | .disc pa va entry _ =>
    if mode = 3 then .stop ((s.setWaiters (s.strandJob s.issue.k) entry).waitOn i pa va 1 true)
    else .got s { data := 0, fe := 1, w := false, code := 0 }
  | .ok pa va =>
    let c := s.mem.cell pa
    if mode = 3 && c.fe = 1 then .stop (s.waitOn i pa va 1 false)
    else
      match s.gate (some (.strand s.issue.k)) (s.strandJob s.issue.k) pa va (mode == 3) (if mode = 3 then some 1 else none) with
      | .invalid t => .stop (t.feCheck pa va)
      | .held t => .stop (t.waitFor i)
      | .damaged t => .stop (t.trap 0x1F (sliceTval pa))
      | .pass t => .got t c
  | .trap code tval => .stop ((s.dropWait (.strand s.issue.k)).trap code tval)
  | .stall => .stop (s.waitFor i)

/-- Empty the source cell of a consuming copy. -/
def State.bcopyConsume (s : State) (mode : Nat) (p : Prep) : State :=
  match p with
  | .ok pa va =>
    let s1 := s.dropWait (.strand s.issue.k)
    if mode = 3 then s1.setFe (s1.strandJob s1.issue.k) pa va 1 else s1
  | _ => s

/-- The state a copied cell takes at its destination (16 R236). -/
def bcopyFe (mode : Nat) (fe : BitVec 2) : BitVec 2 := if mode = 0 then fe else if mode = 2 then 1 else 2

/-- Write one destination cell whole: data and code as read, state by the mode; KEEPW copies W and wakes nobody. -/
def State.bcopyWrite (s : State) (mode : Nat) (keepw : Bool) (pa va : Nat) (c : Cell) : State :=
  let job := s.strandJob s.issue.k
  let s1 := s.wholeWrite job pa va c.data c.code
  if keepw then
    let s2 := s1.setMem (s1.mem.setSide pa { s1.mem.sideAt pa with fe := c.fe, w := c.w })
    if c.fe = 2 then s2.latchReady pa else s2
  else s1.setFe job pa va (bcopyFe mode c.fe)

/-- Copy cell i: both translations and permissions are checked before the source is read. -/
def State.bcopyCell (s : State) (i : Instr) (gd : GReg) (dst src : Word64) (mode : Nat) (keepw : Bool) (n idx : Nat) :
    State :=
  let off := BitVec.ofNat 64 (32 * idx)
  match s.prep (dst + off) 0 true 2 with
  | (.trap code tval, s1) => (s1.dropWait (.strand s1.issue.k)).trap code tval
  | (.stall, s1) => s1.waitFor i
  | (pd, s1) =>
    let ps := s1.prep (src + off) 0 false 1
    match ps.2.bcopySource i mode ps.1 with
    | .stop s2 => s2
    | .got s2 c =>
      let go (s3 : State) (pa va : Nat) : State :=
        s3.strandGate i pa va true (if keepw then none else some (bcopyFe mode c.fe)) (fun t =>
          let s4 := ((t.bcopyConsume mode ps.1).bcopyWrite mode keepw pa va c).setReg gd (BitVec.ofNat 64 (idx + 1))
          if n ≤ idx + 1 then s4.retire
          else s4.hold i false (fun p => { p with stage := 1, value := BitVec.ofNat 64 (idx + 1) }))
      match pd with
      | .disc pa va entry big => go (s2.revive (s2.strandJob s2.issue.k) va entry big) pa va
      | .ok pa va => go s2 pa va
      | _ => s2

/-- BCOPY: gc is checked, then cells gd to N − 1 are copied one at a time; the operands are those of the issue. -/
def execBcopy (gd ga gb gc : GReg) (s : State) : Out :=
  let i := Instr.bcopy gd ga gb gc
  let started := match s.cur.pend with
    | some p => p.stage == 1
    | none => false
  let ops := match s.cur.pend with
    | some p => (match p.walks with
      | (a, b, c) :: _ => (BitVec.ofNat 64 a, BitVec.ofNat 64 b, BitVec.ofNat 64 c, p.value.toNat)
      | [] => (s.reg ga, s.reg gb, s.reg gc, (s.reg gd).toNat))
    | none => (s.reg ga, s.reg gb, s.reg gc, (s.reg gd).toNat)
  let dst := ops.1
  let src := ops.2.1
  let ctl := ops.2.2.1
  let idx := ops.2.2.2
  let keepw := ctl.getLsbD 26
  let mode := bits ctl.toNat 24 2
  let n := bits ctl.toNat 0 24
  .next (
    if !started && (2 ^ 27 ≤ ctl.toNat || (keepw && (!s.cur.priv || mode ≠ 0))) then s.denied ctl
    else if !started && dst.toNat % 32 ≠ 0 then s.trap 0x0C dst
    else if !started && src.toNat % 32 ≠ 0 then s.trap 0x0C src
    else if !s.cur.posted.isEmpty then s.waitFor i
    else if n ≤ idx then s.retire
    else
      let s1 := if started then s else s.hold i false (fun p =>
        { p with stage := 1, value := BitVec.ofNat 64 idx, walks := [(dst.toNat, src.toNat, ctl.toNat)] })
      s1.bcopyCell i gd dst src mode keepw n idx)

/-! ### TLBINV (06 R103) -/

/-- The control word names a job. -/
def tlbJob (gb : Word64) (job : Nat) : Bool := gb.getLsbD 9 || bits gb.toNat 0 8 == job

/-- The control word and address name the page of an address of a job. -/
def State.tlbPage (s : State) (ga gb : Word64) (job va : Nat) : Bool :=
  tlbJob gb job && !(s.xrecOf job).inHeap va && (gb.getLsbD 8 || va / 2 ^ 16 == ga.toNat / 2 ^ 16 ||
    (va / 2 ^ 21 == ga.toNat / 2 ^ 21 &&
      (match (s.walk (.slice 0) job (s.xrecOf job) va).1 with
        | some f => f.big
        | none => false)))

/-- The TLB entry is named. -/
def tlbMatch (ga gb : Word64) (e : TlbEntry) : Bool :=
  tlbJob gb e.job && (gb.getLsbD 8 || e.vpn == vpnOf ga.toNat e.big)

/-- Every wait-table entry of a page that is named moves to its cell's park list (16 R230). -/
def State.parkPage (s : State) (ga gb : Word64) : State :=
  let ws := s.slices.flatMap (fun x => x.2.waits.filter (fun w => w.kind != 4 && s.tlbPage ga gb (s.jobOf w.who) w.va))
  let s1 := { s with slices := s.slices.map (fun x =>
    (x.1, { x.2 with waits := x.2.waits.filter (fun w => !ws.contains w) })) }
  ws.foldl (fun t w => t.parkWaiter w.who w.pa w.va w.kind) s1

/-- Accesses that used a named translation have not performed: posted stores. -/
def State.usesPage (s : State) (ga gb : Word64) : Bool :=
  s.strands.any (fun x => x.2.posted.any (fun p => s.tlbPage ga gb (s.strandJob x.1) p.va))

/-- TLBINV, a supervisor instruction: every matching entry goes, and it completes when every access that used one has
performed. -/
def execTlbinv (ga gb : GReg) (s : State) : Out :=
  let i := Instr.tlbinv ga gb
  let a := s.reg ga
  let b := s.reg gb
  .next (
    if !s.cur.priv then s.denied (tvalWord i)
    else if 2 ^ 10 ≤ b.toNat then s.denied b
    else
      let s1 := (s.tlbForget (tlbMatch a b)).parkPage a b
      if s1.usesPage a b then s1.waitFor i else s1.retire)

end Sys2Proof.Machine
end

