-- ==== Sys2Proof/Machine/Engine.lean ====
section
/-! DEFINITION. What generators, copy engines and the other units of a region share: routes and credits (04 R68, 07
R106), memory-tile cells and areas (09 R139, 11 R164, 12 R194), accesses to device memory through a port (14 R210, R217,
R224), and commit windows (22 R325–R328). -/

namespace Sys2Proof.Machine

/-! ### Which units move -/

/-- The launch runs: placed, neither halted nor cancelled, its open window neither void, nor committing, nor overdue (21
R309, 22 R324, R325). -/
def Launch.live (l : Launch) (fc : Nat) : Bool :=
  l.stage == .placed && !l.hasHalted && !l.cancelled &&
    (match l.window with
      | none => true
      | some w => !w.voided && !w.committing && w.fault.isNone && fc ≤ w.opened + 8192)

/-- The running launch that holds cluster c, while the module is not frozen. -/
def State.liveAt (s : State) (c : Nat) : Option Launch :=
  match s.ownerOf c with
  | some l => if l.live s.fc && !s.dv.frozen then some l else none
  | none => none

/-- The launch that holds cluster c, where a cell on its way to a tile still lands: it runs, or it is a direct one that has
halted or is cancelled, whose engines finish the cell they move (22 R324). -/
def State.landAt (s : State) (c : Nat) : Option Launch :=
  match s.ownerOf c with
  | some l => if (l.live s.fc || (l.record.direct && l.stage == .placed)) && !s.dv.frozen then some l else none
  | none => none

/-- Ask a launch's window to close early (22 R325). -/
def State.closeWindow (s : State) (l : Nat) : State :=
  s.modLaunch l (fun y => { y with window := y.window.map (fun w => { w with close := true }) })

/-! ### Routes (04 R68) -/

/-- Source unit and port of a route entry. -/
def routeSrc (r : Word64) : Nat × Nat := (bits r.toNat 48 16, bits r.toNat 44 4)
/-- Destination unit and port. -/
def routeDst (r : Word64) : Nat × Nat := (bits r.toNat 28 16, bits r.toNat 24 4)
/-- Mode: 0 plain, 1 delay line, 2 intersection, 3 converting. -/
def routeMode (r : Word64) : Nat := bits r.toNat 20 4
/-- Depth of a delay line. -/
def routeDepth (r : Word64) : Nat := bits r.toNat 16 4 + 1
/-- The other input of an intersection pair. -/
def routePair (r : Word64) : Nat := bits r.toNat 13 3
/-- Target tag of a converting route. -/
def routeTag (r : Word64) : Nat := bits r.toNat 9 4
/-- Conversion mode of a converting route. -/
def routeRnd (r : Word64) : Rnd := Rnd.ofBits (BitVec.ofNat 2 (bits r.toNat 7 2))
/-- Saturation selection of a converting route. -/
def routeSat (r : Word64) : Bool := r.getLsbD 6

/-- The entries that share a source. -/
def Launch.fork (l : Launch) (u p : Nat) : List Word64 := l.routes.filter (fun r => routeSrc r == (u, p))
/-- The entry that names a destination. -/
def Launch.feeding (l : Launch) (u p : Nat) : Option Word64 := l.routes.find? (fun r => routeDst r == (u, p))

/-- The fork of an element's output channel. -/
def Launch.outFork (l : Launch) (e ch : Nat) : List Word64 := l.fork (l.relId (.element e)) ch
/-- The route of an element's input channel. -/
def Launch.inRoute (l : Launch) (e ch : Nat) : Option Word64 := l.feeding (l.relId (.element e)) ch

/-- Input ch of element e is the far end of a delay line. -/
def Launch.isDelay (l : Launch) (e ch : Nat) : Bool :=
  match l.inRoute e ch with
  | some r => routeMode r == 1
  | none => false

/-- Input channel n of an element. -/
def Element.inp (x : Element) (n : Nat) : InChan := vget x.ins n InChan.empty
/-- The element with input channel n. -/
def Element.setInp (x : Element) (n : Nat) (c : InChan) : Element := { x with ins := vset x.ins n c }
/-- Output channel n of an element. -/
def Element.out (x : Element) (n : Nat) : List Token := vget x.outs n []
/-- The element with output channel n. -/
def Element.setOut (x : Element) (n : Nat) (q : List Token) : Element := { x with outs := vset x.outs n q }
/-- Generator g of a tile. -/
def Tile.gen (x : Tile) (g : Nat) : Gen := vget x.gens g Gen.reset
/-- The tile with generator g. -/
def Tile.setGen (x : Tile) (g : Nat) (y : Gen) : Tile := { x with gens := vset x.gens g y }
/-- Buffer b of a tile. -/
def Tile.buf (x : Tile) (b : Nat) : Buf := vget x.bufs b Buf.unused
/-- The tile with buffer b. -/
def Tile.setBuf (x : Tile) (b : Nat) (y : Buf) : Tile := { x with bufs := vset x.bufs b y }

/-- An input channel of element e has a credit: four tokens on the route and buffered (07 R106). A complete element
takes and discards every token (07 R118). -/
def State.inputRoom (s : State) (e ch : Nat) : Bool :=
  let x := s.element e
  x.complete || (x.inp ch).wire.length + (x.inp ch).buf.length < 4

/-- The destination of a route has a credit. -/
def State.destRoom (s : State) (l : Launch) (r : Word64) : Bool :=
  match l.unit? (routeDst r).1 with
  | some (.element e) =>
    if routeMode r == 1 then ((s.element e).inp (routeDst r).2).buf.length < routeDepth r
    else s.inputRoom e (routeDst r).2
  | some (.tile t) => ((s.tile t).gen (routeDst r).2).wire.length < 4
  | some (.port p) => match (s.port p).portal with
    | some q => q.wire.length < 4
    | none => false
  | _ => false

/-- A token leaves for the destination of a route. A delay line has no route to travel (07 R114). -/
def State.destPush (s : State) (l : Launch) (r : Word64) (t : Token) : State :=
  match l.unit? (routeDst r).1 with
  | some (.element e) =>
    let x := s.element e
    let c := x.inp (routeDst r).2
    if routeMode r == 1 then s.setElement e (x.setInp (routeDst r).2 { c with buf := c.buf ++ [t] })
    else s.setElement e (x.setInp (routeDst r).2 { c with wire := c.wire ++ [t] })
  | some (.tile t') =>
    let x := s.tile t'
    let g := x.gen (routeDst r).2
    s.setTile t' (x.setGen (routeDst r).2 { g with wire := g.wire ++ [t] })
  | some (.port p) =>
    let x := s.port p
    s.setPort p { x with portal := x.portal.map (fun q => { q with wire := q.wire ++ [t] }) }
  | _ => s

/-- Every destination of a fork has a credit. -/
def State.forkRoom (s : State) (l : Launch) (f : List Word64) : Bool := f.all (fun r => s.destRoom l r)
/-- Deliver a token to every destination of a fork. -/
def State.forkPush (s : State) (l : Launch) (f : List Word64) (t : Token) : State :=
  f.foldl (fun u r => u.destPush l r t) s

/-- An end marker (07 R105). -/
def markerToken (tag : BitVec 4) (bank : BitVec 2) (ver : BitVec 4) : Token :=
  { data := 0, code0 := 0, code1 := 0, tag := tag, bank := bank, fin := true, ver := ver, sw := false }
/-- A switch token (07 R105). -/
def switchToken (ver : BitVec 4) : Token :=
  { data := 0, code0 := 0, code1 := 0, tag := 0, bank := 0, fin := false, ver := ver, sw := true }

/-! ### Memory tiles -/

/-- A group is open when one of its member entries is (12 R186, R189). -/
def State.groupOpen (s : State) (l : Launch) (g : Group) : Bool :=
  g.members.any (fun m => match l.unit? m.toNat with
    | some (.tile t) => (s.tile t).watch.any (fun w => w.2.group == g.num && w.2.isOpen)
    | _ => false)

/-- The cell at byte a of a tile lies in the count area of an open entry or in the area of a tile decoder of an open
group, which other units must not write (11 R178, 12 R194). -/
def State.watchArea (s : State) (l : Launch) (t a : Nat) : Bool :=
  (s.tile t).watch.any (fun w => w.2.isOpen && a / 256 == w.2.coff.toNat) ||
  l.groups.any (fun g => g.decs.any (fun d => d.tile && l.unit? d.unit.toNat == some (.tile t) && d.off ≤ a && a < d.off + 256)
    && s.groupOpen l g)

/-- Note that a cell of a tile is written in the launch's window: none when the undo log is full (22 R325, R327). -/
def State.noteTile (s : State) (l : Launch) (t cell : Nat) : Option State :=
  match l.window with
  | none => some s
  | some w =>
    let u := tabGet [] w.tlUndo t
    if u.contains cell then some s
    else if 1024 ≤ u.length then none
    else some (s.modLaunch l.id (fun y => { y with window := y.window.map (fun v =>
      { v with tlUndo := tabPut t (u ++ [cell]) v.tlUndo }) }))

/-- Write a cell of a tile with its code as it came (09 R143, R148): data and code, and a state if one is given. -/
def State.tileWrite (s : State) (t a : Nat) (d : CellData) (code : BitVec 28) (fe : Option (BitVec 2)) : State :=
  let x := s.tile t
  let c := x.sram.cell a
  s.setTile t { x with sram := x.sram.setCell a { c with data := d, code := code, fe := fe.getD c.fe } }

/-! ### The cells of walks and commands (09 R140, R143, R144, R148) -/

/-- Index i of a walk. -/
def Walk.index (w : Walk) (i : Nat) : Nat :=
  match i with
  | 0 => w.i0
  | 1 => w.i1
  | 2 => w.i2
  | _ => w.i3

/-- The address of the transfer a walk comes to next; none when PERM meets an index beyond the table (09 R145). -/
def Walk.addr (w : Walk) (x : Tile) : Option Nat :=
  let p := w.pat
  let sb : Nat := match w.slot with
    | some n => (x.buf (patBuf p)).base + n * (x.buf (patBuf p)).slotBytes
    | none => 0
  let bad := patPerm p && x.perm.length ≤ w.index (patPdim p)
  let j (i : Nat) : Nat :=
    if patCbuf p && i == 3 then 0
    else if patPerm p && i == patPdim p then (x.perm.getD (w.index i) 0).toNat
    else w.index i
  if bad then none
  else some (((sb + patBase p : Nat) : Int) + (j 0 : Nat) * patStride p 0 + (j 1 : Nat) * patStride p 1 +
    (j 2 : Nat) * patStride p 2 + (j 3 : Nat) * patStride p 3).toNat

/-- Where a walk's address lies in the tile: in line mode in the ring of rows (09 R140). -/
def Tile.place (x : Tile) (a : Nat) : Nat := if x.mode = 2 then x.qbase + a % Nat.max 1 (x.qsize * x.lrow) else a

/-- The cells of the next transfer of a walk. -/
def Tile.walkCells (x : Tile) (w : Walk) : Option (List Nat) :=
  let two (f : Nat → Nat) (a : Nat) : List Nat := if patHalf w.pat then [f a] else [f a, f (a + 32)]
  if x.mode = 1 then
    let n := if patWrite w.pat then x.put else x.take
    some (two id (x.qbase + 64 * (n % Nat.max 1 (x.qsize / 64))))
  else (w.addr x).map (two x.place)

/-- T of a command at a tile: TOFF, or the claimed slot's base. -/
def State.copyBase (s : State) (c : Cmd) (t : Nat) : Nat :=
  if crCbuf c.record then
    let b := (s.tile t).buf (crBuf c.record)
    b.base + ((c.slots.find? (fun q => q.1 == t)).map (·.2)).getD 0 * b.slotBytes
  else crToff c.record

/-- A command that reads tile t waits for its cell at byte a to become full. -/
def State.awaits (s : State) (c : Cmd) (t a : Nat) : Bool :=
  let r := c.record
  let off (n : Nat) : Nat := crOff r (s.copyBase c t) n
  crDir r && crTile r % 32 == t % 6 && (match c.place with
    | .unlisted _ => true
    | _ => false) &&
    (if crHist r then (List.range (crCells r)).any (fun n => off n == a) else off c.next == a)

/-- A cell of a tile was written or changed state: the commands of its cluster's ports that wait for it are woken. -/
def State.pokeCmds (s : State) (t a : Nat) : State :=
  { s with ports := s.ports.map (fun x =>
      if x.1 / 3 = t / 6 then
        (x.1, { x.2 with cmds := x.2.cmds.map (fun c => if s.awaits c t a then { c with place := .woken none } else c) })
      else x) }

/-- A cell of a tile was written or changed state: the generators that wait for it re-examine once each time (09 R144). -/
def State.pokeCell (s : State) (t a : Nat) : State :=
  let x := s.tile t
  (s.pokeCmds t (a / 32 * 32)).setTile t { x with gens := x.gens.map (fun g =>
    match g.walk with
    | some w => if g.celled && ((x.walkCells w).getD []).contains (a / 32 * 32) then { g with poked := g.poked + 1 } else g
    | none => g) }

/-- Write cells of a tile in order and poke those that wait for them. -/
def State.putCells (s : State) (t : Nat) : List (Nat × CellData × BitVec 28) → Option (BitVec 2) → State
  | [], _ => s
  | (a, d, c) :: rest, fe => ((s.tileWrite t a d c fe).pokeCell t a).putCells t rest fe

/-! ### Device memory through a port (14 R210, R217, R224) -/

/-- What an engine's access meets: an address, a discarded page, a page of kind 3 that a whole-cell write leaves through
the keg, an arriving page, a page the pager must bring (`true`: no mapping at all), or an element fault. -/
inductive EngAcc where
  | ok (pa : Nat)
  | disc (pa entry : Nat) (big : Bool)
  | keg
  | wait
  | page (noMap : Bool)
  | fault (cause : Nat)
deriving DecidableEq, Repr

/-- Translate an access of port p of a launch; an entry that no level accepts enters the trub record. -/
def State.engFind (s : State) (l : Launch) (p va : Nat) (write : Bool) : Xlate × State :=
  let r := s.translateFor (.port p) l.job l.xrec va write
  match r.1 with
  | .machine => (.machine, r.2.trubAdd (p / 48) 8 (UnitRef.port p).abs l.job 0x1F (BitVec.ofNat 64 va))
  | x => (x, r.2)

/-- What a translation means for an engine, rights aside. -/
def Xlate.forEngine (write : Bool) : Xlate → EngAcc
  | .heap pa => .ok pa
  | .page pa _ _ => .ok pa
  | .discarded pa entry _ _ big => .disc pa entry big
  | .noMap => .page true
  | .absent => if write then .keg else .page false
  | .arriving => .wait
  | .machine => .fault 0x0A

/-- The page refuses a write: W is clear, or X set. -/
def Xlate.barsWrite : Xlate → Bool
  | .page _ w x => !w || x
  | .discarded _ _ w x _ => !w || x
  | _ => false

/-- Where an access of port p of a launch goes, rights aside. -/
def State.engWhere (s : State) (l : Launch) (p va : Nat) (write : Bool) : EngAcc × State :=
  let r := s.engFind l p va write
  (r.1.forEngine write, r.2)

/-- Translate and check an access of port p of a launch. -/
def State.engAcc (s : State) (l : Launch) (p va : Nat) (write : Bool) : EngAcc × State :=
  let right := if write then 2 else 1
  if s.access (targetPort p) l.job < right then (.fault 0x0B, s)
  else if 2 ^ 52 ≤ va then (.fault 0x0A, s)
  else
    let r := s.engFind l p va write
    let ok (pa : Nat) : Bool := !(write && r.1.barsWrite) && right ≤ r.2.access (targetSlice (homeOf pa)) l.job
    match r.1.forEngine write with
    | .ok pa => (if ok pa then .ok pa else .fault 0x0B, r.2)
    | .disc pa entry big => (if ok pa then .disc pa entry big else .fault 0x0B, r.2)
    | a => (a, r.2)

/-- The open window of a launch is to be voided for a request of a unit: nothing of the region moves until then (22
R328). -/
def State.markVoid (s : State) (l : Nat) (w : Word64) (va : Nat) (write : Bool) : State :=
  s.modLaunch l (fun y => { y with window := y.window.map (fun v =>
    { v with fault := if v.fault.isNone then some (w, va, write) else v.fault }) })

/-- Void the open window of a launch (22 R327): its held effects go and the region is as its records say. -/
def State.voidWindow (s : State) (l : Nat) : State :=
  (s.restoreWindow l).modLaunch l (fun y => { y with window := y.window.map (fun v => { v with voided := true }) })

/-- The pager is asked for a page of port p's request by a record to the supervisor, once until the page's translations are
forgotten (14 R210, 22 R328; log 31). -/
def State.pagerAsk (s : State) (p job va : Nat) (noMap : Bool) : State :=
  let x := s.port p
  let key := (job, va / 2 ^ 16)
  if x.asked.contains key then s
  else { (s.setPort p { x with asked := x.asked ++ [key] }) with traps := s.traps ++
    [{ epc := 0, tval := BitVec.ofNat 64 va, unit := (UnitRef.port p).abs, code := if noMap then 0x05 else 0x06,
       pair := false, job := BitVec.ofNat 8 job }] }

/-- A page or translation fault of a request of port p (09 R158, 14 R210, 22 R328): a windowed launch's window is voided, and
the request goes to the pager; a direct launch takes the element fault for an address with no mapping, and otherwise
stalls in place until the pager has acted. -/
def State.pageFault (s : State) (p : Nat) (l : Launch) (va : Nat) (write noMap : Bool) : State :=
  let u := UnitRef.port p
  match l.window with
  | some _ => (s.markVoid l.id (faultWord (l.relId u) 0x0A 0 0 0 (faultInfo va)) va write).pagerAsk p l.job va noMap
  | none => if noMap then s.elementFault u l 0x0A 0 0 0 (faultInfo va) else s.pagerAsk p l.job va noMap

/-- An engine meets an invalid full/empty value: the element fault "machine check", and the slice's trub entry (16
R232). -/
def State.engFe (s : State) (u : UnitRef) (l : Launch) (pa va : Nat) : State :=
  let h := UnitRef.slice (homeOf pa)
  (s.trubAdd h.die 8 h.abs l.job 0x11 (BitVec.ofNat 64 va)).elementFault u l 0x11 0 0 0 (faultInfo va)

/-! ### The keg (14 R224) -/

/-- Free cells of a keg. -/
def State.kegRoom (s : State) (x : XRec) : Nat :=
  let put := s.mem.good x.kegpa 4
  let take := s.mem.good (x.kegpa + 4) 4
  (x.kegcells - 1) - (put + 2 ^ 32 - take) % 2 ^ 32

/-- The address of ring cell n. -/
def kegCell (x : XRec) (n : Nat) : Nat := x.kegpa + 32 * (1 + n % 2 ^ 32 % (x.kegcells - 1))

/-- Append one cell to the keg as an entry of its own: the data cell first, then the header as a filling store, then PUT. -/
def State.kegAppend (s : State) (x : XRec) (job va : Nat) (unit : BitVec 16) (c : Cell) (fe : BitVec 2) : State :=
  let put := s.mem.good x.kegpa 4
  let hd := kegCell x put
  let dat := kegCell x (put + 1)
  let s1 := s.wholeWrite job dat dat c.data c.code
  let h : CellData := BitVec.ofNat 256 (va + 2 ^ 64 * 1 + 2 ^ 80 * fe.toNat + 2 ^ 96 * unit.toNat)
  let s2 := (s1.wholeWrite job hd hd h (gen h)).putField job x.kegpa 4 ((put + 2) % 2 ^ 32)
  s2.setFe job hd hd 2

/-- The header cell of the next entry is still full: its filling store would wait. -/
def State.kegFull (s : State) (x : XRec) : Bool :=
  s.kegRoom x < 2 || (s.mem.sideAt (kegCell x (s.mem.good x.kegpa 4))).fe == 2

/-! ### Whole-cell writes of engines -/

/-- What an engine's write did: it performed, it must wait, or the launch has taken a fault. -/
inductive EngOut where
  | done (s : State)
  | wait (s : State)
  | stop (s : State)

/-- A whole-cell write of port p performs where its access leads: data and code as they come, and a state if one is given (09
R148, 16 R236). A merge group holds it, and so does a bad park-area cell that its wake would meet, for which the supervisor
gets a record (14 R223, 16 R233). -/
def State.engPut (s : State) (l : Launch) (p va : Nat) (c : Cell) (fe : Option (BitVec 2)) (a : EngAcc) : EngOut :=
  let u := UnitRef.port p
  let put (s0 : State) (pa : Nat) : EngOut :=
    match s0.gate none l.job pa va true fe with
    | .invalid t => .stop (t.engFe u l pa va)
    | .held t => .wait t
    | .damaged t => .wait (t.machineCheck u.abs l.job (BitVec.ofNat 64 va) (sliceTval pa))
    | .pass t =>
      let t1 := t.wholeWrite l.job pa va c.data c.code
      .done (match fe with
        | some f => t1.setFe l.job pa va f
        | none => t1)
  match a with
  | .ok pa => put s pa
  | .disc pa entry big => put (s.revive l.job va entry big) pa
  | .keg => if s.kegFull l.xrec then .wait s else .done (s.kegAppend l.xrec l.job va u.abs c (fe.getD 2))
  | .wait => .wait s
  | .page noMap => .stop (s.pageFault p l va true noMap)
  | .fault cause => .stop (s.elementFault u l cause 0 0 0 (faultInfo va))

/-- Perform a whole-cell write of port p. -/
def State.engWrite (s : State) (l : Launch) (p va : Nat) (c : Cell) (fe : Option (BitVec 2)) : EngOut :=
  let r := s.engAcc l p va true
  r.2.engPut l p va c fe r.1

/-! ### Commit (18 R270, 22 R325) -/

/-- The length of a round of a group (11 R171). -/
def roundLen (k slotLen : Nat) : Nat := 2 * k * slotLen

/-- A boundary at which the launch's window may commit: any cycle without open groups; with them a grid cycle, with no
round under way (22 R325, 11 R182). -/
def State.admissible (s : State) (l : Launch) : Bool :=
  l.groups.all (fun g => !s.groupOpen l g ||
    (((s.fc : Int) - (g.t0 : Int)) % (Nat.max 1 (roundLen g.k l.slotLen) : Int) == 0 &&
      (g.phase != .round || (g.t0 == s.fc && g.sub == 0))))

/-- The cycles between two admissible boundaries. -/
def State.boundaryStep (s : State) (l : Launch) : Nat :=
  match l.groups.find? (fun g => s.groupOpen l g) with
  | some g => Nat.max 1 (roundLen g.k l.slotLen)
  | none => 1

/-- The fault that a held effect would meet if it performed now (22 R325, R328): no effect of its window then performs. -/
def State.heldFault (s : State) (l : Launch) (h : Held) : Option State :=
  let look (p va : Nat) (whole : Bool) : Option State :=
    let r := s.engAcc l p va true
    match r.1 with
    | .ok pa => if badFe (r.2.mem.sideAt pa).fe then some (r.2.engFe (.port p) l pa va) else none
    | .keg => if whole then none else some (r.2.pageFault p l va true false)
    | .page noMap => some (r.2.pageFault p l va true noMap)
    | .fault cause => some (r.2.elementFault (.port p) l cause 0 0 0 (faultInfo va))
    | .disc .. | .wait => none
  match h with
  | .write p va _ _ => look p va true
  | .dec p va => look p va false
  | .area .. => none

/-- A held effect performs: false when it must still wait. The checks have been made as the commit began; a page that has
lost its mapping since is waited for (log 29). -/
def State.performOne (s : State) (l : Launch) (h : Held) : Bool × State :=
  match h with
  | .write p va c fe =>
    let r := s.engWhere l p va true
    match r.1 with
    | .page noMap => (false, r.2.pagerAsk p l.job va noMap)
    | .fault _ => (false, s)
    | a => match r.2.engPut l p va c fe a with
      | .done s1 => (true, s1)
      | .wait s1 => (false, s1)
      | .stop s1 => (true, s1)
  | .dec p va =>
    let r := s.engWhere l p va true
    let go (s0 : State) (pa : Nat) : Bool × State :=
      match s0.gate none l.job pa va true (s0.decrFe pa) with
      | .invalid t => (true, t.engFe (.port p) l pa va)
      | .held t => (false, t)
      | .damaged t => (false, t.machineCheck (UnitRef.port p).abs l.job (BitVec.ofNat 64 va) (sliceTval pa))
      | .pass t => (true, t.decrementAt l.job va pa true 0)
    match r.1 with
    | .ok pa => go r.2 pa
    | .disc pa entry big => go (r.2.revive l.job va entry big) pa
    | .keg => (false, r.2.pagerAsk p l.job va false)
    | .page noMap => (false, r.2.pagerAsk p l.job va noMap)
    | .wait => (false, r.2)
    | .fault _ => (false, s)
  | .area t off ds => (true, s.putCells t (((List.range ds.length).zip ds).map (fun q => (off + 32 * q.1, q.2, gen q.2))) (some 2))

/-- The held effects of a window perform in order, as far as they can; the rest stays held, for instance for want of keg room
(14 R224, 18 R270). -/
def State.performHeld (s : State) (l : Launch) : List Held → List Held × State
  | [] => ([], s)
  | h :: t => match s.performOne l h with
    | (true, s1) => s1.performHeld l t
    | (false, s1) => (h :: t, s1)

/-- The engine commands of a region that ended in the window leave their queues. -/
def State.retireCommands (s : State) (l : Launch) : State :=
  { s with ports := s.ports.map (fun x =>
      if l.holds (x.1 / 3) then (x.1, { x.2 with cmds := x.2.cmds.filter (fun c => !c.ended) }) else x) }

/-- A commit goes on: when every effect has performed, the commands that ended leave and the next window opens, if the launch
still runs. -/
def State.commitOn (s : State) (x : Launch) (w : Window) : Bool × State :=
  let r := s.performHeld x w.held
  if r.1.isEmpty then
    (true, ((r.2.retireCommands x).modLaunch x.id (fun y => { y with window := none })).openWindow x.id)
  else (false, r.2.modLaunch x.id (fun y => { y with window := some { w with held := r.1, committing := true } }))

/-- The open window of a launch commits, if it may, and the next one opens with its records taken (22 R325); whether it has. A
fault that one of its effects would meet keeps all of them back. -/
def State.commitWindow (s : State) (l : Nat) : Bool × State :=
  match s.launch? l with
  | none => (false, s)
  | some x =>
    match x.window with
    | none => (false, s)
    | some w =>
      if w.committing then s.commitOn x w
      else if w.voided || w.fault.isSome || x.halted || x.cancelled || !s.admissible x then (false, s)
      else match w.held.findSome? (s.heldFault x) with
        | some s1 => (false, s1)
        | none => s.commitOn x w

/-- A strand command of 22 R326 that is ready takes effect at a window boundary of a launch, as the first act of the next
window; without a launch, in a direct one, or before a window has opened, at once. -/
def State.atBoundaryOf (s : State) (o : Option Launch) (i : Instr) (act : State → State) : State :=
  match o with
  | none => act s
  | some l =>
    match l.window with
    | none => act s
    | some _ =>
      match s.commitWindow l.id with
      | (true, s1) => if s1.refusesCommand then s1 else (act s1).openWindow l.id
      | (false, s1) => (s1.closeWindow l.id).waitFor i

/-- As `atBoundaryOf`, for the launch of the issuing strand. -/
def State.atBoundary (s : State) (i : Instr) (act : State → State) : State :=
  s.atBoundaryOf (s.launchOf s.issue.k) i act

end Sys2Proof.Machine
end

