-- ==== Sys2Proof/Machine/Flags.lean ====
section
/-! DEFINITION. Conditions. The sequencer has no condition flags (06): a comparison decides a branch directly. An
element's predicates are its flags: a trigger's test of them, and what a firing's actions write (07 R108, R113). -/

namespace Sys2Proof.Machine

/-- BEQ's test (06 R95). -/
def testEq (a b : Word64) : Bool := a == b
/-- BLT's test: S(a) < S(b). -/
def testLt (a b : Word64) : Bool := decide (a.toInt < b.toInt)
/-- BLTU's test: U(a) < U(b). -/
def testLtu (a b : Word64) : Bool := decide (a.toNat < b.toNat)

/-- The predicate mask of a trigger entry (04 R65). -/
def trigMask (t : Word64) : BitVec 16 := t.extractLsb' 48 16
/-- The predicate value of a trigger entry. -/
def trigValue (t : Word64) : BitVec 16 := t.extractLsb' 32 16
/-- Channel A of a trigger entry. -/
def trigChanA (t : Word64) : Nat := (t.extractLsb' 29 3).toNat
/-- Condition A of a trigger entry. -/
def trigCondA (t : Word64) : BitVec 2 := t.extractLsb' 27 2
/-- Channel B of a trigger entry. -/
def trigChanB (t : Word64) : Nat := (t.extractLsb' 24 3).toNat
/-- Condition B of a trigger entry. -/
def trigCondB (t : Word64) : BitVec 2 := t.extractLsb' 22 2
/-- The output channel of a trigger entry. -/
def trigOut (t : Word64) : Nat := (t.extractLsb' 19 3).toNat
/-- Output room is required. -/
def trigRoom (t : Word64) : Bool := t.getLsbD 18
/-- q7–q0 set on fire. -/
def trigSet (t : Word64) : BitVec 8 := t.extractLsb' 8 8
/-- q7–q0 cleared on fire. -/
def trigClear (t : Word64) : BitVec 8 := t.extractLsb' 0 8

/-- The predicate test of a trigger entry on the predicates of a bank (07 R109). -/
def predHolds (t : Word64) (q : BitVec 16) : Bool := q &&& trigMask t == trigValue t

/-- q7–q0 after a firing's trigger actions: (q and not clear) or set (07 R113). -/
def applyActions (t : Word64) (q : BitVec 16) : BitVec 16 :=
  (q &&& ~~~((trigClear t).zeroExtend 16)) ||| (trigSet t).zeroExtend 16

/-- The predicates with bit n written. -/
def setPred (q : BitVec 16) (n : Nat) (b : Bool) : BitVec 16 :=
  if b then q ||| BitVec.ofNat 16 (2 ^ n) else q &&& ~~~(BitVec.ofNat 16 (2 ^ n))

end Sys2Proof.Machine
end

