-- ==== Sys2Proof/Machine/Operands.lean ====
section
/-! DEFINITION. The operands of an element firing: lanes, sources with their checks and tags, destinations, pointers, and
the one way a firing takes effect or faults (03 R43; 07 R107, R113; 08 R120–R123, R138). -/

namespace Sys2Proof.Machine

/-! ### Lanes -/

/-- Lane i of width w. -/
def lane (w i d : Nat) : Nat := (d >>> (w * i)) % 2 ^ w

/-- Lanes of width w packed, the first lowest. -/
def packLanes (w : Nat) : List Nat → Nat
  | [] => 0
  | x :: t => x % 2 ^ w + 2 ^ w * packLanes w t

/-- The lanes of a register at width w. -/
def lineLanes (w : Nat) (d : Line) : List Nat := (List.range (512 / w)).map (fun i => lane w i d.toNat)

/-- A register of given low lanes; the remaining bits are zero (08 R121). -/
def ofLanes (w : Nat) (l : List Nat) : Line := BitVec.ofNat 512 (packLanes w l)

/-- The format of a row's format code (05 R81). -/
def rowTag (f : BitVec 3) : Nat :=
  match f.toNat with
  | 0 => 1
  | 1 => 2
  | 2 => 3
  | 3 => 4
  | 4 => 8
  | 5 => 10
  | 6 => 11
  | _ => 12

/-- The spread of kc over the lanes of the format an operation reads; 0 is raw (08 R120). -/
def kcSpread (t : Nat) (kc : BitVec 32) : Line :=
  let c := kc.toNat
  match t with
  | 0 => ofLanes 32 (List.replicate 16 c)
  | 1 => ofLanes 64 (List.replicate 8 (FloatFmt.f64.ne (FloatFmt.f32.value c)))
  | 12 => ofLanes 64 (List.replicate 8 (kc.signExtend 64).toNat)
  | _ => ofLanes (tagWidth t) (List.replicate (512 / tagWidth t) c)

/-! ### Sources (08 R120) -/

/-- A source as read: its data and tag, the fault of a channel code that failed its check, and the cause and INFO of a local-memory
fault, which is found only after the firing has issued (08 R138). -/
structure Src where
  data : Line
  tag  : Nat
  bad  : Option Nat
  late : Option (Nat × Nat)
deriving DecidableEq, Repr

/-- Check the two cells of 64 bytes as an element's input stage does, counting at its cluster; the cause of the fault when
one fails (07 R107; 16 R244, R245). -/
def State.checkLine (s : State) (e addr : Nat) (d : Line) (c0 c1 : BitVec 28) : Except Nat Line × State :=
  let job := ((s.ownerOf (e / 12)).map (·.job)).getD 0
  let k0 := check (d.extractLsb' 0 256) c0
  let k1 := check (d.extractLsb' 256 256) c1
  let s2 := (s.countCheck (.element e) job (BitVec.ofNat 64 addr) k0).countCheck (.element e) job
    (BitVec.ofNat 64 (addr + 32)) k1
  match k0.data?, k1.data? with
  | some a, some b => (.ok (b ++ a), s2)
  | none, _ => (.error k0.cause, s2)
  | some _, none => (.error k1.cause, s2)

/-- ADDR of a local-memory pointer (08 R123). -/
def lpAddr (p : BitVec 32) : Nat := bits p.toNat 0 16
/-- STRIDE of a local-memory pointer. -/
def lpStride (p : BitVec 32) : BitVec 16 := p.extractLsb' 16 16
/-- The pointer after an increment, modulo 65,536. -/
def lpBump (p : BitVec 32) (inc : BitVec 16) : BitVec 32 := lpStride p ++ (BitVec.ofNat 16 (lpAddr p) + inc)
/-- An access of 64 bytes at a local address is legal (08 R123). -/
def localOk (a : Nat) : Bool := a % 32 == 0 && a + 64 ≤ 49152

/-- Pointer n of bank b. -/
def Element.ptr (x : Element) (b : BitVec 2) (n : Nat) : BitVec 32 := vget x.lp (4 * b.toNat + n) 0

/-- 64 bytes of local memory at an address, checked; an illegal address or an uncorrectable cell is a late fault. -/
def State.readLocal (s : State) (e a : Nat) (x : Element) : Src × State :=
  if !localOk a then ({ data := 0, tag := 0, bad := none, late := some (0x04, a) }, s)
  else
    let c0 := x.lmem.cell a
    let c1 := x.lmem.cell (a + 32)
    match s.checkLine e a (c1.data ++ c0.data) c0.code c1.code with
    | (.ok d, s1) => ({ data := d, tag := 0, bad := none, late := none }, s1)
    | (.error n, s1) => ({ data := 0, tag := 0, bad := none, late := some (n, 0) }, s1)

/-- CRC-8 with x^8 + x^2 + x + 1 over n bits of d, most significant first (11 R175). -/
def crc8 (d : Nat) : Nat → Nat → Nat
  | 0, r => r
  | n + 1, r =>
    let t := (r <<< 1) ^^^ (if d.testBit n != r.testBit 7 then 7 else 0)
    crc8 d n (t % 256)

/-- The CRC of an event packet: over bits 127:8. -/
def packetCrc (p : BitVec 128) : BitVec 8 := BitVec.ofNat 8 (crc8 (p.toNat / 256) 120 0)

/-- The packet's CRC is its own. -/
def packetOk (p : BitVec 128) : Bool := packetCrc p == p.extractLsb' 0 8

/-- Read a source select; `pres` is the format an untagged source presents, 0 for raw. An event token is protected by its
CRC in place of codes (11 R175, R176). -/
def State.source (s : State) (sel : Sel) (pres : Nat) : Src × State :=
  let x := s.firing.before
  let b := s.firing.bank
  if sel.isV then
    let r := vget x.v (8 * b.toNat + sel.toNat) { data := 0, tag := 0 }
    ({ data := r.data, tag := r.tag.toNat, bad := none, late := none }, s)
  else if sel.isIn then
    match (x.inp (sel.toNat - 8)).buf with
    | [] => ({ data := 0, tag := 0, bad := none, late := none }, s)
    | t :: _ =>
      if t.tag = 13 then
        ({ data := t.data, tag := 13, bad := if packetOk (t.data.extractLsb' 0 128) then none else some 0x0C, late := none }, s)
      else
        match s.checkLine s.firing.e 0 t.data t.code0 t.code1 with
        | (.ok d, s1) => ({ data := d, tag := t.tag.toNat, bad := none, late := none }, s1)
        | (.error n, s1) => ({ data := 0, tag := t.tag.toNat, bad := some n, late := none }, s1)
  else if sel.isLp then
    let r := s.readLocal s.firing.e (lpAddr (x.ptr b (sel.toNat - 24))) x
    ({ r.1 with tag := pres }, r.2)
  else if sel.isKc then
    ({ data := kcSpread pres (vget x.kc b.toNat 0), tag := pres, bad := none, late := none }, s)
  else ({ data := 0, tag := pres, bad := none, late := none }, s)

/-- Whether a source's code check or tag faults, given the tags the operation reads (03 R43, 07 R107). -/
def Src.fault (a : Src) (ok : Bool) : Option Nat :=
  if a.bad.isSome then a.bad else if a.tag = 15 then some 0x02 else if ok then none else some 0x01

/-- A data-movement source: any tag from 0 to 12. -/
def Src.plain (a : Src) : Option Nat := a.fault (decide (a.tag ≤ 12))
/-- A source read in format t. -/
def Src.inFmt (a : Src) (t : Nat) : Option Nat := a.fault (a.tag == t)

/-! ### Effects -/

/-- What a firing does beyond its trigger's actions and dequeues: the result and its tag, whether that result is an end
marker, a predicate write, a change of the array, and the pointer that LDL or STL addresses. -/
structure Effect where
  out    : Option (Line × Nat)
  marker : Bool
  pred   : Option (Nat × Bool)
  arr    : Option Arr
  addr   : Option Sel

/-- A result of a tag. -/
def Effect.write (d : Line) (t : Nat) : Effect := { out := some (d, t), marker := false, pred := none, arr := none, addr := none }
/-- A predicate write. -/
def Effect.setQ (n : Nat) (v : Bool) : Effect := { out := none, marker := false, pred := some (n, v), arr := none, addr := none }
/-- A change of the array. -/
def Effect.array (a : Arr) : Effect := { out := none, marker := false, pred := none, arr := some a, addr := none }
/-- Nothing. -/
def Effect.none : Effect := { out := Option.none, marker := false, pred := Option.none, arr := Option.none, addr := Option.none }

/-- The trigger entry of a slot of an element. -/
def Element.trigger (x : Element) (n : Nat) : Word64 :=
  match x.plane with
  | some p => p.trigs.getD n 0
  | none => 0

/-- The version of an element's active plane. -/
def Element.ver (x : Element) : BitVec 4 := (x.plane.map (·.ver)).getD 0

/-- The pointers a firing names: each once (08 R122). -/
def slotPointers (x : Slot) (usesB : Bool) : List Nat :=
  (((if x.srcA.isLp then [x.srcA.toNat - 24] else []) ++ (if usesB && x.srcB.isLp then [x.srcB.toNat - 24] else []) ++
    (if x.dst.isLp then [x.dst.toNat - 24] else []))).eraseDups

/-- The channels a firing dequeues: each once (08 R122). -/
def slotDequeues (x : Slot) : List Nat :=
  ((if x.deqA && x.srcA.isIn then [x.srcA.toNat - 8] else []) ++
    (if x.deqB && x.srcB.isIn then [x.srcB.toNat - 8] else [])).eraseDups

/-- The fault a firing meets at its destination or address pointer after issue (08 R123, R138). -/
def State.lateAddr (s : State) (x : Slot) (eff : Effect) : Option (Nat × Nat) :=
  let b := s.firing.bank
  let stride := match eff.addr with
    | some p =>
      let v := s.firing.before.ptr b (p.toNat - 24)
      if (lpStride v).toNat % 32 == 0 then none else some (0x04, lpAddr v)
    | none => none
  match stride with
  | some f => some f
  | none =>
    if x.dst.isLp then
      let a := lpAddr (s.firing.before.ptr b (x.dst.toNat - 24))
      if localOk a then none else some (0x04, a)
    else none

/-- The 64-byte blocks that a write of 64 bytes at a meets. -/
def blocksOf (a : Nat) : List Nat := if a % 64 = 0 then [a / 64] else [a / 64, a / 64 + 1]

/-- Note that blocks of local memory are written in the launch's window: none when the undo log is full (22 R325, R327). -/
def State.noteLocal (s : State) (l : Launch) (e : Nat) (bs : List Nat) : Option State :=
  match l.window with
  | none => some s
  | some w =>
    let u := tabGet [] w.lmUndo e
    let new := bs.filter (fun b => !u.contains b)
    if new.isEmpty then some s
    else if 512 < u.length + new.length then none
    else some (s.modLaunch l.id (fun y => { y with window := y.window.map (fun v =>
      { v with lmUndo := tabPut e (u ++ new) v.lmUndo }) }))

/-- Output channel ch of element e has a free entry (07 R106, R114). A fork that mixes delay lines with other destinations goes through
the output buffer and leaves it for all of them together (log 97). -/
def State.outRoom (s : State) (l : Launch) (e ch : Nat) : Bool :=
  let f := l.outFork e ch
  if f.isEmpty then true
  else if f.all (fun r => routeMode r == 1) then s.forkRoom l f
  else ((s.element e).out ch).length < 2

/-- Enqueue a token to output channel ch: an unrouted channel discards it, a delay line takes it at once (07 R106, R114). -/
def State.outPush (s : State) (l : Launch) (e ch : Nat) (t : Token) : State :=
  let f := l.outFork e ch
  if f.isEmpty then s
  else if f.all (fun r => routeMode r == 1) then s.forkPush l f t
  else let x := s.element e; s.setElement e (x.setOut ch (x.out ch ++ [t]))

/-- A token as an output stage makes it (07 R107). -/
def makeToken (d : Line) (tag : Nat) (bank : BitVec 2) (ver : BitVec 4) : Token :=
  { data := d, code0 := gen (d.extractLsb' 0 256), code1 := gen (d.extractLsb' 256 256), tag := BitVec.ofNat 4 tag,
    bank := bank, fin := false, ver := ver, sw := false }

/-- Write a result to the destination select (08 R121). -/
def State.writeDst (s : State) (l : Launch) (x : Slot) (eff : Effect) : State :=
  match eff.out with
  | none => s
  | some (d, t) =>
    let e := s.firing.e
    let b := s.firing.bank
    let y := s.element e
    if x.dst.isV then
      s.setElement e { y with v := vset y.v (8 * b.toNat + x.dst.toNat) { data := d, tag := BitVec.ofNat 4 t } }
    else if x.dst.isOut then
      s.outPush l e (x.dst.toNat - 16)
        (if eff.marker then markerToken (BitVec.ofNat 4 t) b y.ver else makeToken d t b y.ver)
    else if x.dst.isLp then
      let a := lpAddr (s.firing.before.ptr b (x.dst.toNat - 24))
      let m := y.lmem.setCell a (freshCell (d.extractLsb' 0 256) 2)
      s.setElement e { y with lmem := m.setCell (a + 32) (freshCell (d.extractLsb' 256 256) 2) }
    else s

/-- The element after predicate writes, trigger actions, pointer increments and dequeues (07 R113, 08 R122). Where both winners of
a cycle name one pointer with increment, each of the two firings advances it (log 96). -/
def Element.finish (y : Element) (b : BitVec 2) (x : Slot) (usesB : Bool) (eff : Effect) : Element :=
  let q := vget y.q b.toNat 0
  let q1 := match eff.pred with
    | some (n, v) => setPred q n v
    | none => q
  let y1 := { y with q := vset y.q b.toNat (applyActions (y.trigger x.trig.toNat) q1), arr := eff.arr.getD y.arr }
  let y2 := (slotPointers x usesB).foldl (fun z n =>
    let k := 4 * b.toNat + n
    let p := vget z.lp k 0
    let inc := if eff.addr.any (fun a => a.toNat == 24 + n) then lpStride p else 64
    { z with lp := vset z.lp k (lpBump p inc) }) y1
  (slotDequeues x).foldl (fun z n => z.setInp n { z.inp n with buf := (z.inp n).buf.drop 1 }) y2

/-- A firing whose checks passed takes effect (07 R113). -/
def State.effect (s : State) (l : Launch) (x : Slot) (usesB : Bool) (eff : Effect) : State :=
  let s1 := s.writeDst l x eff
  let e := s.firing.e
  s1.setElement e ((s1.element e).finish s.firing.bank x usesB eff)

/-- The INFO-bearing fault word of a firing. -/
def State.firingWord (s : State) (l : Launch) (cause ecode info : Nat) : Word64 :=
  faultWord (l.relId (.element s.firing.e)) cause s.firing.slot ecode s.firing.bank.toNat info

/-- A fault of a firing before it has any effect: the element fault (07 R113). -/
def State.earlyFault (s : State) (l : Launch) (cause ecode : Nat) : State :=
  s.elementFault (.element s.firing.e) l cause s.firing.slot ecode s.firing.bank.toNat 0

/-- A fault found after the firing has issued: nothing of it takes effect, and the element takes the fault when it is
detected (08 R138). -/
def State.lateFault (s : State) (l : Launch) (cause info : Nat) : State :=
  let y := s.element s.firing.e
  s.setElement s.firing.e { y with late := some { word := s.firingWord l cause 0 info } }

/-- The first fault of a list. -/
def firstSome {α : Type} : List (Option α) → Option α
  | [] => none
  | some x :: _ => some x
  | none :: t => firstSome t

/-- The fault of a firing, from those of its sources and of what it needs, in order: the check of any source comes before a tag
mismatch (07 R113: codes, then tags; log 28). -/
def pickFault (fs : List (Option Nat)) : Option Nat :=
  match firstSome fs with
  | some 0x01 => firstSome (fs.filter (fun f => f == some 0x02 || f == some 0x03 || f == some 0x0C) ++ [some 0x01])
  | r => r

/-- The local-memory blocks a firing writes. -/
def State.writesBlocks (s : State) (x : Slot) (eff : Effect) : List Nat :=
  if x.dst.isLp && eff.out.isSome then blocksOf (lpAddr (s.firing.before.ptr s.firing.bank (x.dst.toNat - 24))) else []

/-- A firing ends: an early fault, a late fault, a hold for want of an undo entry, or its effect (07 R113). -/
def State.conclude (s : State) (x : Slot) (usesB : Bool) (faults : List (Option Nat)) (lates : List (Option (Nat × Nat)))
    (eff : Effect) : State :=
  match s.ownerOf (s.firing.e / 12) with
  | none => s
  | some l =>
    match pickFault faults with
    | some c => s.earlyFault l c 0
    | none =>
      match firstSome (lates ++ [s.lateAddr x eff]) with
      | some (c, info) => s.lateFault l c info
      | none =>
        match s.noteLocal l s.firing.e (s.writesBlocks x eff) with
        | none => s.closeWindow l.id
        | some s1 => s1.effect l x usesB eff

/-- The state checks of a matrix firing: they are made once its sources are read and checked (20 R283, R291), so a source
that is bad comes first. -/
def stateChecks (faults : List (Option Nat)) (lates : List (Option (Nat × Nat))) (checks : List (Option Nat)) :
    List (Option Nat) :=
  if (firstSome faults).isNone && (firstSome lates).isSome then faults else faults ++ checks

/-! ### Shapes of instructions -/

/-- One source read in format pres, accepted by ok; f gives the effect. -/
def State.one (s : State) (x : Slot) (pres : Nat) (ok : Src → Option Nat) (f : Src → Effect) : State :=
  let a := s.source x.srcA pres
  a.2.conclude x false [ok a.1] [a.1.late] (f a.1)

/-- Two sources; the second's format and acceptance may depend on the first. -/
def State.two (s : State) (x : Slot) (pres : Nat) (presB : Src → Nat) (ok : Src → Option Nat)
    (okB : Src → Src → Option Nat) (f : Src → Src → Effect) : State :=
  let a := s.source x.srcA pres
  let b := a.2.source x.srcB (presB a.1)
  b.2.conclude x true [ok a.1, okB a.1 b.1] [a.1.late, b.1.late] (f a.1 b.1)

/-- Two sources and the destination register, all read in one format. -/
def State.three (s : State) (x : Slot) (t : Nat) (f : Src → Src → Src → Effect) : State :=
  let a := s.source x.srcA t
  let b := a.2.source x.srcB t
  let d := b.2.source x.dst t
  d.2.conclude x true [a.1.inFmt t, b.1.inFmt t, d.1.inFmt t] [a.1.late, b.1.late] (f a.1 b.1 d.1)

end Sys2Proof.Machine
end

