-- ==== Sys2Proof/Machine/Vector.lean ====
section
/-! DEFINITION. Vector arithmetic, shifts, division, roots, elementary functions and reductions (08 R127–R133). -/

namespace Sys2Proof.Machine

/-! ### Lane operations -/

/-- Lane by lane over two registers of lane width w. -/
def zipLanes (w : Nat) (f : Nat → Nat → Nat) (a b : Line) : Line :=
  ofLanes w (List.zipWith f (lineLanes w a) (lineLanes w b))
/-- Lane by lane over one register. -/
def mapLanes (w : Nat) (f : Nat → Nat) (a : Line) : Line := ofLanes w ((lineLanes w a).map f)

/-- An integer result in a lane of tag t: saturated, or modulo 2^w (08 R129). -/
def intResult (t : Nat) (sat : Bool) (i : Int) : Nat :=
  let w := tagWidth t
  narrow w (if sat then satInt i (-(2 ^ (w - 1) : Nat)) ((2 ^ (w - 1) : Nat) - 1) else i)

/-- An operation of two lanes of tag t: exact and rounded once in a float format, wrapped or saturated in an integer one
(08 R128, R129). -/
def laneOp (t : Nat) (sat : Bool) (f : Val → Val → Val) (g : Int → Int → Int) (a b : Nat) : Nat :=
  match tagFloat t with
  | some F => F.ne (f (F.value a) (F.value b))
  | none => intResult t sat (g (intLane t a) (intLane t b))

/-- A two-source row (08 R127). -/
def State.row2 (s : State) (f : BitVec 3) (x : Slot) (op : Val → Val → Val) (iop : Int → Int → Int) : State :=
  let t := rowTag f
  s.two x t (fun _ => t) (·.inFmt t) (fun _ b => b.inFmt t)
    (fun a b => .write (zipLanes (tagWidth t) (laneOp t x.bit0 op iop) a.data b.data) t)

/-- A one-source row. -/
def State.row1 (s : State) (f : BitVec 3) (x : Slot) (op : Val → Val) (iop : Int → Int) : State :=
  let t := rowTag f
  s.one x t (·.inFmt t)
    (fun a => .write (mapLanes (tagWidth t) (fun c => laneOp t x.bit0 (fun u _ => op u) (fun i _ => iop i) c c) a.data) t)

/-- A bitwise row (08 R129). -/
def State.rowBits (s : State) (f : BitVec 3) (x : Slot) (op : Line → Line → Line) : State :=
  let t := rowTag f
  s.two x t (fun _ => t) (·.inFmt t) (fun _ b => b.inFmt t) (fun a b => .write (op a.data b.data) t)

/-- VADD (08 R128, R129). -/
def execVadd (f : BitVec 3) (x : Slot) (s : State) : Out := .next (s.row2 f x Val.add (· + ·))
/-- VSUB. -/
def execVsub (f : BitVec 3) (x : Slot) (s : State) : Out := .next (s.row2 f x (fun a b => a.add b.neg) (· - ·))
/-- VMUL. -/
def execVmul (f : BitVec 3) (x : Slot) (s : State) : Out := .next (s.row2 f x Val.mul (· * ·))
/-- VMIN. -/
def execVmin (f : BitVec 3) (x : Slot) (s : State) : Out :=
  .next (s.row2 f x Val.min (fun a b => if b < a then b else a))
/-- VMAX. -/
def execVmax (f : BitVec 3) (x : Slot) (s : State) : Out :=
  .next (s.row2 f x Val.max (fun a b => if a < b then b else a))
/-- VABS. -/
def execVabs (f : BitVec 3) (x : Slot) (s : State) : Out := .next (s.row1 f x Val.abs (fun i => (i.natAbs : Int)))
/-- VNEG. -/
def execVneg (f : BitVec 3) (x : Slot) (s : State) : Out := .next (s.row1 f x Val.neg (fun i => -i))
/-- VAND. -/
def execVand (f : BitVec 3) (x : Slot) (s : State) : Out := .next (s.rowBits f x (· &&& ·))
/-- VOR. -/
def execVor (f : BitVec 3) (x : Slot) (s : State) : Out := .next (s.rowBits f x (· ||| ·))
/-- VXOR. -/
def execVxor (f : BitVec 3) (x : Slot) (s : State) : Out := .next (s.rowBits f x (· ^^^ ·))

/-- Lane by lane over three registers. -/
def zipLanes3 (w : Nat) (f : Nat → Nat → Nat → Nat) (a b d : Line) : Line :=
  ofLanes w (List.zipWith (fun p c => f p.1 p.2 c) ((lineLanes w a).zip (lineLanes w b)) (lineLanes w d))

/-- A fused row: the sum of d and ±a·b, rounded once; the destination is the third source (08 R128). -/
def State.fused (s : State) (f : BitVec 3) (x : Slot) (minus : Bool) : State :=
  let t := rowTag f
  let F := (tagFloat t).getD .f32
  s.three x t (fun a b d => .write (zipLanes3 (tagWidth t) (fun u v c =>
    let p := (F.value u).mul (F.value v)
    F.ne ((F.value c).add (if minus then p.neg else p))) a.data b.data d.data) t)

/-- FMA (08 R128). -/
def execFma (f : BitVec 3) (x : Slot) (s : State) : Out := .next (s.fused f x false)
/-- FMS. -/
def execFms (f : BitVec 3) (x : Slot) (s : State) : Out := .next (s.fused f x true)

/-! ### Reductions (03 R50, 08 R133) -/

/-- One level of the balanced tree. -/
def pairUp (op : Nat → Nat → Nat) : List Nat → List Nat
  | a :: b :: t => op a b :: pairUp op t
  | l => l

/-- n levels of the balanced tree. -/
def treeUp (op : Nat → Nat → Nat) : Nat → List Nat → List Nat
  | 0, l => l
  | n + 1, l => treeUp op n (pairUp op l)

/-- The reduction of the lanes of a by the tree of 03 R50. -/
def treeLanes (w : Nat) (op : Nat → Nat → Nat) (a : Line) : Nat := (treeUp op 6 (lineLanes w a)).headD 0

/-- The reduction of the lanes of a by the tree of 03 R50, then with lane 0 of b. -/
def reduceLanes (w : Nat) (op : Nat → Nat → Nat) (a b : Line) : Nat := op (treeLanes w op a) (lane w 0 b.toNat)

/-- A reduction row: the value in every lane. With `zero` as b the reduction is of a alone; RADD adds that zero all the
same (`adds`), which shows only for lanes that are all −0 (08 R133). -/
def State.reduce (s : State) (f : BitVec 3) (x : Slot) (op : Val → Val → Val) (iop : Int → Int → Int)
    (sat adds : Bool) : State :=
  let t := rowTag f
  let w := tagWidth t
  let g := laneOp t sat op iop
  s.two x t (fun _ => t) (·.inFmt t) (fun _ b => b.inFmt t)
    (fun a b => .write (ofLanes w (List.replicate (512 / w)
      (if x.srcB.isZero && !adds then treeLanes w g a.data else reduceLanes w g a.data b.data))) t)

/-- RADD (08 R133). -/
def execRadd (f : BitVec 3) (x : Slot) (s : State) : Out := .next (s.reduce f x Val.add (· + ·) false true)
/-- RMAX. -/
def execRmax (f : BitVec 3) (x : Slot) (s : State) : Out :=
  .next (s.reduce f x Val.max (fun a b => if a < b then b else a) false false)
/-- RMIN. -/
def execRmin (f : BitVec 3) (x : Slot) (s : State) : Out :=
  .next (s.reduce f x Val.min (fun a b => if b < a then b else a) false false)
/-- RMAXABS: magnitudes at every node, never negative. -/
def execRmaxabs (f : BitVec 3) (x : Slot) (s : State) : Out :=
  .next (s.reduce f x (fun a b => a.abs.max b.abs)
    (fun a b => if a.natAbs < b.natAbs then (b.natAbs : Int) else (a.natAbs : Int)) true false)

/-! ### Shifts (08 R130) -/

/-- A shift: the format is the tag of a, an integer format. -/
def State.shift (s : State) (x : Slot) (op : Nat → Int → Nat → Int) : State :=
  s.two x 0 (·.tag) (fun a => a.fault (tagIsInt a.tag)) (fun a b => b.fault (b.tag == a.tag))
    (fun a b =>
      let w := tagWidth a.tag
      .write (zipLanes w (fun u c => narrow w (op w (intLane a.tag u) c)) a.data b.data) a.tag)

/-- VSHL. -/
def execVshl (x : Slot) (s : State) : Out := .next (s.shift x (fun w i c => if c < w then i * (2 ^ c : Nat) else 0))
/-- VSHR: on the lane's unsigned value. -/
def execVshr (x : Slot) (s : State) : Out :=
  .next (s.shift x (fun w i c => if c < w then ((narrow w i / 2 ^ c : Nat) : Int) else 0))
/-- VSAR: the floor of the lane's value. -/
def execVsar (x : Slot) (s : State) : Out :=
  .next (s.shift x (fun w i c => if c < w then i / (2 ^ c : Nat) else if 0 ≤ i then 0 else -1))

/-! ### SCALEX, division, roots, functions (08 R131, R132) -/

/-- SCALEX: the product with a power of two, rounded once. A power beyond ±5000 rounds as ±5000 does in every format. -/
def execScalex (f : BitVec 2) (x : Slot) (s : State) : Out :=
  let t := f.toNat + 1
  let w := tagWidth t
  let F := (tagFloat t).getD .f32
  .next (s.two x t (fun _ => 11) (·.inFmt t) (fun _ b => b.fault (tagIsInt b.tag))
    (fun a b =>
      let es := lineLanes (tagWidth b.tag) b.data
      .write (ofLanes w ((List.range (512 / w)).map (fun i =>
        F.ne ((F.value (lane w i a.data.toNat)).scale (satInt (intLane b.tag (es.getD (i % es.length) 0)) (-5000) 5000))))) t))

/-- The binary format of an .F32 or .F64 form. -/
def sizeFmt (dbl : Bool) : FloatFmt := if dbl then .f64 else .f32
/-- Its tag. -/
def sizeTag (dbl : Bool) : Nat := if dbl then 1 else 2

/-- FDIV. -/
def execFdiv (dbl : Bool) (x : Slot) (s : State) : Out :=
  let t := sizeTag dbl
  let F := sizeFmt dbl
  .next (s.two x t (fun _ => t) (·.inFmt t) (fun _ b => b.inFmt t)
    (fun a b => .write (zipLanes (tagWidth t) (fun u v => F.ne ((F.value u).div (F.value v))) a.data b.data) t))

/-- A function of one float source, rounded once. -/
def State.func1 (s : State) (dbl : Bool) (x : Slot) (f : Val → Val) : State :=
  let t := sizeTag dbl
  let F := sizeFmt dbl
  s.one x t (·.inFmt t) (fun a => .write (mapLanes (tagWidth t) (fun u => F.ne (f (F.value u))) a.data) t)

/-- FSQRT. -/
def execFsqrt (dbl : Bool) (x : Slot) (s : State) : Out := .next (s.func1 dbl x Val.sqrt)
/-- RCP (03 R47). -/
def execRcp (x : Slot) (s : State) : Out := .next (s.func1 false x (fun v => (Val.num false 1 1).div v))
/-- RSQ. -/
def execRsq (x : Slot) (s : State) : Out := .next (s.func1 false x Val.rsqrt)
/-- EXP2. -/
def execExp2 (x : Slot) (s : State) : Out := .next (s.func1 false x Val.exp2)
/-- LOG2. -/
def execLog2 (x : Slot) (s : State) : Out := .next (s.func1 false x Val.log2)
/-- SINPI. -/
def execSinpi (x : Slot) (s : State) : Out := .next (s.func1 false x Val.sinPi)
/-- COSPI. -/
def execCospi (x : Slot) (s : State) : Out := .next (s.func1 false x Val.cosPi)
/-- TANH. -/
def execTanh (x : Slot) (s : State) : Out := .next (s.func1 false x Val.tanh)

end Sys2Proof.Machine
end

