-- ==== Sys2Proof/Machine/Convert.lean ====
section
/-! DEFINITION. Conversions, data movement, predicates, local memory and control operations (08 R124–R126, R134–R136). -/

namespace Sys2Proof.Machine

/-! ### CVT and QNT (08 R134, R135) -/

/-- Convert the lanes of a register from tag `src` to the destination code: low lanes, the rest zero (08 R134). -/
def convertLine (src code : Nat) (m : Rnd) (sat : Bool) (d : Line) : Line :=
  let wa := tagWidth src
  let wd := if code = 0 then 8 else tagWidth code
  ofLanes wd ((lineLanes wa d).take (512 / wd) |>.map (fun c =>
    if code = 0 then ueRound m (laneValue src c) else convert src code m sat c))

/-- The tag of a conversion's result: UINT8 for UE8. -/
def codeTag (code : Nat) : Nat := if code = 0 then 9 else code

/-- CVT with its source named: the source's tag is that format or raw. -/
def execCvtNamedSource (src : BitVec 4) (mode : BitVec 2) (x : Slot) (s : State) : Out :=
  let t := src.toNat
  .next (s.one x t (fun a => a.fault (a.tag == t || a.tag == 0))
    (fun a => .write (convertLine t x.code.toNat (Rnd.ofBits mode) x.sat a.data) (codeTag x.code.toNat)))

/-- CVT from the tag of its source. -/
def execCvt (mode : BitVec 2) (x : Slot) (s : State) : Out :=
  .next (s.one x 0 (fun a => a.fault (1 ≤ a.tag && a.tag ≤ 12))
    (fun a => .write (convertLine a.tag x.code.toNat (Rnd.ofBits mode) x.sat a.data) (codeTag x.code.toNat)))

/-- The destination tag of QNT. -/
def qntTag (dst : BitVec 2) : Nat := 5 + dst.toNat

/-- One lane of QNT under scale code k. -/
def qntLane (dst t k c : Nat) : Nat :=
  if k = 255 then (match tagFloat dst with
    | some F => F.nan
    | none => if dst = 7 then 0x80 else 0)
  else roundTo dst .ne true ((laneValue t c).scale (127 - (k : Int)))

/-- QNT: the codes, then the scale byte. -/
def execQnt (dst : BitVec 2) (x : Slot) (s : State) : Out :=
  let dt := qntTag dst
  .next (s.two x 0 (fun _ => 9) (fun a => a.fault (tagIsFloat a.tag)) (fun _ b => b.inFmt 9)
    (fun a b =>
      let k := lane 8 0 b.data.toNat
      .write (ofLanes 8 ((lineLanes (tagWidth a.tag) a.data).map (qntLane dt a.tag k) ++ [k])) dt))

/-! ### Data movement (08 R125) -/

/-- The source select holds an end marker at its head. -/
def State.marksAt (s : State) (sel : Sel) : Bool :=
  sel.isIn && (match (s.firing.before.inp (sel.toNat - 8)).buf with
    | t :: _ => t.fin
    | [] => false)

/-- MOV: an end marker written to an output channel stays a marker (07 R107). -/
def execMov (x : Slot) (s : State) : Out :=
  .next (s.one x 0 Src.plain (fun a => { Effect.write a.data a.tag with marker := s.marksAt x.srcA }))

/-- RETAG. -/
def execRetag (x : Slot) (s : State) : Out := .next (s.one x 0 Src.plain (fun a => .write a.data x.code.toNat))

/-- VBCAST. -/
def execVbcast (x : Slot) (s : State) : Out :=
  .next (s.two x 0 (fun _ => 11) Src.plain (fun _ b => b.fault (tagIsInt b.tag))
    (fun a b =>
      let w := tagWidth a.tag
      let n := 512 / w
      let k := lane (tagWidth b.tag) 0 b.data.toNat % n
      .write (ofLanes w (List.replicate n (lane w k a.data.toNat))) a.tag))

/-- VSHUF. -/
def execVshuf (x : Slot) (s : State) : Out :=
  .next (s.two x 0 (fun _ => 8) Src.plain (fun _ b => b.fault (b.tag == 8 || b.tag == 9))
    (fun a b =>
      let w := tagWidth a.tag
      let n := 512 / w
      .write (ofLanes w ((List.range n).map (fun i => lane w (lane 8 i b.data.toNat % n) a.data.toNat))) a.tag))

/-- VSEL: by q0 or q1 of the firing bank; both sources are checked. -/
def execVsel (x : Slot) (s : State) : Out :=
  let q := vget s.firing.before.q s.firing.bank.toNat 0
  let c := q.getLsbD (if x.bit0 then 1 else 0)
  .next (s.two x 0 (fun _ => 0) Src.plain (fun _ b => b.plain)
    (fun a b => if c then .write a.data a.tag else .write b.data b.tag))

/-! ### Predicates (08 R126) -/

/-- PSET: any bit of a is one. -/
def execPset (x : Slot) (s : State) : Out := .next (s.one x 0 Src.plain (fun a => .setQ x.dst.toNat (a.data != 0)))

/-- Compare two lanes of tag t: the values in a float format, the integers otherwise. -/
def laneTest (t : Nat) (f : Val → Val → Bool) (g : Int → Int → Bool) (a b : Nat) : Bool :=
  match tagFloat t with
  | some F => f (F.value a) (F.value b)
  | none => g (intLane t a) (intLane t b)

/-- A comparison holds in every lane; the format is the tag of a. -/
def State.compare (s : State) (x : Slot) (f : Val → Val → Bool) (g : Int → Int → Bool) : State :=
  s.two x 0 (·.tag) (fun a => a.fault (tagIsFloat a.tag || tagIsInt a.tag)) (fun a b => b.fault (b.tag == a.tag))
    (fun a b =>
      let w := tagWidth a.tag
      .setQ x.dst.toNat (((lineLanes w a.data).zip (lineLanes w b.data)).all (fun p => laneTest a.tag f g p.1 p.2)))

/-- PCMPEQ. -/
def execPcmpeq (x : Slot) (s : State) : Out := .next (s.compare x Val.eq (fun a b => a == b))
/-- PCMPLT. -/
def execPcmplt (x : Slot) (s : State) : Out := .next (s.compare x Val.lt (fun a b => decide (a < b)))
/-- PCMPLE. -/
def execPcmple (x : Slot) (s : State) : Out :=
  .next (s.compare x (fun a b => a.lt b || a.eq b) (fun a b => decide (a ≤ b)))

/-! ### Local memory (08 R124) -/

/-- LDL: 64 bytes at the pointer, tagged; the pointer advances by its STRIDE. -/
def execLdl (x : Slot) (s : State) : Out :=
  .next (s.one x x.code.toNat (fun _ => none)
    (fun a => { Effect.write a.data x.code.toNat with addr := some x.srcA }))

/-- STL: the data of a at the pointer. -/
def execStl (x : Slot) (s : State) : Out :=
  .next (s.one x 0 Src.plain (fun a => { Effect.write a.data a.tag with addr := some x.dst }))

/-! ### Control (08 R136) -/

/-- NOP: nothing beyond the trigger's actions. -/
def execNop (x : Slot) (s : State) : Out := .next (s.conclude x false [] [] Effect.none)

/-- EFAULT: the element fault "software fault" with its code. -/
def execEfault (x : Slot) (s : State) : Out :=
  match s.ownerOf (s.firing.e / 12) with
  | none => .next s
  | some l => .next (s.earlyFault l 0x05 x.dst.toNat)

/-- LATE_FIRING_FAULT: the fault of a firing that had issued is detected (07 R113, 08 R138). -/
def execLateFiringFault (e : Nat) (s : State) : Out :=
  let y := s.element e
  match y.late, s.ownerOf (e / 12) with
  | some f, some l =>
    let s1 := s.setElement e { y with late := none }
    let u := UnitRef.element e
    .next (((s1.trubAdd u.die 1 u.abs l.job (bits f.word.toNat 40 8) f.word).keepFault u f.word).haltLaunch l.id f.word)
  | _, _ => .next s

/-! ### Event instructions (12 R196–R200) -/

/-- The lanes of quarter j that an event names, in increasing order. -/
def eventLanes (ev : Line) (j : Nat) : List Nat := (List.range 16).filter (fun i => ev.getLsbD (64 + 16 * j + i))

/-- The weight index of an event. -/
def eventWidx (ev : Line) : Nat := bits ev.toNat 37 3

/-- EVDEC: the event's weight into the lanes it names. -/
def execEvdec (x : Slot) (s : State) : Out :=
  let a := s.source x.srcA 0
  let b := a.2.source x.srcB 2
  let d := b.2.source x.dst 2
  let w := lane 32 (eventWidx a.1.data) b.1.data.toNat
  let j := lane 32 15 b.1.data.toNat % 4
  let named := eventLanes a.1.data j
  let F := FloatFmt.f32
  let r := ofLanes 32 ((List.range 16).map (fun i =>
    let c := lane 32 i d.1.data.toNat
    if named.contains i then F.ne ((F.value c).add (F.value w)) else c))
  .next (d.2.conclude x true [a.1.inFmt 13, b.1.inFmt 2, d.1.inFmt 2] [a.1.late, b.1.late] (.write r 2))

/-- Add the columns an event names, each times the weight, in increasing lane order (12 R198): the result, and the first
column fault. -/
def State.columns (s : State) (base j w : Nat) : List Nat → List Nat → List Nat × Option (Nat × Nat) × State
  | [], acc => (acc, none, s)
  | i :: t, acc =>
    let r := s.readLocal s.firing.e (base + 64 * (16 * j + i)) s.firing.before
    match r.1.late with
    | some f => (acc, some f, r.2)
    | none =>
      let F := FloatFmt.f32
      r.2.columns base j w t (List.zipWith (fun c m => F.ne ((F.value c).add ((F.value m).mul (F.value w)))) acc
        (lineLanes 32 r.1.data))

/-- EVMAC: for each lane the event names, a column of local memory times the event's weight. -/
def execEvmac (x : Slot) (s : State) : Out :=
  let a := s.source x.srcA 0
  let b := a.2.source x.srcB 2
  let d := b.2.source x.dst 2
  let w := lane 32 (eventWidx a.1.data) b.1.data.toNat
  let j := lane 32 15 b.1.data.toNat % 4
  let faults := [a.1.inFmt 13, b.1.inFmt 2, d.1.inFmt 2]
  let base := (vget s.firing.before.evm s.firing.bank.toNat 0).toNat
  match firstSome faults with
  | some _ => .next (d.2.conclude x true faults [] Effect.none)
  | none =>
    let r := d.2.columns base j w (eventLanes a.1.data j) (lineLanes 32 d.1.data)
    .next (r.2.2.conclude x true faults [a.1.late, b.1.late, r.2.1] (.write (ofLanes 32 r.1) 2))

end Sys2Proof.Machine
end

