-- ==== Sys2Proof/Machine/Matrix.lean ====
section
/-! DEFINITION. The matrix array and its seven instructions (20 R278–R291; 03 R51–R53). -/

namespace Sys2Proof.Machine

/-! ### Block sums (03 R51, R52) -/

/-- The value of a matrix input of format t: ZD8 enters through the 19-bit operand (03 R51). -/
def matValue (t c : Nat) : Val :=
  if t = 7 then FloatFmt.op19.value (FloatFmt.op19.ne (zdValue c)) else laneValue t c

/-- A value is an infinity of a given sign. -/
def Val.isInf (v : Val) (neg : Bool) : Bool := v == .inf neg

/-- The largest floor(log2 |p|) of the nonzero products. -/
def topLog : List Val → Option Int
  | [] => none
  | .num _ n d :: t =>
    if n = 0 then topLog t
    else match topLog t with
      | none => some (floorLog2 n d)
      | some e => some (if e < floorLog2 n d then floorLog2 n d else e)
  | _ :: t => topLog t

/-- The window's sum in units of 2^e, and whether any truncation lost a bit. -/
def windowSum (e : Int) : List Val → Int × Bool
  | [] => (0, false)
  | .num neg n d :: t =>
    let r := windowSum e t
    let q := if 0 ≤ e then n / (d * 2 ^ e.toNat) else n * 2 ^ (-e).toNat / d
    let m := if 0 ≤ e then n % (d * 2 ^ e.toNat) else n * 2 ^ (-e).toNat % d
    (r.1 + signed neg q, r.2 || m != 0)
  | _ :: t => windowSum e t

/-- The block sum of the products of one cell, as an FP32 code (03 R52). -/
def blockSum (ps : List Val) : Nat :=
  let pos := ps.any (fun v => v.isInf false)
  let neg := ps.any (fun v => v.isInf true)
  if ps.contains .nan || (pos && neg) then FloatFmt.f32.nan
  else if pos then FloatFmt.f32.withSign false FloatFmt.f32.infCode
  else if neg then FloatFmt.f32.withSign true FloatFmt.f32.infCode
  else
    match topLog ps with
    | none => 0
    | some p =>
      let r := windowSum (p - 103) ps
      if r.1 = 0 then 0
      else
        let k : Int := if r.2 then (if r.1 < 0 then -1 else 1) else 0
        FloatFmt.f32.ne ((Val.ofInt (4 * r.1 + k)).scale (p - 105))

/-- A scale code of row or column i. -/
def scaleAt (d : Line) (i : Nat) : Val := ueValue (lane 8 i d.toNat)

/-- The products of cell (i, j) over the updates of a block. -/
def Block.products (b : Block) (fa fb i j : Nat) : List Val :=
  b.ups.map (fun u => ((matValue fa (lane 16 i u.1.toNat)).mul (scaleAt b.ea i)).mul (matValue fb (lane 16 j u.2.toNat)))

/-- The FP32 code of cell (i, j) of an accumulator. -/
def Acc.at_ (a : Acc) (i j : Nat) : BitVec 32 := tabGet 0 a.cells (64 * i + j)

/-- The cells that are not +0. -/
def cellList (f : Nat → BitVec 32) : List (Nat × BitVec 32) :=
  (List.range 4096).filterMap (fun k => let v := f k; if v = 0 then none else some (k, v))

/-- Close the open block: every cell takes its block sum once (20 R282, 03 R53). -/
def Acc.closeBlock (a : Acc) (fa fb : Nat) : Acc :=
  match a.blk with
  | none => a
  | some b =>
    let f (k : Nat) : BitVec 32 :=
      let c := FloatFmt.f32.value (a.at_ (k / 64) (k % 64)).toNat
      BitVec.ofNat 32 (FloatFmt.f32.ne (c.add (FloatFmt.f32.value (blockSum (b.products fa fb (k / 64) (k % 64))))))
    { a with cells := cellList f, blk := none }

/-- Close a block early: KC rises to the next multiple of 128 (20 R282). -/
def Acc.closeEarly (a : Acc) (fa fb : Nat) : Acc :=
  if a.blk.isNone then a
  else { a.closeBlock fa fb with kc := BitVec.ofNat 32 ((a.kc.toNat / 128 + 1) * 128) }

/-- Accumulator N. -/
def Arr.acc (x : Arr) (n : Bool) : Acc := if n then x.acc1 else x.acc0
/-- The array with accumulator N. -/
def Arr.setAcc (x : Arr) (n : Bool) (a : Acc) : Arr := if n then { x with acc1 := a } else { x with acc0 := a }
/-- The array with accumulator N's open block closed early. -/
def Arr.close (x : Arr) (n : Bool) : Arr := x.setAcc n ((x.acc n).closeEarly x.aFmt.toNat x.bFmt.toNat)

/-- The array of the firing element. -/
def State.arr (s : State) : Arr := (s.element s.firing.e).arr

/-- "Matrix state" when a condition holds (20 R291). -/
def stateFault (c : Bool) : Option Nat := if c then some 0x0F else none

/-! ### MCFG, MMAS, MZERO (20 R284–R286) -/

/-- The class of a format pair: 0 none, 1 eight-bit float, 2 integer, 3 sixteen-bit (20 R280). -/
def matClass (a b : Nat) : Nat :=
  if 5 ≤ a && a ≤ 7 && 5 ≤ b && b ≤ 7 then 1
  else if a = 8 && b = 8 then 2
  else if (a = 3 || a = 4) && (b = 3 || b = 4) then 3
  else 0

/-- The configuration token is accepted (20 R280). -/
def cfgOk (d : Line) : Bool :=
  matClass (lane 8 0 d.toNat) (lane 8 1 d.toNat) != 0 && lane 8 2 d.toNat == 128 && d.toNat / 2 ^ 24 == 0

/-- The scales of an accumulator set to 0x7F and its counters to 0. -/
def Acc.configure (a : Acc) : Acc := { a with sa := Acc.install.sa, sb := Acc.install.sb, ptr := 0, kc := 0 }

/-- MCFG. -/
def execMcfg (x : Slot) (s : State) : Out :=
  let m := s.arr
  let a := s.source x.srcA 9
  let d := a.1.data
  .next (a.2.conclude x false
    (stateChecks [a.1.inFmt 9] [a.1.late]
      [stateFault m.half, stateFault (m.acc0.inUse || m.acc1.inUse), if cfgOk d then none else some 0x10])
    [a.1.late]
    (.array { m with cfg := true, aFmt := BitVec.ofNat 4 (lane 8 0 d.toNat), bFmt := BitVec.ofNat 4 (lane 8 1 d.toNat),
                     acc0 := m.acc0.configure, acc1 := m.acc1.configure }))

/-- MMAS: an open block closes, then the scales are set. -/
def execMmas (x : Slot) (s : State) : Out :=
  let m := s.arr
  let a := s.source x.srcA 9
  let b := a.2.source x.srcB 9
  let m1 := m.close x.bit0
  .next (b.2.conclude x true
    (stateChecks [a.1.inFmt 9, b.1.inFmt 9] [a.1.late, b.1.late] [stateFault m.half]) [a.1.late, b.1.late]
    (.array (m1.setAcc x.bit0 { m1.acc x.bit0 with sa := a.1.data, sb := b.1.data })))

/-- MZERO: an open block is dropped. -/
def execMzero (x : Slot) (s : State) : Out :=
  let m := s.arr
  .next (s.conclude x false [stateFault m.half] []
    (.array (m.setAcc x.bit0 { m.acc x.bit0 with cells := [], inUse := true, ptr := 0, kc := 0, blk := none })))

/-! ### MMA (20 R287) -/

/-- The 64 lanes of a column or row, 16 bits each. -/
def wideCol (w : Nat) (l : List Nat) : BitVec 1024 := BitVec.ofNat 1024 (packLanes 16 (l.map (fun c => c % 2 ^ w)))

/-- One update: a block opens at a multiple of 128, and closes at the next (20 R282). -/
def Arr.update (m : Arr) (n : Bool) (col row : BitVec 1024) : Arr :=
  let a := m.acc n
  let b := match (if a.kc.toNat % 128 = 0 then none else a.blk) with
    | none => { ea := a.sa, ups := [(col, row)] }
    | some b => { b with ups := b.ups ++ [(col, row)] }
  let a1 := { a with blk := some b, kc := a.kc + 1 }
  let a2 := if a1.kc.toNat % 128 = 0 then a1.closeBlock m.aFmt.toNat m.bFmt.toNat else a1
  m.setAcc n a2

/-- What MMA makes of the array, given its two sources. -/
def Arr.mma (m : Arr) (n : Bool) (a b : Line) : Arr :=
  if matClass m.aFmt.toNat m.bFmt.toNat = 3 then
    if m.half then
      { m.update n (wideCol 16 (lineLanes 16 m.hA ++ lineLanes 16 a)) (wideCol 16 (lineLanes 16 m.hB ++ lineLanes 16 b))
        with half := false }
    else { m with half := true, hacc := n, hA := a, hB := b }
  else m.update n (wideCol 8 (lineLanes 8 a)) (wideCol 8 (lineLanes 8 b))

/-- MMA: the configuration is checked before the tags. -/
def execMma (x : Slot) (s : State) : Out :=
  let m := s.arr
  let fa := m.aFmt.toNat
  let fb := m.bFmt.toNat
  let a := s.source x.srcA fa
  let b := a.2.source x.srcB fb
  .next (b.2.conclude x true
    (stateChecks [stateFault (!m.cfg), a.1.inFmt fa, b.1.inFmt fb] [a.1.late, b.1.late]
      [stateFault (!(m.acc x.bit0).inUse), stateFault (m.half && m.hacc != x.bit0)])
    [a.1.late, b.1.late] (.array (m.mma x.bit0 a.1.data b.1.data)))

/-! ### MREAD, MREL, MWRITE (20 R288–R290) -/

/-- The next read-out or write token. -/
def Acc.bump (a : Acc) : Acc := { a with ptr := a.ptr + 1 }

/-- The token MREAD reads: sixteen values times their column scales, rounded once. -/
def Acc.readOut (a : Acc) : Line :=
  let r := a.ptr.toNat / 4
  let c := 16 * (a.ptr.toNat % 4)
  ofLanes 32 ((List.range 16).map (fun j =>
    FloatFmt.f32.ne ((FloatFmt.f32.value (a.at_ r (c + j)).toNat).mul (scaleAt a.sb (c + j)))))

/-- MREAD. -/
def execMread (x : Slot) (s : State) : Out :=
  let m := s.arr
  let m1 := m.close x.bit0
  let a := m1.acc x.bit0
  .next (s.conclude x false [stateFault m.half, stateFault (!(m.acc x.bit0).inUse)] []
    { Effect.write a.readOut 2 with arr := some (m1.setAcc x.bit0 a.bump) })

/-- MREL. -/
def execMrel (x : Slot) (s : State) : Out :=
  let m := s.arr
  let m1 := m.close x.bit0
  .next (s.conclude x false [stateFault m.half, stateFault (!(m.acc x.bit0).inUse)] []
    (.array (m1.setAcc x.bit0 { m1.acc x.bit0 with inUse := false })))

/-- The accumulator with one token of values loaded; a NaN becomes canonical. -/
def Acc.load (a : Acc) (d : Line) : Acc :=
  let base := 16 * a.ptr.toNat
  let f (k : Nat) : BitVec 32 :=
    if base ≤ k && k < base + 16 then
      BitVec.ofNat 32 (FloatFmt.f32.ne (FloatFmt.f32.value (lane 32 (k - base) d.toNat)))
    else tabGet 0 a.cells k
  { a with cells := cellList f }

/-- MWRITE. -/
def execMwrite (x : Slot) (s : State) : Out :=
  let m := s.arr
  let a := s.source x.srcA 2
  let m1 := m.close x.bit0
  let c := m1.acc x.bit0
  let c1 := if c.inUse then c else { c with inUse := true, kc := 0 }
  .next (a.2.conclude x false (stateChecks [a.1.inFmt 2] [a.1.late] [stateFault m.half]) [a.1.late]
    (.array (m1.setAcc x.bit0 (c1.load a.1.data).bump)))

end Sys2Proof.Machine
end

