-- ==== Sys2Proof/Machine/Channels.lean ====
section
/-! DEFINITION. What an element does beside firing: tokens arriving and leaving, converting and intersection inputs, age
lifts, the plane flip and completion (07 R106, R112, R114–R118). -/

namespace Sys2Proof.Machine

/-! ### Converting inputs (07 R115) -/

/-- The data of a token after the check of its codes at a port. -/
def State.checkToken (s : State) (e : Nat) (t : Token) : Except Nat Line × State := s.checkLine e 0 t.data t.code0 t.code1

/-- Split a converted token of narrow lanes into tokens of wide lanes, low lanes first. -/
def splitLanes (wd : Nat) (t : Token) (tag : Nat) (bank : BitVec 2) (ver : BitVec 4) : Nat → List Nat → List Token
  | 0, _ => []
  | n + 1, l =>
    makeToken (ofLanes wd (l.take (512 / wd))) tag bank ver :: splitLanes wd t tag bank ver n (l.drop (512 / wd))

/-- The tokens a route delivers for one arriving token or group. -/
def convertTokens (r : Word64) (first : Token) (ds : List Line) : List Token :=
  let src := first.tag.toNat
  let dst := routeTag r
  let wa := tagWidth src
  let wd := tagWidth dst
  let out := (ds.flatMap (lineLanes wa)).map (convert src dst (routeRnd r) (routeSat r))
  if wa < wd then splitLanes wd first dst first.bank first.ver (wd / wa) out
  else [makeToken (ofLanes wd out) dst first.bank first.ver]

/-- A token of a route passes a converting input unchanged, but for a marker's tag. -/
def passesUnchanged (r : Word64) (t : Token) : Bool :=
  t.sw || t.fin || t.tag == 0 || t.tag.toNat == routeTag r || 13 ≤ t.tag.toNat

/-- A passed token as delivered: a marker takes the target tag. -/
def passed (r : Word64) (t : Token) : Token := if t.fin then { t with tag := BitVec.ofNat 4 (routeTag r) } else t

/-- One arrival at a converting input: tokens already converted leave `part` first; a group fills `part` until it is
complete, or a marker or switch token ends it with zero lanes. A token of another tag ends it too (log 16). -/
def State.arriveConvert (s : State) (l : Launch) (e ch : Nat) (r : Word64) : State :=
  let x := s.element e
  let c := x.inp ch
  let put (t : State) (d : InChan) : State := t.setElement e ((t.element e).setInp ch d)
  let gathered := match c.part with
    | p :: _ => p.tag.toNat != routeTag r
    | [] => false
  if 4 ≤ c.buf.length then s
  else
    match c.part, gathered with
    | p :: ps, false => put s { c with buf := c.buf ++ [p], part := ps }
    | part, _ =>
      match c.wire with
      | [] => s
      | t :: ts =>
        let ends := match part with
          | p :: _ => passesUnchanged r t || p.tag != t.tag
          | [] => false
        if ends then
          match part with
          | p :: _ => put s { c with buf := c.buf ++ convertTokens r p (part.map (·.data)), part := [] }
          | [] => s
        else if passesUnchanged r t then put s { c with wire := ts, buf := c.buf ++ [passed r t] }
        else
          match s.checkToken e t with
          | (.error n, s1) => s1.elementFault (.element e) l n 0 0 0 0
          | (.ok d, s1) =>
            let wa := tagWidth t.tag.toNat
            let wd := tagWidth (routeTag r)
            let t1 := { t with data := d }
            if wa < wd then
              match convertTokens r t1 [d] with
              | o :: os => put s1 { c with wire := ts, buf := c.buf ++ [o], part := os }
              | [] => s1
            else if wd < wa then
              let g := part ++ [t1]
              if g.length < wa / wd then put s1 { c with wire := ts, part := g }
              else put s1 { c with wire := ts, buf := c.buf ++ convertTokens r (g.headD t1) (g.map (·.data)), part := [] }
            else put s1 { c with wire := ts, buf := c.buf ++ convertTokens r t1 [d] }

/-! ### Intersection inputs (07 R116) -/

/-- The intersection unit of input ch. -/
def Element.unitOf (x : Element) (ch : Nat) : Option Inter := x.inter.find? (fun u => u.i == ch || u.j == ch)
/-- The element with an intersection unit replaced. -/
def Element.setUnit (x : Element) (u : Inter) : Element :=
  { x with inter := x.inter.map (fun v => if v.i == u.i then u else v) }

/-- Entry n of a coordinate-tagged token: coordinate and value. -/
def coordEntry (t : Token) (n : Nat) : BitVec 32 × BitVec 32 :=
  (t.data.extractLsb' (64 * n + 32) 32, t.data.extractLsb' (64 * n) 32)

/-- What a stream of a unit offers next. -/
inductive Offer where
  | nothing
  | over
  | unused
  | falls
  | entry (c v : BitVec 32)
  | marker
  | switch
deriving DecidableEq, Repr

/-- The next offer of a stream: its current token, the entry position and the last coordinate. -/
def offer (q : List Token) (p : Nat) (last : Option (BitVec 32)) : Offer :=
  match q with
  | [] => .nothing
  | t :: _ =>
    if t.fin then .marker
    else if t.sw then .switch
    else if 8 ≤ p then .over
    else
      let e := coordEntry t p
      if e.1 = 0xFFFFFFFF then .unused
      else match last with
        | some c => if e.1.toNat ≤ c.toNat then .falls else .entry e.1 e.2
        | none => .entry e.1 e.2

/-- The pending pair of tokens, remaining lanes +0, with the bank tag and version of stream i's current token; a switch
token, whose version is the next plane's, is none of the pair's (log 14). -/
def Inter.pair (u : Inter) : Token × Token :=
  (makeToken (ofLanes 32 (u.lanes.map (fun p => p.1.toNat))) 2 u.side.1 u.side.2,
   makeToken (ofLanes 32 (u.lanes.map (fun p => p.2.toNat))) 2 u.side.1 u.side.2)

/-- What one step of a unit comes to. -/
inductive UnitStep where
  | stay
  | moved (u : Inter)
  | deliver (u : Inter) (a b : Token)
  | fault (cause : Nat)

/-- Stream i goes to its next entry. -/
def Inter.nextI (u : Inter) (c : Option (BitVec 32)) : Inter :=
  { u with pi := u.pi + 1, lastI := match c with
    | some d => some d
    | none => u.lastI }
/-- Stream j goes to its next entry. -/
def Inter.nextJ (u : Inter) (c : Option (BitVec 32)) : Inter :=
  { u with pj := u.pj + 1, lastJ := match c with
    | some d => some d
    | none => u.lastJ }
/-- Stream i's current token is spent. -/
def Inter.popI (u : Inter) : Inter := { u with qi := u.qi.drop 1, pi := 0 }
/-- Stream j's current token is spent. -/
def Inter.popJ (u : Inter) : Inter := { u with qj := u.qj.drop 1, pj := 0 }

/-- Both streams have reached their markers or switch tokens: a partly filled pair leaves first, then both; the streams
start anew. A delivered marker is tagged FP32, as the pairs are, and takes the bank tag and version of stream i's (log 14). -/
def Inter.bothEnds (u : Inter) : UnitStep :=
  if !u.lanes.isEmpty then .deliver { u with lanes := [] } u.pair.1 u.pair.2
  else
    let f (t : Token) : Token := if t.fin then { t with tag := 2, bank := u.side.1, ver := u.side.2 } else t
    .deliver { u.popI.popJ with lastI := none, lastJ := none }
      (f (u.qi.headD (markerToken 2 0 0))) (f (u.qj.headD (markerToken 2 0 0)))

/-- One step of the merge (07 R116). -/
def Inter.step (u : Inter) : UnitStep :=
  if 16 ≤ u.lanes.length then .deliver { u with lanes := [] } u.pair.1 u.pair.2
  else
    match offer u.qi u.pi u.lastI, offer u.qj u.pj u.lastJ with
    | .falls, _ | _, .falls => .fault 0x06
    | .over, _ => .moved u.popI
    | _, .over => .moved u.popJ
    | .unused, _ => .moved (u.nextI none)
    | _, .unused => .moved (u.nextJ none)
    | .marker, .marker => u.bothEnds
    | .switch, .switch => u.bothEnds
    | .marker, .switch | .switch, .marker => .fault 0x07
    | .entry c v, .entry d w =>
      if c = d then .moved ({ u with lanes := u.lanes ++ [(v, w)] }.nextI (some c) |>.nextJ (some d))
      else if c.toNat < d.toNat then .moved (u.nextI (some c))
      else .moved (u.nextJ (some d))
    | .entry c _, .marker | .entry c _, .switch => .moved (u.nextI (some c))
    | .marker, .entry d _ | .switch, .entry d _ => .moved (u.nextJ (some d))
    | .nothing, _ | _, .nothing => .stay

/-- Run a unit until it can do no more, at most n steps. -/
def State.runUnit (s : State) (l : Launch) (e : Nat) (u : Inter) : Nat → State
  | 0 => s
  | n + 1 =>
    match u.step with
    | .stay => s
    | .moved v => (s.setElement e ((s.element e).setUnit v)).runUnit l e v n
    | .fault c => s.elementFault (.element e) l c 0 0 0 0
    | .deliver v a b =>
      let x := s.element e
      let ci := x.inp u.i
      let cj := x.inp u.j
      if 4 ≤ ci.buf.length || 4 ≤ cj.buf.length then s
      else
        let y := ((x.setInp u.i { ci with buf := ci.buf ++ [a] }).setInp u.j { cj with buf := cj.buf ++ [b] }).setUnit v
        (s.setElement e y).runUnit l e v n

/-- One arrival at an intersection input: the unit takes the token when it has none of that stream, checks its codes and
its tag, and runs. That the unit checks, with the causes of an input stage, is log 83's reading. -/
def State.arriveInter (s : State) (l : Launch) (e ch : Nat) : State :=
  let x := s.element e
  let c := x.inp ch
  match x.unitOf ch with
  | none => s
  | some u =>
    let mine := if u.i = ch then u.qi else u.qj
    match c.wire, mine with
    | t :: ts, [] =>
      let take (s1 : State) (t1 : Token) : State :=
        let u1 := if u.i = ch then { u with qi := [t1], pi := 0, side := if t1.sw then u.side else (t1.bank, t1.ver) }
          else { u with qj := [t1], pj := 0 }
        (s1.setElement e (((s1.element e).setInp ch { c with wire := ts }).setUnit u1)).runUnit l e u1 40
      if t.fin || t.sw then take s t
      else if t.tag = 15 then s.elementFault (.element e) l 0x02 0 0 0 0
      else if t.tag ≠ 14 then s.elementFault (.element e) l 0x01 0 0 0 0
      else
        match s.checkToken e t with
        | (.ok d, s1) => take s1 { t with data := d }
        | (.error n, s1) => s1.elementFault (.element e) l n 0 0 0 0
    | _, _ => s.runUnit l e u 40

/-! ### Arrival and departure (07 R106) -/

/-- A token reaches an element in this cycle: its triggers see it from the next one (07 R106). -/
def State.noteArrival (s : State) (e : Nat) : State := s.setElement e { s.element e with arrAt := some s.fc }

/-- TOKEN_ARRIVE: the head token on the way to input ch reaches it. A complete element discards it (07 R118). -/
def execTokenArrive (e ch : Nat) (s0 : State) : Out :=
  match s0.liveAt (e / 12) with
  | none => .next s0
  | some l =>
    let s := if ((s0.element e).inp ch).wire.isEmpty then s0 else s0.noteArrival e
    let x := s.element e
    let c := x.inp ch
    if x.complete then .next (s.setElement e (x.setInp ch { c with wire := c.wire.drop 1 }))
    else
      match l.inRoute e ch with
      | some r =>
        if routeMode r == 3 then .next (s.arriveConvert l e ch r)
        else if routeMode r == 2 then .next (s.arriveInter l e ch)
        else
          match c.wire with
          | t :: ts => .next (s.setElement e (x.setInp ch { c with wire := ts, buf := c.buf ++ [t] }))
          | [] => .next s
      | none =>
        match c.wire with
        | t :: ts => .next (s.setElement e (x.setInp ch { c with wire := ts, buf := c.buf ++ [t] }))
        | [] => .next s

/-- OUTPUT_TOKEN_SEND: the head token of an output channel leaves when every destination of its fork has a credit. -/
def execOutputTokenSend (e ch : Nat) (s : State) : Out :=
  match s.liveAt (e / 12) with
  | none => .next s
  | some l =>
    let x := s.element e
    match x.out ch with
    | [] => .next s
    | t :: ts =>
      let f := (l.outFork e ch).filter (fun r => !(t.sw && routeMode r == 1))
      if s.forkRoom l f then .next ((s.setElement e (x.setOut ch ts)).forkPush l f t) else .next s

/-! ### Age lifts (07 R112) -/

/-- Slot n of an element that has lost 64 arbitration cycles becomes lifted. -/
def Element.lift (x : Element) (n : Nat) : Element :=
  if x.lifting.getLsbD n then
    { x with ages := vset x.ages n 64, lifting := x.lifting &&& ~~~(BitVec.ofNat 32 (2 ^ n)) }
  else x

/-- SLOT_AGE_LIFT. -/
def execSlotAgeLift (e n : Nat) (s : State) : Out := .next (s.setElement e ((s.element e).lift n))

/-! ### The plane flip (07 R117) -/

/-- The inputs of an element that a plain, converting or intersection route feeds. -/
def Launch.switchInputs (l : Launch) (e : Nat) : List Nat :=
  (List.range 8).filter (fun ch => match l.inRoute e ch with
    | some r => routeMode r != 1
    | none => false)

/-- The version a CONF.SWITCH in progress in the launch has told its streams (09 R153). -/
def State.switching (s : State) (l : Launch) : Option Nat :=
  (l.strands.filterMap (fun k => match (s.strand k).pend with
    | some p => (match p.instr with
      | .confSwitch _ => if p.stage = 2 then some (p.value.toNat % 16) else none
      | _ => none)
    | none => none)).head?

/-- The switch tokens at the heads of an element's routed inputs; none if some input has none. An element without such
an input flips when a CONF.SWITCH tells its region to (log 15). -/
def State.switchHeads (s : State) (l : Launch) (e : Nat) : Option (List (BitVec 4)) :=
  let x := s.element e
  let ins := l.switchInputs e
  if ins.isEmpty then (s.switching l).bind (fun v => if x.flipped then none else some [BitVec.ofNat 4 v])
  else
    let hs := ins.filterMap (fun ch => match (x.inp ch).buf with
      | t :: _ => if t.sw then some t.ver else none
      | [] => none)
    if hs.length = ins.length then some hs else none

/-- Every routed output channel has room; delay lines take no part (07 R114, R117). -/
def State.outputsRoom (s : State) (l : Launch) (e : Nat) : Bool :=
  (List.range 8).all (fun ch => (l.outFork e ch).all (fun r => routeMode r == 1) || s.outRoom l e ch)

/-- The delay lines of an element under a plane's preloads: named ones are refilled, the others take the new version. -/
def Launch.flipDelays (l : Launch) (e : Nat) (p : Plane) (x : Element) : Element :=
  (List.range 8).foldl (fun y ch =>
    if l.isDelay e ch then
      let c := y.inp ch
      match p.preloads.find? (fun q => q.1 == ch) with
      | some q => y.setInp ch { c with buf := q.2 }
      | none => y.setInp ch { c with buf := c.buf.map (fun t => { t with ver := p.ver }) }
    else y) x

/-- The element after the flip: tokens dequeued, planes exchanged, predicates, default bank and ages set, delay lines
refilled. -/
def Launch.flip (l : Launch) (e : Nat) (p : Plane) (x : Element) : Element :=
  let y := (l.switchInputs e).foldl (fun y ch => y.setInp ch { y.inp ch with buf := (y.inp ch).buf.drop 1 }) x
  l.flipDelays e p
    { y with plane := some p, standby := x.plane, q := Vector.replicate 4 p.initQ, bank := p.bank,
             ages := Vector.replicate 32 0, lifting := 0, flipped := true }

/-- Whether the element is due to flip, or to fault for a version that is not its standby's: the cause is "version
mismatch". -/
def State.flipDue (s : State) (l : Launch) (e : Nat) : Bool :=
  let x := s.element e
  !x.complete && !x.faulted && !x.busy && x.plane.isSome && x.arrAt != some s.fc && (s.switchHeads l e).isSome && s.outputsRoom l e

/-- The flip of an element that is due. -/
def State.planeFlip (s : State) (l : Launch) (e : Nat) : State :=
  let x := s.element e
  match s.switchHeads l e, x.standby with
  | some hs, some p =>
    if hs.all (fun v => v == p.ver) then
      let s1 := s.setElement e (l.flip e p x)
      (List.range 8).foldl (fun t ch =>
        if (l.outFork e ch).isEmpty || (l.outFork e ch).all (fun r => routeMode r == 1) then t
        else t.outPush l e ch (switchToken p.ver)) s1
    else s.elementFault (.element e) l 0x07 0 0 0 0
  | some _, none => s.elementFault (.element e) l 0x07 0 0 0 0
  | none, _ => s

/-- PLANE_FLIP. -/
def execPlaneFlip (e : Nat) (s : State) : Out :=
  match s.liveAt (e / 12) with
  | none => .next s
  | some l => if s.flipDue l e then .next (s.planeFlip l e) else .next s

/-! ### Completion (07 R118) -/

/-- A source that feeds an input channel has finished. -/
def State.sourceDone (s : State) (l : Launch) (r : Word64) : Bool :=
  match l.unit? (routeSrc r).1 with
  | some (.element e) => (s.element e).complete
  | some (.tile t) => let g := (s.tile t).gen (routeSrc r).2; 0 < g.walks && g.walk.isNone && g.swOut.isNone
  | some (.port p) => (match (s.port p).portal with
    | some q => q.reqs.isEmpty
    | none => true)
  | _ => true

/-- No open group names the channel as a decoder. -/
def State.decodersDone (s : State) (l : Launch) (e ch : Nat) : Bool :=
  l.groups.all (fun g => !(g.decs.any (fun d => !d.tile && d.port == ch && l.unit? d.unit.toNat == some (.element e))) ||
    (!s.groupOpen l g && g.decs.all (fun d => d.due.isEmpty)))

/-- An input channel other than a delay line is empty and its source has finished. -/
def State.inputDone (s : State) (l : Launch) (e ch : Nat) : Bool :=
  let c := (s.element e).inp ch
  l.isDelay e ch ||
    (c.wire.isEmpty && c.buf.isEmpty && c.part.isEmpty && s.decodersDone l e ch &&
      (match l.inRoute e ch with
        | some r => s.sourceDone l r
        | none => true))

/-- The element is complete now. -/
def State.completeDue (s : State) (l : Launch) (e : Nat) : Bool :=
  let x := s.element e
  match x.plane with
  | none => false
  | some p =>
    !x.complete && !x.faulted && !x.cancelled && !x.busy &&
    (vget x.q x.bank.toNat 0).getLsbD p.done.toNat &&
    (List.range 8).all (fun ch => s.inputDone l e ch) &&
    (List.range 8).all (fun ch => (x.out ch).isEmpty) &&
    x.inter.all (fun u => u.qi.isEmpty && u.qj.isEmpty && u.lanes.isEmpty)

/-- ELEMENT_COMPLETE. -/
def execElementComplete (e : Nat) (s : State) : Out :=
  match s.liveAt (e / 12) with
  | none => .next s
  | some l => if s.completeDue l e then .next (s.setElement e { s.element e with complete := true }) else .next s

end Sys2Proof.Machine
end

