-- ==== Sys2Proof/Machine/Alu.lean ====
section
/-! DEFINITION. The integer instructions of the sequencer (06 R93, R94). None traps on its data; a destination g0 discards
the result (04 R58). -/

namespace Sys2Proof.Machine

/-! ### The functions of 06 R93 -/

/-- MULH: floor(S(a)·S(b)/2^64). -/
def mulHigh (a b : Word64) : Word64 := BitVec.ofInt 64 (a.toInt * b.toInt / 2 ^ 64)
/-- MULHU: floor(U(a)·U(b)/2^64). -/
def mulHighU (a b : Word64) : Word64 := BitVec.ofNat 64 (a.toNat * b.toNat / 2 ^ 64)
/-- Div(a, b). -/
def divS (a b : Word64) : Word64 :=
  if b = 0 then 0
  else if a.toInt = -2 ^ 63 ∧ b.toInt = -1 then a
  else BitVec.ofInt 64 (a.toInt.tdiv b.toInt)
/-- DIVU. -/
def divU (a b : Word64) : Word64 := if b = 0 then 0 else BitVec.ofNat 64 (a.toNat / b.toNat)
/-- Rem(a, b). -/
def remS (a b : Word64) : Word64 :=
  if b = 0 then a
  else if a.toInt = -2 ^ 63 ∧ b.toInt = -1 then 0
  else BitVec.ofInt 64 (a.toInt - b.toInt * a.toInt.tdiv b.toInt)
/-- REMU. -/
def remU (a b : Word64) : Word64 := if b = 0 then a else BitVec.ofNat 64 (a.toNat % b.toNat)
/-- The shift count of an R-form shift: b[5:0]. -/
def shiftCount (b : Word64) : Nat := b.toNat % 64
/-- SHL by c. -/
def shiftL (a : Word64) (c : Nat) : Word64 := BitVec.ofNat 64 (a.toNat * 2 ^ c)
/-- SHR by c: floor(U(a)/2^c). -/
def shiftR (a : Word64) (c : Nat) : Word64 := BitVec.ofNat 64 (a.toNat / 2 ^ c)
/-- SAR by c: floor(S(a)/2^c). -/
def shiftA (a : Word64) (c : Nat) : Word64 := BitVec.ofInt 64 (a.toInt / 2 ^ c)
/-- CLZ: leading zero bits, 64 for zero. -/
def countLead (a : Word64) : Word64 := if a = 0 then 64 else BitVec.ofNat 64 (63 - a.toNat.log2)
/-- Trailing zero bits of the low n bits. -/
def trailFrom (a : Nat) : Nat → Nat
  | 0 => 0
  | n + 1 => if a % 2 = 1 then 0 else 1 + trailFrom (a / 2) n
/-- CTZ: trailing zero bits, 64 for zero. -/
def countTrail (a : Word64) : Word64 := BitVec.ofNat 64 (trailFrom a.toNat 64)
/-- One bits of the low n bits. -/
def onesFrom (a : Nat) : Nat → Nat
  | 0 => 0
  | n + 1 => a % 2 + onesFrom (a / 2) n
/-- POPC. -/
def countOnes (a : Word64) : Word64 := BitVec.ofNat 64 (onesFrom a.toNat 64)
/-- MIN. -/
def minS (a b : Word64) : Word64 := if a.toInt ≤ b.toInt then a else b
/-- MAX. -/
def maxS (a b : Word64) : Word64 := if a.toInt ≤ b.toInt then b else a
/-- MINU. -/
def minU (a b : Word64) : Word64 := if a.toNat ≤ b.toNat then a else b
/-- MAXU. -/
def maxU (a b : Word64) : Word64 := if a.toNat ≤ b.toNat then b else a
/-- SLT. -/
def lessS (a b : Word64) : Word64 := if a.toInt < b.toInt then 1 else 0
/-- SLTU. -/
def lessU (a b : Word64) : Word64 := if a.toNat < b.toNat then 1 else 0

/-! ### R forms -/

/-- An operation of two registers. -/
def State.aluR (s : State) (f : Word64 → Word64 → Word64) (gd ga gb : GReg) : Out :=
  .next (s.retireReg gd (f (s.reg ga) (s.reg gb)))

/-- An operation of one register. -/
def State.aluU (s : State) (f : Word64 → Word64) (gd ga : GReg) : Out := .next (s.retireReg gd (f (s.reg ga)))

/-- An operation of a register and an extended immediate b. -/
def State.aluI (s : State) (f : Word64 → Word64 → Word64) (gd ga : GReg) (b : Word64) : Out :=
  .next (s.retireReg gd (f (s.reg ga) b))

/-- ADD, R form: a + b (06 R93). -/
def execAdd (gd ga gb : GReg) (s : State) : Out := s.aluR (· + ·) gd ga gb
/-- SUB, R form: a − b (06 R93). -/
def execSub (gd ga gb : GReg) (s : State) : Out := s.aluR (· - ·) gd ga gb
/-- MUL, R form: the low 64 bits of a·b (06 R93). -/
def execMul (gd ga gb : GReg) (s : State) : Out := s.aluR (· * ·) gd ga gb
/-- MULH, R form: the signed high half (06 R93). -/
def execMulh (gd ga gb : GReg) (s : State) : Out := s.aluR mulHigh gd ga gb
/-- MULHU, R form: the unsigned high half (06 R93). -/
def execMulhu (gd ga gb : GReg) (s : State) : Out := s.aluR mulHighU gd ga gb
/-- DIV, R form: the signed quotient (06 R93). -/
def execDiv (gd ga gb : GReg) (s : State) : Out := s.aluR divS gd ga gb
/-- DIVU, R form: the unsigned quotient (06 R93). -/
def execDivu (gd ga gb : GReg) (s : State) : Out := s.aluR divU gd ga gb
/-- REM, R form: the signed remainder (06 R93). -/
def execRem (gd ga gb : GReg) (s : State) : Out := s.aluR remS gd ga gb
/-- REMU, R form: the unsigned remainder (06 R93). -/
def execRemu (gd ga gb : GReg) (s : State) : Out := s.aluR remU gd ga gb
/-- AND, R form: bitwise and (06 R93). -/
def execAnd (gd ga gb : GReg) (s : State) : Out := s.aluR (· &&& ·) gd ga gb
/-- OR, R form: bitwise or (06 R93). -/
def execOr (gd ga gb : GReg) (s : State) : Out := s.aluR (· ||| ·) gd ga gb
/-- XOR, R form: bitwise exclusive or (06 R93). -/
def execXor (gd ga gb : GReg) (s : State) : Out := s.aluR (· ^^^ ·) gd ga gb
/-- SHL, R form: shift left by b[5:0] (06 R93). -/
def execShl (gd ga gb : GReg) (s : State) : Out := s.aluR (fun a b => shiftL a (shiftCount b)) gd ga gb
/-- SHR, R form: logical shift right by b[5:0] (06 R93). -/
def execShr (gd ga gb : GReg) (s : State) : Out := s.aluR (fun a b => shiftR a (shiftCount b)) gd ga gb
/-- SAR, R form: arithmetic shift right by b[5:0] (06 R93). -/
def execSar (gd ga gb : GReg) (s : State) : Out := s.aluR (fun a b => shiftA a (shiftCount b)) gd ga gb
/-- CLZ (06 R93). -/
def execClz (gd ga : GReg) (s : State) : Out := s.aluU countLead gd ga
/-- CTZ (06 R93). -/
def execCtz (gd ga : GReg) (s : State) : Out := s.aluU countTrail gd ga
/-- POPC (06 R93). -/
def execPopc (gd ga : GReg) (s : State) : Out := s.aluU countOnes gd ga
/-- MIN, R form (06 R93). -/
def execMin (gd ga gb : GReg) (s : State) : Out := s.aluR minS gd ga gb
/-- MAX, R form (06 R93). -/
def execMax (gd ga gb : GReg) (s : State) : Out := s.aluR maxS gd ga gb
/-- MINU, R form (06 R93). -/
def execMinu (gd ga gb : GReg) (s : State) : Out := s.aluR minU gd ga gb
/-- MAXU, R form (06 R93). -/
def execMaxu (gd ga gb : GReg) (s : State) : Out := s.aluR maxU gd ga gb
/-- SLT, R form (06 R93). -/
def execSlt (gd ga gb : GReg) (s : State) : Out := s.aluR lessS gd ga gb
/-- SLTU, R form (06 R93). -/
def execSltu (gd ga gb : GReg) (s : State) : Out := s.aluR lessU gd ga gb

/-! ### I forms (04 R59, R62) -/

/-- ADD, I form, sign-extended (06 R93). -/
def execAddI (gd ga : GReg) (imm : BitVec 16) (s : State) : Out := s.aluI (· + ·) gd ga (s.sext16 imm)
/-- MUL, I form, sign-extended (06 R93). -/
def execMulI (gd ga : GReg) (imm : BitVec 16) (s : State) : Out := s.aluI (· * ·) gd ga (s.sext16 imm)
/-- AND, I form, zero-extended (06 R93). -/
def execAndI (gd ga : GReg) (imm : BitVec 16) (s : State) : Out := s.aluI (· &&& ·) gd ga (s.zext16 imm)
/-- OR, I form, zero-extended (06 R93). -/
def execOrI (gd ga : GReg) (imm : BitVec 16) (s : State) : Out := s.aluI (· ||| ·) gd ga (s.zext16 imm)
/-- XOR, I form, zero-extended (06 R93). -/
def execXorI (gd ga : GReg) (imm : BitVec 16) (s : State) : Out := s.aluI (· ^^^ ·) gd ga (s.zext16 imm)
/-- MIN, I form, sign-extended (06 R93). -/
def execMinI (gd ga : GReg) (imm : BitVec 16) (s : State) : Out := s.aluI minS gd ga (s.sext16 imm)
/-- MAX, I form, sign-extended (06 R93). -/
def execMaxI (gd ga : GReg) (imm : BitVec 16) (s : State) : Out := s.aluI maxS gd ga (s.sext16 imm)
/-- SLT, I form, sign-extended (06 R93). -/
def execSltI (gd ga : GReg) (imm : BitVec 16) (s : State) : Out := s.aluI lessS gd ga (s.sext16 imm)
/-- SLTU, I form, sign-extended (06 R93). -/
def execSltuI (gd ga : GReg) (imm : BitVec 16) (s : State) : Out := s.aluI lessU gd ga (s.sext16 imm)
/-- SHL, I form, by a count of 6 bits (04 R59). -/
def execShlI (gd ga : GReg) (c : BitVec 6) (s : State) : Out := .next (s.retireReg gd (shiftL (s.reg ga) c.toNat))
/-- SHR, I form, by a count of 6 bits (04 R59). -/
def execShrI (gd ga : GReg) (c : BitVec 6) (s : State) : Out := .next (s.retireReg gd (shiftR (s.reg ga) c.toNat))
/-- SAR, I form, by a count of 6 bits (04 R59). -/
def execSarI (gd ga : GReg) (c : BitVec 6) (s : State) : Out := .next (s.retireReg gd (shiftA (s.reg ga) c.toNat))

/-- LIH: gd := (imm[31:0] << 32) + ZeroExt(ga[31:0]) (06 R94). -/
def execLih (gd ga : GReg) (imm : BitVec 16) (s : State) : Out :=
  .next (s.retireReg gd ((s.zext16 imm <<< 32) + ((s.reg ga).extractLsb' 0 32).zeroExtend 64))

end Sys2Proof.Machine
end

