-- ==== Sys2Proof/Machine/Branch.lean ====
section
/-! DEFINITION. Branches and jumps (06 R95–R97). -/

namespace Sys2Proof.Machine

/-- A branch whose test is c: to PC + 4·offset of the branch word, else to the next word (04 R61, R62). -/
def State.branch (s : State) (c : Bool) (off : BitVec 16) : State :=
  if c then s.goto (s.wordPc + (s.sext16 off <<< 2)) else s.retire

/-- BEQ (06 R95). -/
def execBeq (ga gb : GReg) (off : BitVec 16) (s : State) : Out := .next (s.branch (testEq (s.reg ga) (s.reg gb)) off)
/-- BNE (06 R95). -/
def execBne (ga gb : GReg) (off : BitVec 16) (s : State) : Out := .next (s.branch (!testEq (s.reg ga) (s.reg gb)) off)
/-- BLT (06 R95). -/
def execBlt (ga gb : GReg) (off : BitVec 16) (s : State) : Out := .next (s.branch (testLt (s.reg ga) (s.reg gb)) off)
/-- BGE (06 R95). -/
def execBge (ga gb : GReg) (off : BitVec 16) (s : State) : Out := .next (s.branch (!testLt (s.reg ga) (s.reg gb)) off)
/-- BLTU (06 R95). -/
def execBltu (ga gb : GReg) (off : BitVec 16) (s : State) : Out := .next (s.branch (testLtu (s.reg ga) (s.reg gb)) off)
/-- BGEU (06 R95). -/
def execBgeu (ga gb : GReg) (off : BitVec 16) (s : State) : Out := .next (s.branch (!testLtu (s.reg ga) (s.reg gb)) off)

/-- J: to PC + 4·offset (06 R96). -/
def execJ (off : BitVec 26) (s : State) : Out := .next (s.goto (s.wordPc + (s.sext26 off <<< 2)))

/-- JAL: as J, with g31 := PC + 4 of the JAL word (06 R96). -/
def execJal (off : BitVec 26) (s : State) : Out :=
  .next ((s.setReg 31 s.nextPc).goto (s.wordPc + (s.sext26 off <<< 2)))

/-- JALR: to ga + SignExt(imm) with bits 1:0 cleared, ga read before gd := PC + 4 is written (06 R97). -/
def execJalr (gd ga : GReg) (imm : BitVec 16) (s : State) : Out :=
  .next ((s.setReg gd s.nextPc).goto ((s.reg ga + s.sext16 imm) &&& ~~~3))

end Sys2Proof.Machine
end

