-- ==== Sys2Proof/Machine/Codec.lean ====
section
/-! DEFINITION. How a context image lays out the state of R331 in cells. The manual names the items of each payload and gives
no layout of them: one number takes a cell of its own, least significant bits first, a register or token two cells of data and
one of the rest, and memory cells stand as they are (log 25). -/

namespace Sys2Proof.Machine

/-! ### Writing and reading one item -/

/-- A layout of values of a type: the cells of a value, and the value that the first of some cells hold, with the rest; none
when a cell fails its check or holds no such value (22 R332). -/
structure Codec (α : Type) where
  put : α → List Cell
  get : List Cell → Option (α × List Cell)

/-- A cell of the save engine's own (22 R332). -/
def ownCell (n : Nat) : Cell := freshCell (BitVec.ofNat 256 n) 2

/-- A number below 2^256. -/
def Codec.nat : Codec Nat where
  put n := [ownCell n]
  get
    | [] => none
    | c :: t => (check c.data c.code).data?.map (fun d => (d.toNat, t))

/-- A value laid out as another. -/
def Codec.as {α β : Type} (c : Codec β) (into : α → β) (from_ : β → α) : Codec α where
  put x := c.put (into x)
  get t := (c.get t).map (fun r => (from_ r.1, r.2))

/-- Two values in order. -/
def Codec.pair {α β : Type} (a : Codec α) (b : Codec β) : Codec (α × β) where
  put x := a.put x.1 ++ b.put x.2
  get t := match a.get t with
    | some (x, u) => (b.get u).map (fun r => ((x, r.1), r.2))
    | none => none

/-- n values in order. -/
def Codec.getMany {α : Type} (c : Codec α) : Nat → List Cell → Option (List α × List Cell)
  | 0, t => some ([], t)
  | n + 1, t => match c.get t with
    | some (x, u) => (c.getMany n u).map (fun r => (x :: r.1, r.2))
    | none => none

/-- A list: its length and its values. -/
def Codec.list {α : Type} (c : Codec α) : Codec (List α) where
  put xs := ownCell xs.length :: xs.flatMap c.put
  get t := match Codec.nat.get t with
    | some (n, u) => if n ≤ u.length then c.getMany n u else none
    | none => none

/-- A value that may be absent: the list of it. -/
def Codec.opt {α : Type} (c : Codec α) : Codec (Option α) := c.list.as Option.toList List.head?

/-- n values, the absent ones d. -/
def Codec.vec {α : Type} (c : Codec α) (n : Nat) (d : α) : Codec (Vector α n) :=
  c.list.as Vector.toList (fun xs => Vector.ofFn (fun i => xs.getD i.val d))

/-- A bit vector of at most 256 bits. -/
def Codec.bv (w : Nat) : Codec (BitVec w) := Codec.nat.as BitVec.toNat (BitVec.ofNat w)

/-- A truth value. -/
def Codec.bool : Codec Bool := Codec.nat.as Bool.toNat (· == 1)

/-- An integer: its sign and magnitude. -/
def Codec.int : Codec Int :=
  (Codec.bool.pair Codec.nat).as (fun x => (decide (x < 0), x.natAbs)) (fun r => if r.1 then -(r.2 : Int) else r.2)

/-- Two cells of data. -/
def Codec.line : Codec Line :=
  ((Codec.bv 256).pair (Codec.bv 256)).as (fun x => (x.extractLsb' 0 256, x.extractLsb' 256 256)) (fun r => r.2 ++ r.1)

/-- Two lines of data. -/
def Codec.wide : Codec (BitVec 1024) :=
  (Codec.line.pair Codec.line).as (fun x => (x.extractLsb' 0 512, x.extractLsb' 512 512)) (fun r => r.2 ++ r.1)

/-- A memory cell, which the restore copies as a carrier (22 R332). -/
def Codec.raw : Codec Cell where
  put c := [c]
  get
    | [] => none
    | c :: t => some (c, t)

/-- The data of a checked cell, and whether it passed. -/
def Cell.looked (c : Cell) : CellData × Bool :=
  match (check c.data c.code).data? with
  | some d => (d, true)
  | none => (c.data, false)

/-- Two data cells and one number of the rest, of which a failing one does not prevent the restore (22 R332). -/
def Codec.marked (n : Nat) : Codec (Line × BitVec n × Bool) where
  put x := Codec.line.put x.1 ++ [ownCell x.2.1.toNat]
  get
    | a :: b :: c :: t =>
      let lo := a.looked
      let hi := b.looked
      let r := c.looked
      some ((hi.1 ++ lo.1, r.1.setWidth n, lo.2 && hi.2 && r.2), t)
    | _ => none

/-- A vector register; one that fails is restored with tag 15 (22 R332). -/
def Codec.vreg : Codec VReg :=
  (Codec.marked 4).as (fun x => (x.data, x.tag, true)) (fun r => { data := r.1, tag := if r.2.2 then r.2.1 else 15 })

/-- A token; one that fails is restored with tag 15 (22 R332). -/
def Codec.token : Codec Token :=
  (Codec.marked 68).as
    (fun x => (x.data, BitVec.ofBool x.sw ++ x.ver ++ BitVec.ofBool x.fin ++ x.bank ++ x.tag ++ x.code1 ++ x.code0, true))
    (fun r =>
      let w := r.2.1
      { data := r.1, code0 := w.extractLsb' 0 28, code1 := w.extractLsb' 28 28,
        tag := if r.2.2 then w.extractLsb' 56 4 else 15, bank := w.extractLsb' 60 2, fin := w.getLsbD 62,
        ver := w.extractLsb' 63 4, sw := w.getLsbD 67 })

/-- A list of numbers. -/
def Codec.nats : Codec (List Nat) := Codec.nat.list

/-- A list of tokens. -/
def Codec.tokens : Codec (List Token) := Codec.token.list

/-! ### Memories (22 R331, R332) -/

/-- One cell as the save engine writes it: corrected, or as poison. -/
def saveCell (c : Cell) : Cell :=
  match check c.data c.code with
  | .clean _ => c
  | .corrected d => { c with data := d, code := gen d }
  | _ => { c with code := gen c.data ^^^ poisonMark }

/-- The n cells of a memory from its start, as the save engine writes them. -/
def Memory.saved (m : Memory) (n : Nat) : List Cell := (List.range n).map (fun i => saveCell (m.cell (32 * i)))

/-- A memory of given cells, from address a. -/
def fillMemory (m : Memory) (a : Nat) : List Cell → Memory
  | [] => m
  | c :: t => fillMemory (m.setCell a c) (a + 32) t

/-! ### Planes and elements (04 R69, 22 R327, R331) -/

/-- An opcode plane. -/
def Codec.plane : Codec Plane :=
  ((Codec.bv 4).pair ((Codec.bv 32).pair ((Codec.bv 16).pair ((Codec.bv 4).pair ((Codec.bv 2).pair ((Codec.bv 32).list.pair
    ((Codec.bv 64).list.pair (Codec.nat.pair Codec.tokens).list))))))).as
    (fun x => (x.ver, x.valid, x.initQ, x.done, x.bank, x.slots, x.trigs, x.preloads))
    (fun (a, b, c, d, e, f, g, h) =>
      { ver := a, valid := b, initQ := c, done := d, bank := e, slots := f, trigs := g, preloads := h })

/-- An input channel. -/
def Codec.inChan : Codec InChan :=
  (Codec.tokens.pair (Codec.tokens.pair Codec.tokens)).as (fun x => (x.wire, x.buf, x.part))
    (fun (a, b, c) => { wire := a, buf := b, part := c })

/-- An intersection unit. -/
def Codec.inter : Codec Inter :=
  (Codec.nat.pair (Codec.nat.pair (Codec.tokens.pair (Codec.tokens.pair (Codec.nat.pair (Codec.nat.pair ((Codec.bv 32).opt.pair
    ((Codec.bv 32).opt.pair (((Codec.bv 32).pair (Codec.bv 32)).list.pair ((Codec.bv 2).pair (Codec.bv 4))))))))))).as
    (fun x => (x.i, x.j, x.qi, x.qj, x.pi, x.pj, x.lastI, x.lastJ, x.lanes, x.side))
    (fun (a, b, c, d, e, f, g, h, i, j) =>
      { i := a, j := b, qi := c, qj := d, pi := e, pj := f, lastI := g, lastJ := h, lanes := i, side := j })

/-- An open K-block. -/
def Codec.block : Codec Block :=
  (Codec.line.pair (Codec.wide.pair Codec.wide).list).as (fun x => (x.ea, x.ups)) (fun (a, b) => { ea := a, ups := b })

/-- An accumulator. -/
def Codec.acc : Codec Acc :=
  ((Codec.nat.pair (Codec.bv 32)).list.pair (Codec.bool.pair ((Codec.bv 8).pair ((Codec.bv 32).pair (Codec.line.pair
    (Codec.line.pair Codec.block.opt)))))).as
    (fun x => (x.cells, x.inUse, x.ptr, x.kc, x.sa, x.sb, x.blk))
    (fun (a, b, c, d, e, f, g) => { cells := a, inUse := b, ptr := c, kc := d, sa := e, sb := f, blk := g })

/-- A matrix array. -/
def Codec.arr : Codec Arr :=
  (Codec.bool.pair ((Codec.bv 4).pair ((Codec.bv 4).pair (Codec.bool.pair (Codec.bool.pair (Codec.line.pair (Codec.line.pair
    (Codec.acc.pair Codec.acc)))))))).as
    (fun x => (x.cfg, x.aFmt, x.bFmt, x.half, x.hacc, x.hA, x.hB, x.acc0, x.acc1))
    (fun (a, b, c, d, e, f, g, h, i) =>
      { cfg := a, aFmt := b, bFmt := c, half := d, hacc := e, hA := f, hB := g, acc0 := h, acc1 := i })

/-- The registers of an element's banks (22 R327). -/
def Codec.banks : Codec Element :=
  ((Codec.vreg.vec 32 { data := 0, tag := 0 }).pair (((Codec.bv 16).vec 4 0).pair (((Codec.bv 32).vec 16 0).pair
    (((Codec.bv 32).vec 4 0).pair (((Codec.bv 16).vec 4 0).pair ((Codec.bv 2).pair ((Codec.nat.vec 32 0).pair
    (Codec.bv 32)))))))).as
    (fun x => (x.v, x.q, x.lp, x.kc, x.evm, x.bank, x.ages, x.lifting))
    (fun (a, b, c, d, e, f, g, h) =>
      { Element.reset with v := a, q := b, lp := c, kc := d, evm := e, bank := f, ages := g, lifting := h })

/-- A fault of a firing in flight. -/
def Codec.late : Codec Late := (Codec.bv 64).as Late.word Late.mk

/-- An element's channels, intersection units, and state of completion and fault, and a firing that is in flight (22 R327). -/
def Codec.rest : Codec Element :=
  ((Codec.inChan.vec 8 InChan.empty).pair ((Codec.tokens.vec 8 []).pair (Codec.inter.list.pair (Codec.bool.pair (Codec.bool.pair
    (Codec.bool.pair (Codec.bool.pair ((Codec.bv 64).pair (Codec.late.opt.pair ((Codec.nat.pair (Codec.bv 2)).opt.pair
    ((Codec.nat.pair (Codec.bv 2)).opt.pair Codec.bool))))))))))).as
    (fun x => (x.ins, x.outs, x.inter, x.complete, x.faulted, x.cancelled, x.stopped, x.fault, x.late, x.heldV, x.heldM, x.flipped))
    (fun (a, b, c, d, e, f, g, h, i, j, k, l) =>
      { Element.reset with ins := a, outs := b, inter := c, complete := d, faulted := e, cancelled := f, stopped := g,
                           fault := h, late := i, heldV := j, heldM := k, flipped := l })

/-- The items of an element other than its planes, local memory and array. -/
def Codec.element : Codec Element :=
  (Codec.banks.pair Codec.rest).as (fun x => (x, x)) (fun (a, b) =>
    { b with v := a.v, q := a.q, lp := a.lp, kc := a.kc, evm := a.evm, bank := a.bank, ages := a.ages, lifting := a.lifting })

/-! ### Memory tiles and memory-port tiles (22 R327) -/

/-- A claimant of a buffer. -/
def Codec.claimant : Codec Claimant :=
  (Codec.bool.pair (Codec.nat.pair Codec.nat)).as
    (fun
      | .gen g n => (false, g, n)
      | .cmd p n => (true, p, n))
    (fun (k, a, n) => if k then .cmd a n else .gen a n)

/-- A claim of a slot. -/
def Codec.claim : Codec Claim :=
  (Codec.claimant.pair (Codec.nat.pair Codec.bool)).as (fun x => (x.who, x.slot, x.full))
    (fun (a, b, c) => { who := a, slot := b, full := c })

/-- A circular buffer. -/
def Codec.buf : Codec Buf :=
  (Codec.nat.pair (Codec.nat.pair (Codec.nat.pair (Codec.nat.pair (Codec.nat.pair (Codec.nat.pair (Codec.nat.pair
    (Codec.claimant.list.pair (Codec.claimant.list.pair (Codec.claim.list.pair Codec.claim.list)))))))))).as
    (fun x => (x.base, x.slotBytes, x.slots, x.free, x.filled, x.prod, x.cons, x.preq, x.creq, x.claims, x.taken))
    (fun (a, b, c, d, e, f, g, h, i, j, k) =>
      { base := a, slotBytes := b, slots := c, free := d, filled := e, prod := f, cons := g, preq := h, creq := i,
        claims := j, taken := k })

/-- A walk. -/
def Codec.walk : Codec Walk :=
  ((Codec.bv 256).pair ((Codec.bv 4).pair (Codec.nat.pair (Codec.nat.pair (Codec.nat.pair (Codec.nat.pair (Codec.nat.opt.pair
    (Codec.bool.pair Codec.bool)))))))).as
    (fun x => (x.pat, x.ver, x.i0, x.i1, x.i2, x.i3, x.slot, x.asked, x.mark))
    (fun (a, b, c, d, e, f, g, h, i) =>
      { pat := a, ver := b, i0 := c, i1 := d, i2 := e, i3 := f, slot := g, asked := h, mark := i })

/-- A cell in flight to a landing generator: a carrier's. -/
def Codec.landing : Codec Landing :=
  (Codec.nat.pair (Codec.nat.pair (Codec.nat.pair Codec.raw))).as (fun x => (x.p, x.id, x.addr, x.cell))
    (fun (a, b, c, d) => { p := a, id := b, addr := c, cell := d })

/-- An address generator. -/
def Codec.gen : Codec Gen :=
  (Codec.bool.pair (Codec.walk.opt.pair (Codec.nat.pair (Codec.bool.pair ((Codec.bv 28).pair ((Codec.bv 16).pair (Codec.bool.pair
    (Codec.nat.pair (Codec.tokens.pair (Codec.landing.list.pair ((Codec.bv 4).opt.pair (Codec.nat.pair
    Codec.nat)))))))))))).as
    (fun x => (x.landing, x.walk, x.walks, x.celled, x.tokens, x.retry, x.waiting, x.poked, x.wire, x.land, x.swOut, x.swIn, x.sent))
    (fun (a, b, c, d, e, f, g, h, i, j, k, l, m) =>
      { landing := a, walk := b, walks := c, celled := d, tokens := e, retry := f, waiting := g, poked := h, wire := i,
        land := j, swOut := k, swIn := l, sent := m })

/-- A memory tile other than its SRAM and watch engine. -/
def Codec.tile : Codec Tile :=
  ((Codec.bv 2).pair (Codec.nat.pair (Codec.nat.pair (Codec.nat.pair (Codec.nat.pair (Codec.nat.pair
    ((Codec.buf.vec 8 Buf.unused).pair ((Codec.gen.vec 4 Gen.reset).pair ((Codec.bv 12).list.pair (Codec.bv 64)))))))))).as
    (fun x => (x.mode, x.qbase, x.qsize, x.lrow, x.put, x.take, x.bufs, x.gens, x.perm, x.fault))
    (fun (a, b, c, d, e, f, g, h, i, j) =>
      { Tile.reset with mode := a, qbase := b, qsize := c, lrow := d, put := e, take := f, bufs := g, gens := h, perm := i,
                        fault := j })

/-- A copy or history command: a wait for a cell has been given up. -/
def Codec.cmd : Codec Cmd :=
  (Codec.nat.pair (Codec.nat.pair (Codec.bool.pair (Codec.line.pair ((Codec.bv 16).pair ((Codec.bv 16).pair (Codec.bool.pair
    ((Codec.nat.pair Codec.nat).list.pair (Codec.nat.pair (Codec.nat.pair (Codec.bool.pair (Codec.nats.pair (Codec.nats.opt.pair
    Codec.bool))))))))))))).as
    (fun x => (x.id, x.owner, x.mcast, x.record, x.mask, x.budget, x.asked, x.slots, x.next, x.landed, x.drained, x.follow, x.fetch, x.ended))
    (fun (a, b, c, d, e, f, g, h, i, j, k, l, m, n) =>
      { id := a, launch := 0, owner := b, mcast := c, record := d, mask := e, budget := f, asked := g, slots := h, next := i,
        landed := j, drained := k, follow := l, place := .none, fetch := m, ended := n })

/-- A request of a portal. -/
def Codec.portalReq : Codec PortalReq :=
  (Codec.token.pair (Codec.nat.pair ((Codec.bv 64).pair (Codec.bv 2)).opt)).as (fun x => (x.tok, x.sent, x.reply))
    (fun (a, b, c) => { tok := a, sent := b, reply := c })

/-- A portal. -/
def Codec.portal : Codec Portal :=
  ((Codec.bv 32).pair (Codec.nat.pair (Codec.nat.pair (Codec.tokens.pair (Codec.portalReq.list.pair (Codec.nat.pair
    (Codec.bv 2))))))).as
    (fun x => (x.word, x.base, x.peerJob, x.wire, x.reqs, x.count, x.worst))
    (fun (a, b, c, d, e, f, g) => { word := a, base := b, peerJob := c, wire := d, reqs := e, count := f, worst := g })

/-- A memory-port tile: its queues, its portal and its fault word. -/
def Codec.port : Codec Port :=
  (Codec.cmd.list.pair (Codec.nat.pair (Codec.portal.opt.pair (Codec.bv 64)))).as (fun x => (x.cmds, x.nextId, x.portal, x.fault))
    (fun (a, b, c, d) => { Port.reset with cmds := a, nextId := b, portal := c, fault := d })

/-! ### Watch engines and groups (11 R182) -/

/-- What a member entry holds from its record. -/
def Codec.entryHead : Codec WEntry :=
  ((Codec.bv 14).pair ((Codec.bv 3).pair (Codec.nat.pair ((Codec.bv 12).pair ((Codec.bv 16).pair (Codec.bool.pair
    ((Codec.bv 16).pair (Codec.nat.pair ((Codec.bv 16).list.pair (Codec.nat.pair (Codec.nat.pair (Codec.bool.pair
    Codec.int.list)))))))))))).as
    (fun x => (x.group, x.rank, x.k, x.coff, x.block, x.isOpen, x.e, x.b, x.w, x.rounds, x.stretchMax, x.policy, x.n))
    (fun (a, b, c, d, e, f, g, h, i, j, k, l, m) =>
      { group := a, rank := b, k := c, coff := d, block := e, isOpen := f, e := g, b := h, w := i, rounds := j, stretchMax := k,
        policy := l, n := m, nanMask := 0, masks := [], heard := 0, emitted := 0, round := 0, step := 0, stretch := 0,
        absent := 0, lost := 0, stepping := false, stretching := false, degraded := false, nan := false, sat := false,
        breached := false, selfAbsent := false, events := 0, steps := 0, breaches := 0 })

/-- A member entry. -/
def Codec.wEntry : Codec WEntry :=
  (Codec.entryHead.pair ((Codec.bv 64).pair ((Codec.bv 64).list.pair ((Codec.bv 16).pair ((Codec.bv 16).pair (Codec.nat.pair
    (Codec.nat.pair ((Codec.bv 8).pair ((Codec.bv 8).pair ((Codec.bv 8).pair (Codec.bool.list.pair ((Codec.bv 32).pair
    ((Codec.bv 16).pair (Codec.bv 16)))))))))))))).as
    (fun x => (x, x.nanMask, x.masks, x.heard, x.emitted, x.round, x.step, x.stretch, x.absent, x.lost,
      [x.stepping, x.stretching, x.degraded, x.nan, x.sat, x.breached, x.selfAbsent], x.events, x.steps, x.breaches))
    (fun (a, b, c, d, e, f, g, h, i, j, k, l, m, n) =>
      { a with nanMask := b, masks := c, heard := d, emitted := e, round := f, step := g, stretch := h, absent := i, lost := j,
               stepping := k.getD 0 false, stretching := k.getD 1 false, degraded := k.getD 2 false, nan := k.getD 3 false,
               sat := k.getD 4 false, breached := k.getD 5 false, selfAbsent := k.getD 6 false, events := l, steps := m,
               breaches := n })

/-- An event of a round. -/
def Codec.event : Codec Event :=
  ((Codec.bv 128).pair (Codec.nat.pair (Codec.nat.pair Codec.nat))).as (fun x => (x.packet, x.sub, x.round, x.step))
    (fun (a, b, c, d) => { packet := a, sub := b, round := c, step := d })

/-- A decoder entry. -/
def Codec.dec : Codec Dec :=
  ((Codec.bv 16).pair (Codec.nat.pair (Codec.bool.pair ((Codec.bv 2).pair (Codec.nat.pair Codec.event.opt.list))))).as
    (fun x => (x.unit, x.port, x.tile, x.bank, x.off, x.due))
    (fun (a, b, c, d, e, f) => { unit := a, port := b, tile := c, bank := d, off := e, due := f })

/-- What a group is doing. -/
def Codec.gPhase : Codec GPhase :=
  Codec.nat.as
    (fun
      | .idle => 0
      | .between => 1
      | .round => 2
      | .ending => 3)
    (fun
      | 1 => .between
      | 2 => .round
      | 3 => .ending
      | _ => .idle)

/-- A group: its slot-table entry and its step in progress. -/
def Codec.group : Codec Group :=
  ((Codec.bv 14).pair ((Codec.bv 16).pair ((Codec.bv 16).pair (Codec.nat.pair ((Codec.bv 16).list.pair (Codec.dec.list.pair
    (Codec.gPhase.pair (Codec.nat.pair (Codec.nat.pair (Codec.bool.pair (Codec.nat.pair (Codec.nat.pair (Codec.line.pair
    ((Codec.nat.pair (Codec.bv 128)).list.pair (Codec.event.list.pair (Codec.bool.pair Codec.bool)))))))))))))))).as
    (fun x => (x.num, x.tensor, x.block, x.k, x.members, x.decs, x.phase, x.t0, x.sub, x.breach, x.rounds, x.total, x.desc,
      x.flight, x.sent, x.stopReq, x.everOpen))
    (fun (a, b, c, d, e, f, g, h, i, j, k, l, m, n, o, p, q) =>
      { num := a, tensor := b, block := c, k := d, members := e, decs := f, phase := g, t0 := h, sub := i, breach := j,
        rounds := k, total := l, desc := m, flight := n, sent := o, stopReq := p, everOpen := q })

/-! ### Strands and launches (22 R331) -/

/-- The state of 06 R86. -/
def Codec.mode : Codec Mode :=
  Codec.nat.as
    (fun
      | .idle => 0
      | .ready => 1
      | .waiting => 2
      | .parked => 3
      | .suspended => 4
      | .exited => 5)
    (fun
      | 0 => .idle
      | 1 => .ready
      | 2 => .waiting
      | 3 => .parked
      | 4 => .suspended
      | _ => .exited)

/-- A word of the instruction that waits. -/
def Codec.instr : Codec (Option Instr) :=
  (Codec.bv 32).as (fun i => (i.map (fun j => (encode j).headD 0)).getD 0) (fun w => (decodeWord w).toOption)

/-- A pending wait. -/
def Codec.pend : Codec (Option Pend) :=
  (Codec.instr.pair ((Codec.bv 26).opt.pair (Codec.nat.pair ((Codec.bv 64).pair ((Codec.nat.pair Codec.nat).list.pair
    ((Codec.nat.pair (Codec.nat.pair Codec.nat)).list.pair ((Codec.nat.pair (Codec.nat.pair (Codec.nat.pair Codec.nat))).list.pair
    ((Codec.bv 14).list.pair Codec.nat)))))))).as
    (fun
      | some p => (some p.instr, p.hi, p.stage, p.value, p.cmds, p.walks, p.sends, p.left, p.sum)
      | none => (none, none, 0, 0, [], [], [], [], 0))
    (fun (a, b, c, d, e, f, g, h, i) => a.map (fun j =>
      { instr := j, hi := b, pa := 0, va := 0, place := .none, stage := c, value := d, cmds := e, walks := f, sends := g,
        left := h, sum := i }))

/-- A trap record handed to the supervisor. -/
def Codec.trapRec : Codec TrapRec :=
  ((Codec.bv 64).pair ((Codec.bv 64).pair ((Codec.bv 16).pair ((Codec.bv 8).pair (Codec.bool.pair (Codec.bv 8)))))).as
    (fun x => (x.epc, x.tval, x.unit, x.code, x.pair, x.job))
    (fun (a, b, c, d, e, f) => { epc := a, tval := b, unit := c, code := d, pair := e, job := f })

/-- A strand's registers. -/
def Codec.strandRegs : Codec Strand :=
  (Codec.mode.pair (((Codec.bv 64).vec 32 0).pair ((Codec.bv 64).pair (Codec.bool.pair (Codec.bool.pair ((Codec.bv 9).pair
    ((Codec.bv 64).pair ((Codec.bv 64).pair ((Codec.bv 64).pair ((Codec.bv 16).pair (Codec.bv 64))))))))))).as
    (fun x => (x.mode, x.g, x.pc, x.intrap, x.prio, x.cause, x.epc, x.tval, x.tvec, x.retry, x.scratch))
    (fun (a, b, c, d, e, f, g, h, i, j, k) =>
      { Strand.reset with mode := a, g := b, pc := c, intrap := d, prio := e, cause := f, epc := g, tval := h, tvec := i,
                          retry := j, scratch := k })

/-- A strand. -/
def Codec.strand : Codec Strand :=
  (Codec.strandRegs.pair ((Codec.bv 8).pair (Codec.bool.pair ((Codec.bv 8).pair (Codec.bool.pair (Codec.pend.pair
    (Codec.trapRec.opt.pair (Codec.nats.pair Codec.nat).opt))))))).as
    (fun x => (x, x.rcl, x.running, x.depth, x.declared, x.pend, x.susp, x.yield))
    (fun (a, b, c, d, e, f, g, h) =>
      { a with rcl := b, running := c, depth := d, declared := e, pend := f, susp := g, yield := h })

/-- A task record. -/
def Codec.task : Codec Task :=
  ((Codec.bv 64).pair ((Codec.bv 64).pair ((Codec.bv 64).pair Codec.bool))).as (fun x => (x.entry, x.arg, x.join, x.high))
    (fun (a, b, c, d) => { entry := a, arg := b, join := c, high := d })

/-- A strand entry of a launch record. -/
def Codec.entry : Codec Entry :=
  (Codec.nat.pair (Codec.nat.pair (Codec.nat.pair Codec.bool))).as (fun x => (x.off, x.rcl, x.strand, x.high))
    (fun (a, b, c, d) => { off := a, rcl := b, strand := c, high := d })

/-- A launch record. -/
def Codec.record : Codec Record :=
  ((Codec.bv 64).pair ((Codec.bv 64).pair ((Codec.bv 64).pair ((Codec.bv 64).pair ((Codec.bv 64).pair ((Codec.bv 64).pair
    ((Codec.bv 64).pair ((Codec.bv 64).pair (Codec.nat.pair (Codec.nat.pair (Codec.nat.pair (Codec.bool.pair (Codec.bool.pair
    (Codec.entry.list.pair (Codec.bv 22).list)))))))))))))).as
    (fun x => (x.va, x.next, x.dep, x.done, x.patch, x.param, x.image, x.code, x.a, x.b, x.cls, x.onedie, x.direct, x.entries, x.needs))
    (fun (a, b, c, d, e, f, g, h, i, j, k, l, m, n, o) =>
      { va := a, next := b, dep := c, done := d, patch := e, param := f, image := g, code := h, a := i, b := j, cls := k,
        onedie := l, direct := m, entries := n, needs := o })

/-- A launch: its record, its place in its phase or graph, its plane versions and route plane, and its status. -/
def Codec.launch : Codec Launch :=
  (Codec.record.pair (Codec.nat.pair (Codec.bool.pair (Codec.bool.pair (Codec.nats.pair ((Codec.bv 4).pair ((Codec.bv 4).pair
    ((Codec.bv 64).list.pair ((Codec.bv 7).pair ((Codec.bv 64).pair (Codec.nat.pair Codec.bool))))))))))).as
    (fun x => (x.record, x.parent, x.parentVa, x.installed, x.named, x.ver, x.rver, x.routes, x.status, x.fword, x.faultAt, x.halted))
    (fun (a, b, c, d, e, f, g, h, i, j, k, l) =>
      { Launch.blank with record := a, parent := b, parentVa := c, installed := d, named := e, ver := f, rver := g, routes := h,
                          status := i, fword := j, faultAt := k, halted := l })

end Sys2Proof.Machine
end

