-- ==== Sys2Proof/Machine/Image.lean ====
section
/-! DEFINITION. Configuration images: reading one, and checking it in image order (04 R65–R72; 09 R139, R155; 11 R166,
R167; 12 R193; 23 R349). Nothing here changes the region. -/

namespace Sys2Proof.Machine

/-! ### Reading (04 R72) -/

/-- One cell of an image as read: its contents, or the trap its address gives. -/
structure ICell where
  cell : Cell
  trap : Option (BitVec 8 × Word64)
deriving DecidableEq, Repr

/-- Read n cells from an address on the load path; reading stops at the first address that traps. None: an arriving
page. -/
def State.readCells (s : State) (a : Word64) : Nat → Option (List ICell) × State
  | 0 => (some [], s)
  | n + 1 =>
    match s.prep a 0 false 1 with
    | (.trap code tval, s1) => (some [{ cell := freshCell 0 2, trap := some (code, tval) }], s1)
    | (.stall, s1) => (none, s1)
    | (.ok pa va, s1) =>
      if badFe (s1.mem.sideAt pa).fe then
        (some [{ cell := freshCell 0 2, trap := some (0x1F, (UnitRef.slice (homeOf pa)).abs.zeroExtend 64) }],
          s1.feNote pa va s1.cur.job.toNat)
      else
      let r := s1.readCells (a + 32) n
      (r.1.map (fun t => { cell := s1.mem.cell pa, trap := none } :: t), r.2)
    | (.disc _ _ _ _, s1) =>
      let r := s1.readCells (a + 32) n
      (r.1.map (fun t => { cell := { data := 0, fe := 1, w := false, code := 0 }, trap := none } :: t), r.2)

/-- A failure of a check: "configuration rejected" at a byte offset, or a trap of its own. -/
inductive Rej where
  | at_ (off : Nat)
  | trap (code : BitVec 8) (tval : Word64)
deriving DecidableEq, Repr

/-- The outcome of a check. -/
abbrev Chk (α : Type) := Except Rej α

/-- How a check is made: it holds, or the image is rejected at an offset. -/
abbrev Demand := Bool → Nat → Chk Unit

/-- An image as read, with its virtual address. -/
structure Img where
  va    : Word64
  cells : List ICell
deriving DecidableEq, Repr

/-- Cell k as the loader interprets it: its code is checked (04 R72). -/
def Img.word (g : Img) (k : Nat) : Chk CellData :=
  match g.cells[k]? with
  | none => .error (.at_ 16)
  | some c =>
    match c.trap with
    | some (code, tval) => .error (.trap code tval)
    | none =>
      match (check c.cell.data c.cell.code).data? with
      | some d => .ok d
      | none => .error (.trap 0x07 (cellVa (g.va.toNat + 32 * k)))

/-- Cell k as it is carried, unchecked (04 R70). -/
def Img.raw (g : Img) (k : Nat) : Chk Cell :=
  match g.cells[k]? with
  | none => .error (.at_ 16)
  | some c =>
    match c.trap with
    | some (code, tval) => .error (.trap code tval)
    | none => .ok c.cell

/-- The n interpreted cells from k can be read and pass their checks; else the first of them that does not (04 R72). -/
def Img.sound (g : Img) (k : Nat) : Nat → Chk Unit
  | 0 => .ok ()
  | n + 1 => do
    let _ ← g.word k
    g.sound (k + 1) n

/-- n interpreted cells from k, as one number: a cell that fails its check counts as zero, and `need` or `sound` reports
it. -/
def Img.words (g : Img) (k : Nat) : Nat → Nat
  | 0 => 0
  | n + 1 => ((g.word k).toOption.getD 0).toNat + 2 ^ 256 * g.words (k + 1) n

/-- A check of a section whose first interpreted cell is k: where it fails at an offset, a cell up to there that cannot be
interpreted fails first, in image order (04 R72). -/
def Img.need (g : Img) (k : Nat) (c : Bool) (off : Nat) : Chk Unit :=
  if c then .ok ()
  else do
    g.sound k (off / 32 + 1 - k)
    .error (.at_ off)

/-- n carried cells from k. -/
def Img.raws (g : Img) (k : Nat) : Nat → Chk (List Cell)
  | 0 => .ok []
  | n + 1 => do
    let c ← g.raw k
    let t ← g.raws (k + 1) n
    return c :: t

/-- Bytes lo to lo+n−1 of a number. -/
def nbytes (x lo n : Nat) : Nat := (x >>> (8 * lo)) % 2 ^ (8 * n)

/-- The first of n words of w bytes from byte lo of x that is not zero, as a byte position. -/
def firstNonzero (x lo w : Nat) : Nat → Option Nat
  | 0 => none
  | n + 1 => if nbytes x lo w = 0 then firstNonzero x (lo + w) w n else some lo

/-! ### What a checked image holds -/

/-- A memory-tile setup (09 R139). -/
structure Setup where
  mode  : BitVec 2
  qbase : Nat
  qsize : Nat
  lrow  : Nat
  bufs  : List Buf
deriving DecidableEq, Repr

/-- A tensor to enter or remove (09 R155, R156). -/
structure Tensor where
  id   : BitVec 16
  desc : Option (BitVec 512)
deriving DecidableEq, Repr

/-- A checked image. Units are flat numbers; `early` lists the member entries that stand before the slot table, by tile, entry
and offset. -/
structure Stage1 where
  standby  : Bool
  rver     : BitVec 4
  ver      : BitVec 4
  routes   : List Word64
  planes   : List (Nat × Plane)
  preloads : List (Nat × Nat × List Token)
  contents : List (Nat × Nat × List Cell)
  setups   : List (Nat × Setup)
  groups   : List Group
  groupOff : Nat
  entries  : List (Nat × Nat × WEntry)
  early    : List (Nat × Nat × Nat)
  tensors  : List Tensor
  portals  : List (Nat × Portal)
  slotLen  : Nat
  decMax   : Nat
deriving DecidableEq, Repr

/-! ### Routes (04 R68) -/

/-- A unit of the region that the launch's need mask names. -/
def Launch.own (l : Launch) (id : Nat) : Option UnitRef :=
  match l.unit? id with
  | some u => if l.needs u then some u else none
  | none => none

/-- The source of a route entry is one that R68 lists. -/
def Launch.srcOk (l : Launch) (r : Word64) : Bool :=
  match l.own (routeSrc r).1 with
  | some (.element _) => (routeSrc r).2 < 8
  | some (.tile _) => (routeSrc r).2 < 4
  | some (.port _) => (routeSrc r).2 < 2
  | _ => false

/-- The destination of a route entry is one that R68 lists; intersection and converting inputs are elements' (log 18). -/
def Launch.dstOk (l : Launch) (r : Word64) : Bool :=
  match l.own (routeDst r).1 with
  | some (.element _) => (routeDst r).2 < 8
  | some (.tile _) => (routeDst r).2 < 4 && routeMode r == 0
  | some (.port _) => (routeDst r).2 == 1 && routeMode r == 0
  | _ => false

/-- The fields of a route entry agree with its mode. -/
def fieldsOk (r : Word64) : Bool :=
  let m := routeMode r
  m < 4 && bits r.toNat 0 6 == 0 && (m == 1 || bits r.toNat 16 4 == 0) && (m == 2 || routePair r == 0) &&
    (m == 3 || bits r.toNat 6 7 == 0) && (m != 3 || (1 ≤ routeTag r && routeTag r ≤ 12))

/-- A port of a memory-port tile is used as its kind allows; `portals` are the tiles the image sets a portal up on. -/
def Launch.portsOk (l : Launch) (portals : List Nat) (r : Word64) : Bool :=
  (match l.own (routeSrc r).1 with
    | some (.port p) =>
      if (routeSrc r).2 = 0 then routeMode r == 0 && (match l.own (routeDst r).1 with
        | some (.tile _) => true
        | _ => false)
      else portals.contains p && routeMode r == 0
    | _ => true) &&
  (match l.own (routeDst r).1 with
    | some (.port p) => portals.contains p
    | _ => true)

/-- Entry r fits with the entries before it. -/
def routeFits (l : Launch) (before : List Word64) (r : Word64) : Bool :=
  let isGen (x : Nat × Nat) : Bool := match l.own x.1 with
    | some (.tile _) => true
    | _ => false
  !(before.any (fun b => routeDst b == routeDst r)) &&
  (before.filter (fun b => routeSrc b == routeSrc r)).length < 16 &&
  !(isGen (routeSrc r) && (before.any (fun b => routeDst b == routeSrc r) || routeDst r == routeSrc r)) &&
  !(isGen (routeDst r) && before.any (fun b => routeSrc b == routeDst r)) &&
  (routeMode r != 1 || ((routeSrc r).1 == (routeDst r).1 && (match l.own (routeSrc r).1 with
    | some (.element _) => true
    | _ => false))) &&
  (routeMode r != 2 || (routeDst r).2 != routePair r)

/-- An intersection entry has its partner in the table. -/
def partnerOk (all : List Word64) (r : Word64) : Bool :=
  routeMode r != 2 ||
    all.any (fun b => routeMode b == 2 && routeDst b == ((routeDst r).1, routePair r) && routePair b == (routeDst r).2)

/-- The decoder channels of groups, as route destinations. -/
def decoderPorts (gs : List Group) : List (Nat × Nat) :=
  gs.flatMap (fun g => (g.decs.filter (fun d => !d.tile)).map (fun d => (d.unit.toNat, d.port)))

/-- Check the entries of a route table in order. The partner of an intersection entry may stand in a later cell, so `whole`
first asks that every cell of the section can be read. -/
def checkRoutes (demand : Demand) (whole : Chk Unit) (l : Launch) (portals : List Nat) (decs : List (Nat × Nat))
    (all : List Word64) : List Word64 → List Word64 → Nat → Chk Unit
  | [], _, _ => .ok ()
  | r :: t, before, off => do
    demand (l.srcOk r && l.dstOk r && fieldsOk r && l.portsOk portals r && routeFits l before r &&
      !decs.contains (routeDst r)) off
    if partnerOk (before ++ all) r then .ok ()
    else do
      whole
      .error (.at_ off)
    checkRoutes demand whole l portals decs all t (before ++ [r]) (off + 8)

/-! ### Planes (04 R64, R65, R69) -/

/-- A trigger entry that a valid slot names is well formed (04 R65). -/
def trigOk (t : Word64) : Bool :=
  bits t.toNat 16 2 == 0 && (trigValue t &&& ~~~(trigMask t)) == 0 && (trigSet t &&& trigClear t) == 0 &&
  (trigCondA t != 0 || trigChanA t == 0) && (trigCondB t != 0 || trigChanB t == 0) && (trigRoom t || trigOut t == 0) &&
  (trigCondA t == 0 || trigCondB t == 0 || trigChanA t != trigChanB t)

/-- Check the valid slots in order: each decodes, and names a trigger entry of its own. The entries named so far. -/
def checkSlots (demand : Demand) (valid : BitVec 32) (off : Nat) : List Word32 → Nat → List Nat → Chk (List Nat)
  | [], _, named => .ok named
  | w :: t, n, named =>
    if !valid.getLsbD n then checkSlots demand valid off t (n + 1) named
    else do
      let k := (fld w 26 6).toNat
      demand ((decodeSlot w).toOption.isSome && !named.contains k) (off + 4 * n)
      checkSlots demand valid off t (n + 1) (k :: named)

/-- Check the named trigger entries in order. -/
def checkTrigs (demand : Demand) (named : List Nat) (off : Nat) : List Word64 → Nat → Chk Unit
  | [], _ => .ok ()
  | t :: r, n => do
    demand (!named.contains n || trigOk t) (off + 8 * n)
    checkTrigs demand named off r (n + 1)

/-- An opcode plane from its 21 cells (04 R69). -/
def checkPlane (demand : Demand) (x off : Nat) (ver : BitVec 4) : Chk Plane := do
  demand (nbytes x 6 1 / 16 == 0) (off + 6)
  demand (nbytes x 7 1 / 4 == 0) (off + 7)
  demand (nbytes x 8 24 == 0) (off + 8)
  let slots := (List.range 32).map (fun n => (BitVec.ofNat 32 (nbytes x (32 + 4 * n) 4) : Word32))
  let trigs := (List.range 64).map (fun n => (BitVec.ofNat 64 (nbytes x (160 + 8 * n) 8) : Word64))
  let valid : BitVec 32 := BitVec.ofNat 32 (nbytes x 0 4)
  let named ← checkSlots demand valid (off + 32) slots 0 []
  checkTrigs demand named (off + 160) trigs 0
  return { ver := ver, valid := valid, initQ := BitVec.ofNat 16 (nbytes x 4 2), done := BitVec.ofNat 4 (nbytes x 6 1),
           bank := BitVec.ofNat 2 (nbytes x 7 1), slots := slots, trigs := trigs, preloads := [] }

/-! ### Memory-tile setups (09 R139) -/

/-- Two ranges of bytes overlap. -/
def overlaps (a n b m : Nat) : Bool := a < b + m && b < a + n && 0 < n && 0 < m

/-- The bytes of a queue area. -/
def Setup.queue (u : Setup) : Nat × Nat :=
  (u.qbase, if u.mode = 1 then u.qsize else if u.mode = 2 then u.qsize * u.lrow else 0)
/-- The bytes of a buffer. -/
def Buf.area (b : Buf) : Nat × Nat := (b.base, b.slots * b.slotBytes)

/-- A buffer descriptor from its 16 bytes at byte lo of the payload. -/
def checkBuf (demand : Demand) (x lo off : Nat) (mode : Nat) (q : Nat × Nat) (before : List Buf) : Chk Buf := do
  let base := nbytes x lo 4
  let sb := nbytes x (lo + 4) 4
  let n := nbytes x (lo + 8) 1
  let f := nbytes x (lo + 9) 1
  if n = 0 then
    demand (nbytes x lo 16 == 0) (off + lo)
    return Buf.unused
  else
    demand (mode == 0) (off + lo)
    demand (base % 256 == 0) (off + lo)
    demand (sb % 64 == 0 && 64 ≤ sb) (off + lo + 4)
    demand (2 ≤ n && n ≤ 4) (off + lo + 8)
    demand (f ≤ n) (off + lo + 9)
    demand (nbytes x (lo + 10) 6 == 0) (off + lo + 10)
    demand (base + n * sb ≤ 2 ^ 20) (off + lo)
    demand (!overlaps base (n * sb) q.1 q.2 && !before.any (fun b => overlaps base (n * sb) b.area.1 b.area.2)) (off + lo)
    return { Buf.unused with base := base, slotBytes := sb, slots := n, free := n - f, filled := f }

/-- The eight buffer descriptors in order. -/
def checkBufs (demand : Demand) (x off mode : Nat) (q : Nat × Nat) : Nat → List Buf → Chk (List Buf)
  | 0, l => .ok l
  | n + 1, l => do
    let b ← checkBuf demand x (32 + 16 * (7 - n)) off mode q l
    checkBufs demand x off mode q n (l ++ [b])

/-- A setup from its five cells. A ring row of no bytes, a multiple of 64, is rejected as out of its range (log 92). -/
def checkSetup (demand : Demand) (x off : Nat) : Chk Setup := do
  let mode := nbytes x 0 2
  let qb := nbytes x 4 4
  let qs := nbytes x 8 4
  let lr := nbytes x 12 4
  demand (mode ≤ 2) off
  demand (nbytes x 2 2 == 0) (off + 2)
  demand (if mode = 0 then qb == 0 else qb % 64 == 0) (off + 4)
  demand (if mode = 0 then qs == 0 else if mode = 1 then qs % 64 == 0 else 2 ≤ qs && qs ≤ 1024) (off + 8)
  demand (if mode = 2 then lr % 64 == 0 && lr != 0 else lr == 0) (off + 12)
  let u : Setup := { mode := BitVec.ofNat 2 mode, qbase := qb, qsize := qs, lrow := lr, bufs := [] }
  demand (u.queue.1 + u.queue.2 ≤ 2 ^ 20) (off + 4)
  demand (nbytes x 16 16 == 0) (off + 16)
  let bs ← checkBufs demand x off mode u.queue 8 []
  return { u with bufs := bs }

/-! ### Watch sections (11 R166, R167; 12 R193) -/

/-- The tile position of a unit of the module: column and row, counted over the whole module (02 R20, R21). -/
def tilePos (u : UnitRef) : Nat × Nat :=
  let c := u.cluster.getD 0
  match u with
  | .element e => (3 * gridX c + (if e % 12 < 6 then 0 else 2), 6 * gridY c + e % 6)
  | .tile t => (3 * gridX c + 1, 6 * gridY c + t % 6)
  | _ => (3 * gridX c, 6 * gridY c)

/-- The cycles that seams add between two grid coordinates of one axis: 2 inside a die, 8 between dies (02 R26). -/
def seamCost (a b : Nat) : Nat :=
  ((List.range (Nat.max a b)).filter (fun i => Nat.min a b ≤ i)).foldl (fun n i => n + (if (i + 1) % 4 = 0 then 8 else 2)) 0

/-- The distance of two naturals. -/
def distance (a b : Nat) : Nat := if a ≤ b then b - a else a - b

/-- The cycles of a packet's path from one unit to another: hops and seams (02 R26). -/
def latency (a b : UnitRef) : Nat :=
  let p := tilePos a
  let q := tilePos b
  let c := a.cluster.getD 0
  let d := b.cluster.getD 0
  distance p.1 q.1 + distance p.2 q.2 + seamCost (gridX c) (gridX d) + seamCost (gridY c) (gridY d)

/-- The identifiers that a group names: its members, then its decoders. -/
def Group.ids (g : Group) : List Nat := g.members.map (·.toNat) ++ g.decs.map (fun d => d.unit.toNat)

/-- The rank that may emit in a subslot (11 R171). -/
def Group.sender (g : Group) (sub : Nat) : Nat := if sub % 2 = 0 then sub / 2 else (sub / 2 + 1) % Nat.max 1 g.k

/-- The cycles of the packet of a subslot of a group to receiver n among `ids`: its path, and the waiting cycles that the slot
tables reserve for it, a free function of image and placement (11 R167; log 17). -/
def Launch.packetLat (l : Launch) (gs : List Group) (g : Group) (sub n : Nat) : Nat :=
  match l.unit? (g.ids.getD (g.sender sub) 0), l.unit? (g.ids.getD n 0) with
  | some a, some b => latency a b + Config.slotWait l.clusters (gs.map Group.ids) g.num.toNat sub n
  | _, _ => 0

/-- The largest of some packets' latencies to some receivers, over the subslots of a round. -/
def Launch.worstLat (l : Launch) (gs : List Group) (g : Group) (dest : Nat → Bool) : Nat :=
  ((List.range (2 * g.k)).flatMap (fun j => ((List.range g.ids.length).filter (fun n => dest n && n != g.sender j)).map (fun n =>
    l.packetLat gs g j n))).foldl Nat.max 0

/-- The largest latency from one member of a group to another. -/
def Launch.memberLat (l : Launch) (gs : List Group) (g : Group) : Nat := l.worstLat gs g (fun n => n < g.members.length)

/-- The largest latency from a member of a group to a decoder. -/
def Launch.decoderLat (l : Launch) (gs : List Group) (g : Group) : Nat := l.worstLat gs g (fun n => g.members.length ≤ n)

/-- L of a launch's groups (11 R167). -/
def Launch.subslot (l : Launch) (gs : List Group) : Nat := (gs.map (l.memberLat gs)).foldl Nat.max 0 + 2
/-- D of a launch's groups. -/
def Launch.farthest (l : Launch) (gs : List Group) : Nat := (gs.map (l.decoderLat gs)).foldl Nat.max 0

/-- The areas of a tile that its setup uses. -/
def setupAreas (u : Setup) : List (Nat × Nat) := u.queue :: u.bufs.map Buf.area
/-- The decode areas of groups in tile t. -/
def decodeAreas (l : Launch) (gs : List Group) (t : Nat) : List (Nat × Nat) :=
  gs.flatMap (fun g => (g.decs.filter (fun d => d.tile && l.unit? d.unit.toNat == some (.tile t))).map (fun d => (d.off, 256)))
/-- The count areas of the member entries read for tile t. -/
def countAreas (st : Stage1) (t : Nat) : List (Nat × Nat) :=
  (st.entries.filter (fun q => q.1 == t)).map (fun q => (256 * q.2.2.coff.toNat, 256))
/-- An area overlaps one of a list. -/
def hits (a : Nat × Nat) (l : List (Nat × Nat)) : Bool := l.any (fun b => overlaps a.1 a.2 b.1 b.2)

/-- The members of a group entry in order: memory tiles of the region, distinct, zero at K and above. -/
def checkMembers (demand : Demand) (l : Launch) (x off k : Nat) : Nat → List (BitVec 16) → Chk (List (BitVec 16))
  | 0, ms => .ok ms
  | n + 1, ms => do
    let i := 7 - n
    let m := nbytes x (8 + 2 * i) 2
    if i < k then
      demand ((match l.own m with
        | some (.tile _) => true
        | _ => false) && !ms.contains (BitVec.ofNat 16 m)) (off + 8 + 2 * i)
      checkMembers demand l x off k n (ms ++ [BitVec.ofNat 16 m])
    else
      demand (m == 0) (off + 8 + 2 * i)
      checkMembers demand l x off k n ms

/-- The decoders of a group entry in order. A channel that is also a route's destination is reported at UNIT, the first of the
fields that name it, and a decode area that meets a count area of an entry read before at OFFSET. -/
def checkDecs (demand : Demand) (l : Launch) (st : Stage1) (x off nd : Nat) : Nat → List Dec → Chk (List Dec)
  | 0, ds => .ok ds
  | n + 1, ds => do
    let i := 7 - n
    let lo := 32 + 8 * i
    let o := off + lo
    if nd ≤ i then
      demand (nbytes x lo 8 == 0) o
      checkDecs demand l st x off nd n ds
    else
      let u := nbytes x lo 2
      let port := nbytes x (lo + 2) 1
      let flags := nbytes x (lo + 3) 1
      let area := nbytes x (lo + 4) 4
      let tile := flags.testBit 0
      match l.own u with
      | some (.element _) =>
        demand (!tile) o
        demand (!(st.routes.any (fun r => routeDst r == (u, port)))) o
        demand (port < 8) (o + 2)
        demand (flags / 8 == 0) (o + 3)
        demand (area == 0) (o + 4)
      | some (.tile t) =>
        demand tile o
        demand (port == 0) (o + 2)
        demand (flags / 2 == 0) (o + 3)
        let su := tabGet { mode := 0, qbase := 0, qsize := 0, lrow := 0, bufs := [] } st.setups t
        demand (su.mode == 0) o
        demand (area % 32 == 0 && area + 256 ≤ 2 ^ 20 && !hits (area, 256) (setupAreas su) &&
          !hits (area, 256) (decodeAreas l (st.groups ++ [{ emptyGroup with decs := ds }]) t ++ countAreas st t)) (o + 4)
      | _ => demand false o
      checkDecs demand l st x off nd n (ds ++
        [{ unit := BitVec.ofNat 16 u, port := port, tile := tile, bank := BitVec.ofNat 2 (flags / 2), off := area, due := [] }])
where
  /-- A group with nothing in it. -/
  emptyGroup : Group :=
    { num := 0, tensor := 0, block := 0, k := 0, members := [], decs := [], phase := .idle, t0 := 0, sub := 0,
      breach := false, rounds := 0, total := 0, desc := 0, flight := [], sent := [], stopReq := false, everOpen := false }

/-- The entry of one group, three cells at an offset (11 R166). -/
def checkGroup (demand : Demand) (l : Launch) (st : Stage1) (x off : Nat) : Chk Group := do
  let num := nbytes x 0 2
  demand (num < 16384 && (match st.groups.getLast? with
    | some g => g.num.toNat < num
    | none => true)) off
  let k := nbytes x 6 1
  let nd := nbytes x 7 1
  demand (2 ≤ k && k ≤ 8) (off + 6)
  demand (nd ≤ 8) (off + 7)
  let ms ← checkMembers demand l x off k 8 []
  demand (nbytes x 24 8 == 0) (off + 24)
  let ds ← checkDecs demand l st x off nd 8 []
  return { checkDecs.emptyGroup with num := BitVec.ofNat 14 num, tensor := BitVec.ofNat 16 (nbytes x 2 2),
                                     block := BitVec.ofNat 16 (nbytes x 4 2), k := k, members := ms, decs := ds }

/-- The entries of a slot-table section. -/
def checkGroups (demand : Demand) (l : Launch) (x off : Nat) : Nat → Nat → Stage1 → Chk Stage1
  | 0, _, st => .ok st
  | n + 1, i, st => do
    let g ← checkGroup demand l st (nbytes x (96 * i) 96) (off + 96 * i)
    checkGroups demand l x off n (i + 1) { st with groups := st.groups ++ [g] }

/-- The member entry as a tile holds it when it is placed (12 R195). -/
def placedEntry (num : BitVec 14) (k : Nat) (block : BitVec 16) (rank coff : Nat) : WEntry :=
  { group := num, rank := BitVec.ofNat 3 rank, k := k, coff := BitVec.ofNat 12 coff, block := block, isOpen := false,
    e := 0, b := 0, w := [], rounds := 0, stretchMax := 0, policy := false, n := [], nanMask := 0, masks := [], heard := 0,
    emitted := 0, round := 0, step := 0, stretch := 0, absent := 0, lost := 0, stepping := false, stretching := false,
    degraded := false, nan := false, sat := false, breached := false, selfAbsent := false, events := 0, steps := 0,
    breaches := 0 }

/-- The group's member of a rank is the tile. -/
def Launch.isMember (l : Launch) (g : Group) (rank t : Nat) : Bool :=
  match l.unit? (g.members.getD rank 0).toNat with
  | some u => u == .tile t
  | none => false

/-- One entry of a member section of tile t (12 R193). Before the slot table its group is taken on trust; `lateEntries` looks at
it when the table has come. -/
def checkEntry (demand : Demand) (l : Launch) (st : Stage1) (t : Nat) (e off : Nat) : Chk Stage1 := do
  let num := bits e 50 14
  let rank := bits e 47 3
  let idx := bits e 40 6
  let coff := bits e 28 12
  demand (bits e 46 1 == 0 && bits e 0 28 == 0) off
  demand (!st.entries.any (fun y => y.1 == t && (y.2.1 == idx || y.2.2.group.toNat == num))) off
  let su := tabGet { mode := 0, qbase := 0, qsize := 0, lrow := 0, bufs := [] } st.setups t
  demand (!hits (256 * coff, 256) (setupAreas su ++ decodeAreas l st.groups t)) off
  if st.groups.isEmpty then
    return { st with entries := st.entries ++ [(t, idx, placedEntry (BitVec.ofNat 14 num) 0 0 rank coff)],
                     early := st.early ++ [(t, idx, off)] }
  else
    match st.groups.find? (fun g => g.num.toNat == num) with
    | none => do
      demand false off
      return st
    | some g =>
      demand (rank < g.k && l.isMember g rank t) off
      return { st with entries := st.entries ++ [(t, idx, placedEntry g.num g.k g.block rank coff)] }

/-- The entries of a member section in order. -/
def checkEntries (demand : Demand) (l : Launch) (t x off : Nat) : Nat → Nat → Stage1 → Chk Stage1
  | 0, _, st => .ok st
  | n + 1, i, st => do
    let st1 ← checkEntry demand l st t (nbytes x (8 * i) 8) (off + 8 * i)
    checkEntries demand l t x off n (i + 1) st1

/-- Why a member entry that stood before the slot table does not agree with it, as the offset of the word read later (12 R193):
the table's header for an absent group, the group's K for its rank, or the MEMBER of its rank. -/
def entryBad (l : Launch) (gs : List Group) (header : Nat) (t : Nat) (w : WEntry) : Option Nat :=
  match gs.findIdx? (fun g => g.num == w.group) with
  | none => some header
  | some n =>
    match gs[n]? with
    | none => some header
    | some g =>
      let at_ := header + 32 + 96 * n
      if g.k ≤ w.rank.toNat then some (at_ + 6)
      else if l.isMember g w.rank.toNat t then none
      else some (at_ + 8 + 2 * w.rank.toNat)

/-- The member entries that stood before the slot table take their groups' K and block, or the image is rejected at the first
word of the table that one of them contradicts. -/
def lateEntries (demand : Demand) (l : Launch) (header : Nat) (st : Stage1) : Chk Stage1 := do
  let bad := st.entries.filterMap (fun y => entryBad l st.groups header y.1 y.2.2)
  match bad with
  | [] => .ok ()
  | o :: t => demand false (t.foldl Nat.min o)
  return { st with early := [], entries := st.entries.map (fun y =>
    match st.groups.find? (fun g => g.num == y.2.2.group) with
    | some g => (y.1, y.2.1, { y.2.2 with k := g.k, block := g.block })
    | none => y) }

/-! ### Tensor descriptors (09 R155, R156) -/

/-- The fields from E to POLICY of a descriptor, which are zero with WATCH clear, and its reserved end: byte and size. -/
def watchFields : List (Nat × Nat) :=
  [(32, 2), (34, 1), (35, 1)] ++ (List.range 8).map (fun i => (36 + 2 * i, 2)) ++ [(52, 1), (53, 1), (54, 1), (55, 9)]

/-- The field of a descriptor that is out of its range, if one is, or the ID of one whose entry is present (09 R155, R156). -/
def tensorBad (d : Line) (present : Bool) : Option Nat :=
  let x := d.toNat
  let rank := tRank d
  let dim (i : Nat) : Nat := nbytes x (12 + 4 * i) 4
  let w := nbytes x 28 4
  if nbytes x 0 8 % 32 ≠ 0 || 2 ^ 52 ≤ nbytes x 0 8 then some 0
  else if nbytes x 8 2 = 0 || present then some 8
  else if nbytes x 10 1 = 0 || 12 < nbytes x 10 1 then some 10
  else if rank = 0 || 4 < rank then some 11
  else match (List.range 4).find? (fun i => if i < rank then dim i == 0 else dim i != 1) with
    | some i => some (12 + 4 * i)
    | none =>
      if 1 < w then some 28
      else if w = 0 then
        (watchFields.find? (fun f => nbytes x f.1 f.2 != 0)).map (fun f => f.1)
      else
        let e := sval 16 (nbytes x 32 2)
        if e < -149 || 127 < e then some 32
        else if 15 < nbytes x 34 1 then some 34
        else if nbytes x 35 1 < 2 || 8 < nbytes x 35 1 then some 35
        else if nbytes x 52 1 = 0 || 16 < nbytes x 52 1 then some 52
        else if 1 < nbytes x 54 1 then some 54
        else if nbytes x 55 9 = 0 then none else some 55

/-- The ranges of two tensors overlap. -/
def tensorsMeet (a b : Line) : Bool := overlaps (tBase a) (tBytes a) (tBase b) (tBytes b)

/-- The job's tensor table with one descriptor entered or removed, as TDESC does it; `busy` are the IDs that an open
watch group uses. -/
def enterTensor (tab : List (BitVec 16 × BitVec 512)) (busy : List (BitVec 16)) (d : Line) :
    Except Nat (List (BitVec 16 × BitVec 512)) :=
  let id : BitVec 16 := BitVec.ofNat 16 (tId d)
  let present := tab.any (fun t => t.1 == id)
  if tRank d = 0 && nbytes d.toNat 11 1 = 0 then
    if !present || busy.contains id then .error 8 else .ok (tab.filter (fun t => t.1 != id))
  else
    match tensorBad d present with
    | some o => .error o
    | none =>
      if tab.any (fun t => tensorsMeet t.2 d) then .error 0
      else if 256 ≤ tab.length then .error 0
      else .ok (tab ++ [(id, d)])

/-- The IDs that an open watch group of the job uses. -/
def State.busyTensors (s : State) (job : Nat) : List (BitVec 16) :=
  (s.launches.filter (fun l => l.job == job)).flatMap (fun l =>
    (l.groups.filter (fun g => s.groupOpen l g)).map (fun g => g.tensor))

/-! ### Portals (23 R349) -/

/-- The die of UALink port n (23 R349). -/
def linkDie (n : Nat) : Nat := [0, 1, 2, 3, 5, 6, 7, 8].getD (n / 2) 0

/-- A portal setup of tile p: kind-specific word w, cell x, offset of the section header (23 R349). Checks of the header's target
come before those of its word. BASE binds a PUT alone, and PEERJOB a peer. -/
def State.checkPortal (s : State) (demand : Demand) (l : Launch) (p w x off : Nat) : Chk Portal := do
  let op := bits w 0 4
  let tgt := bits w 5 5
  let fe := bits w 10 2
  demand l.record.direct off
  demand (16 < tgt || p / 48 == (if tgt = 0 then 4 else linkDie (tgt - 1))) (off + 2)
  demand (11 < op || (if op = 11 then 2 else 3) ≤ s.access (targetPortal p) l.job) (off + 2)
  demand (w / 2 ^ 12 == 0 && op ≤ 11 && tgt ≤ 16 && (if op = 11 then fe ≤ 1 else fe == 0) &&
    (tgt != 0 || op == 0 || op == 8 || op == 10)) (off + 8)
  let peer := nbytes x 8 2
  demand (op != 11 || nbytes x 0 8 % 64 == 0) (off + 32)
  demand (tgt == 0 || (1 ≤ peer && peer ≤ 192)) (off + 40)
  demand (nbytes x 10 22 == 0) (off + 42)
  return { word := BitVec.ofNat 32 w, base := nbytes x 0 8, peerJob := peer, wire := [], reqs := [], count := 0, worst := 0 }

/-! ### Sections (04 R67) -/

/-- The tiles that the image sets a portal up on, from its section headers. -/
def Img.portals (g : Img) (l : Launch) : Nat → Nat → List Nat
  | 0, _ => []
  | n + 1, k =>
    match g.word k with
    | .error _ => []
    | .ok d =>
      let x := d.toNat
      let t := g.portals l n (k + 1 + nbytes x 4 4)
      if nbytes x 0 2 = 9 then (match l.own (nbytes x 2 2) with
        | some (.port p) => p :: t
        | _ => t) else t

/-- Tokens of a preload: cell pairs with the section's tag, bank 0, and the image's version (04 R70). -/
def preloadTokens (tag : Nat) (ver : BitVec 4) : List Cell → List Token
  | a :: b :: t =>
    { data := b.data ++ a.data, code0 := a.code, code1 := b.code, tag := BitVec.ofNat 4 tag, bank := 0, fin := false,
      ver := ver, sw := false } :: preloadTokens tag ver t
  | _ => []

/-- The target of a section: 0 where the kind wants none, or a unit of the region in the need mask. -/
def checkTarget (l : Launch) (kind tgt off : Nat) : Chk (Option UnitRef) :=
  let unit (ok : UnitRef → Bool) : Chk (Option UnitRef) :=
    match l.own tgt with
    | some u => if ok u then .ok (some u) else .error (.at_ (off + 2))
    | none => .error (.at_ (off + 2))
  match kind with
  | 1 | 6 | 8 => if tgt = 0 then .ok none else .error (.at_ (off + 2))
  | 2 | 3 => unit (fun u => match u with
    | .element _ => true
    | _ => false)
  | 4 | 5 | 7 => unit (fun u => match u with
    | .tile _ => true
    | _ => false)
  | 9 => unit (fun u => match u with
    | .port _ => true
    | _ => false)
  | _ => .error (.at_ off)

/-- One section, whose header is cell k (04 R67–R72). The spec does not say that a target has one section of a kind: of two, the
later replaces the earlier (log 84). -/
def State.checkSection (s : State) (l : Launch) (g : Img) (portals : List Nat) (total k : Nat) (st : Stage1) :
    Chk (Nat × Stage1) := do
  let h ← g.word k
  let x := h.toNat
  let off := 32 * k
  let kind := nbytes x 0 2
  let len := nbytes x 4 4
  let w := nbytes x 8 4
  let p := k + 1
  let demand : Demand := g.need k
  demand (1 ≤ kind && kind ≤ 9 && (!st.standby || kind == 2 || kind == 3)) off
  let u ← checkTarget l kind (nbytes x 2 2) off
  demand (p + len ≤ total) (off + 4)
  let rest : Chk Unit := demand (nbytes x 12 20 == 0) (off + 12)
  let next := p + len
  match kind, u with
  | 1, _ =>
    demand (len == (w + 3) / 4) (off + 4)
    demand (1 ≤ w && w ≤ 4096) (off + 8)
    rest
    let y := g.words p len
    let rs := (List.range w).map (fun i => (BitVec.ofNat 64 (nbytes y (8 * i) 8) : Word64))
    checkRoutes demand (g.sound p len) l portals (decoderPorts st.groups) rs rs st.routes (off + 32)
    demand ((firstNonzero y (8 * w) 8 (4 * len - w)).isNone) (off + 32 + (firstNonzero y (8 * w) 8 (4 * len - w)).getD 0)
    g.sound p len
    return (next, { st with routes := st.routes ++ rs })
  | 2, some (.element e) =>
    demand (!st.standby || (s.element e).ver != st.ver) (off + 2)
    demand (len == 21) (off + 4)
    demand (w == 0) (off + 8)
    rest
    let y := g.words p 21
    let q ← checkPlane demand y (off + 32) st.ver
    g.sound p 21
    return (next, { st with planes := tabPut e q st.planes })
  | 3, some (.element e) =>
    let ch := bits w 0 3
    let n := bits w 4 4 + 1
    let routes := if st.standby then l.routes else st.routes
    let depth := (routes.find? (fun r => routeMode r == 1 && routeDst r == (l.relId (.element e), ch))).map routeDepth
    let held := ((st.preloads.filter (fun q => q.1 == e && q.2.1 == ch)).map (fun q => q.2.2.length)).foldl (· + ·) 0
    demand depth.isSome off
    demand (len == 2 * n) (off + 4)
    demand (bits w 3 1 == 0 && w / 2 ^ 12 == 0 && held + n ≤ depth.getD 0) (off + 8)
    rest
    let cs ← g.raws p len
    return (next, { st with preloads := st.preloads ++ [(e, ch, preloadTokens (bits w 8 4) st.ver cs)] })
  | 4, some (.tile t) =>
    demand (w + len ≤ 32768) (off + 4)
    rest
    let cs ← g.raws p len
    return (next, { st with contents := st.contents ++ [(t, w, cs)] })
  | 5, some (.tile t) =>
    demand (len == 5) (off + 4)
    demand (w == 0) (off + 8)
    rest
    let y := g.words p 5
    let su ← checkSetup demand y (off + 32)
    let mine := decodeAreas l st.groups t
    let counts := countAreas st t
    demand (su.mode == 0 || mine.isEmpty) (off + 32)
    demand (!(mine ++ counts).any (fun a => hits a [su.queue])) (off + 36)
    demand (!(mine ++ counts).any (fun a => hits a (su.bufs.map Buf.area))) (off + 64 + 16 *
      (su.bufs.findIdx (fun b => (mine ++ counts).any (fun a => hits a [b.area]))))
    g.sound p 5
    return (next, { st with setups := tabPut t su st.setups })
  | 6, _ =>
    demand st.groups.isEmpty off
    demand (len == 3 * w) (off + 4)
    demand (1 ≤ w && w ≤ 16384) (off + 8)
    rest
    let y := g.words p len
    let st0 ← checkGroups demand l y (off + 32) w 0 { st with groupOff := off + 32 }
    let st1 ← lateEntries demand l off st0
    g.sound p len
    let sl := l.subslot st1.groups
    let dm := l.farthest st1.groups
    let k0 := (st1.groups.map (·.k)).headD 0
    demand (sl ≤ 1023 && dm ≤ 4095 &&
      (l.record.direct || (st1.groups.all (fun g => g.k == k0) && 2 * k0 * sl ≤ 8192))) off
    return (next, { st1 with slotLen := sl, decMax := dm })
  | 7, some (.tile t) =>
    demand (len == (w + 3) / 4) (off + 4)
    demand (1 ≤ w && w ≤ 64) (off + 8)
    rest
    let y := g.words p len
    let st1 ← checkEntries demand l t y (off + 32) w 0 st
    demand ((firstNonzero y (8 * w) 8 (4 * len - w)).isNone) (off + 32 + (firstNonzero y (8 * w) 8 (4 * len - w)).getD 0)
    g.sound p len
    return (next, st1)
  | 8, _ =>
    demand (len == 2) (off + 4)
    demand (w ≤ 1) (off + 8)
    rest
    let y := g.words p 2
    let d : Line := BitVec.ofNat 512 (if w = 1 then y - nbytes y 0 8 + (nbytes y 0 8 + l.record.param.toNat) % 2 ^ 64 else y)
    let tab := st.tensors.foldl (fun t x => match x.desc with
      | some z => t ++ [(x.id, z)]
      | none => t.filter (fun q => q.1 != x.id)) (s.job l.job).tensors
    match enterTensor tab (s.busyTensors l.job) d with
    | .error o => do
      demand false (off + 32 + o)
      return (next, st)
    | .ok _ =>
      g.sound p 2
      let id : BitVec 16 := BitVec.ofNat 16 (tId d)
      return (next, { st with tensors := st.tensors ++ [{ id := id, desc := if tRank d = 0 then none else some d }] })
  | 9, some (.port q) =>
    demand (len == 1) (off + 4)
    rest
    let y := g.words p 1
    let r ← s.checkPortal demand l q w y off
    g.sound p 1
    return (next, { st with portals := tabPut q r st.portals })
  | _, _ => .error (.at_ off)

/-- The sections in order; more sections than the image holds are reported at the SECTIONS field. -/
def State.checkSections (s : State) (l : Launch) (g : Img) (portals : List Nat) (total : Nat) :
    Nat → Nat → Stage1 → Chk Stage1
  | 0, _, st => .ok st
  | n + 1, k, st =>
    if total ≤ k then .error (.at_ 16)
    else do
      let r ← s.checkSection l g portals total k st
      s.checkSections l g portals total n r.1 r.2

/-- A group's member tile that holds no entry for it, found once the image has been read (12 R193): the offset of its
MEMBER field. -/
def missingMember (l : Launch) (st : Stage1) : List Group → Nat → Option Nat
  | [], _ => none
  | g :: t, off =>
    match (List.range g.k).find? (fun i => match l.unit? (g.members.getD i 0).toNat with
      | some (.tile q) => !st.entries.any (fun y => y.1 == q && y.2.2.group == g.num)
      | _ => true) with
    | some i => some (off + 8 + 2 * i)
    | none => missingMember l st t (off + 96)

/-- Check an image for a launch (04 R66, R71, R72). -/
def State.checkImage (s : State) (l : Launch) (g : Img) : Chk Stage1 := do
  let h ← g.word 0
  let x := h.toNat
  let total := nbytes x 4 4
  let demand : Demand := g.need 0
  let fl := nbytes x 8 4
  let sh := nbytes x 12 4
  let standby := fl.testBit 1
  let rver : BitVec 4 := BitVec.ofNat 4 (bits fl 4 4)
  let ver : BitVec 4 := BitVec.ofNat 4 (bits fl 8 4)
  demand (nbytes x 0 4 == 0xEF000001) 0
  demand (1 ≤ total) 4
  demand (bits fl 2 2 == 0 && fl / 2 ^ 12 == 0 && fl.testBit 0 == l.record.direct && rver != 0 && ver != 0 &&
    (!standby || (rver == l.rver && ver != l.ver))) 8
  demand (sh == l.record.a + 256 * l.record.b) 12
  let n := nbytes x 16 4
  demand (n < total) 16
  demand (nbytes x 20 12 == 0) 20
  let st : Stage1 :=
    { standby := standby, rver := rver, ver := ver, routes := [], planes := [], preloads := [], contents := [], setups := [],
      groups := [], groupOff := 0, entries := [], early := [], tensors := [], portals := [], slotLen := 0, decMax := 0 }
  let st1 ← s.checkSections l g (g.portals l n 1) total n 1 st
  match st1.early with
  | e :: _ => .error (.at_ e.2.2)
  | [] =>
    match missingMember l st1 st1.groups st1.groupOff with
    | some o => .error (.at_ o)
    | none => return st1

/-- The cells that the loader interprets, from their headers: section header k and what follows (04 R72). -/
def Img.interpreted (g : Img) : Nat → Nat → List Nat
  | 0, _ => []
  | n + 1, k =>
    let x := ((g.word k).toOption.getD 0).toNat
    let len := nbytes x 4 4
    k :: ((if nbytes x 0 2 = 3 || nbytes x 0 2 = 4 then [] else (List.range len).map (fun i => k + 1 + i)) ++
      g.interpreted n (k + 1 + len))

/-- The last cell that the loader has come to: that of the failing word, or any. -/
def Rej.cell (g : Img) : Rej → Nat
  | .at_ o => o / 32
  | .trap _ v => (v.toNat - g.va.toNat) / 32

/-- Count the checks of the interpreted cells of an image up to the end of its reading (16 R244). -/
def State.countImage (s : State) (g : Img) (r : Chk Stage1) : State :=
  let n := ((g.word 0).toOption.map (fun d => nbytes d.toNat 16 4)).getD 0
  let cells := (0 :: g.interpreted (Nat.min n g.cells.length) 1).filter (fun k => k < g.cells.length && (match r with
    | .error e => k ≤ e.cell g
    | .ok _ => true))
  cells.foldl (fun t k => match g.cells[k]? with
    | some c => t.countCheck (.strand s.issue.k) s.cur.job.toNat (cellVa (g.va.toNat + 32 * k)) (check c.cell.data c.cell.code)
    | none => t) s

end Sys2Proof.Machine
end

