-- ==== Sys2Proof/Machine/Conf.lean ====
section
/-! DEFINITION. CONF.LOAD, CONF.SWITCH, CONF.WAIT and SPARGE (09 R151–R154, R354). -/

namespace Sys2Proof.Machine

/-! ### Commands of a region -/

/-- "Configuration rejected": trap 0x0B with a byte offset. -/
def State.rejected (s : State) (off : Nat) : State := s.trap 0x0B (BitVec.ofNat 64 off)

/-- The common start of a command of major 0x31: a cancelled or halted launch refuses it, and a strand without a launch has no
region to act on (log 20). -/
def State.command (s : State) (i : Instr) (f : Launch → State) : State :=
  match s.launchOf s.issue.k with
  | none => s.denied (tvalWord i)
  | some l => if s.refusesCommand then s.cancelTrap else f l

/-- The strand's earlier stores perform before a command reads memory (18 R268). -/
def State.afterStores (s : State) (i : Instr) (f : State) : State := if s.cur.posted.isEmpty then f else s.waitFor i

/-- As `command`, for a record at an address that must be a multiple of 32, which is read after the strand's earlier stores (09
R159). -/
def State.recordCommand (s : State) (i : Instr) (a : Word64) (f : Launch → State) : State :=
  s.command i (fun l => if a.toNat % 32 ≠ 0 then s.trap 0x0C a else s.afterStores i (f l))

/-- The stage of the current instruction. -/
def State.stage (s : State) : Nat := (s.cur.pend.map (·.stage)).getD 0

/-! ### Draining (09 R152) -/

/-- The engine commands in the queues of a region. -/
def State.regionCmds (s : State) (l : Launch) : List (Nat × Nat) :=
  (s.ports.filter (fun x => l.holds (x.1 / 3))).flatMap (fun x => x.2.cmds.map (fun c => (x.1, c.id)))

/-- The walks in progress in a region, by tile, generator and walk number. -/
def State.regionWalks (s : State) (l : Launch) : List (Nat × Nat × Nat) :=
  (s.tiles.filter (fun x => l.holds (x.1 / 6))).flatMap (fun x =>
    ((List.range 4).filter (fun g => (x.2.gen g).walk.isSome)).map (fun g => (x.1, g, (x.2.gen g).walks)))

/-- The latest walks of a region that have ended, with the tokens their generators have sent. -/
def State.endedWalks (s : State) (l : Launch) : List (Nat × Nat × Nat × Nat) :=
  (s.tiles.filter (fun x => l.holds (x.1 / 6))).flatMap (fun x =>
    ((List.range 4).filter (fun g => (x.2.gen g).walk.isNone && 0 < (x.2.gen g).walks)).map (fun g =>
      (x.1, g, (x.2.gen g).walks, (x.2.gen g).sent)))

/-- The first n tokens that a reader has sent have all reached their channels. -/
def State.delivered (s : State) (l : Launch) (t g n : Nat) : Bool :=
  (l.fork (l.relId (.tile t)) g).all (fun r => match l.unit? (routeDst r).1 with
    | some (.element e) => n + ((s.element e).inp (routeDst r).2).wire.length ≤ ((s.tile t).gen g).sent
    | _ => true)

/-- The slots that walk n of a generator has filled or read are complete or released (09 R143). -/
def State.slotsOver (s : State) (t g n : Nat) : Bool :=
  (List.range 8).all (fun b => let y := (s.tile t).buf b
    (y.claims ++ y.taken).all (fun c => c.who != .gen g n))

/-- The activities that a drain captured have finished. -/
def State.drained (s : State) (l : Launch) (p : Pend) : Bool :=
  p.cmds.all (fun c => !((s.port c.1).cmds.any (fun x => x.id == c.2))) && p.walks.isEmpty &&
  p.sends.all (fun w => s.delivered l w.1 w.2.1 w.2.2.2 && s.slotsOver w.1 w.2.1 w.2.2.1)

/-- A draining command captures the region's activities at its issue, and asks the window to close early (09 R152, 22 R325). -/
def State.capture (s : State) (i : Instr) (l : Launch) : State :=
  match s.cur.pend with
  | some _ => s
  | none =>
    let p : Pend := { instr := i, hi := s.issue.hi, pa := 0, va := 0, place := .none, stage := 1, value := 0,
                      cmds := s.regionCmds l, walks := s.regionWalks l, sends := s.endedWalks l, left := [], sum := 0 }
    (s.setCur { s.cur with pend := some p }).closeWindow l.id

/-- Drain: f goes on once the activities captured at the issue have finished. -/
def State.drain (s : State) (i : Instr) (l : Launch) (f : State → State) : State :=
  let t := s.capture i l
  match t.cur.pend with
  | some p => if t.drained l p then f t else (t.closeWindow l.id).waitFor i
  | none => t

/-- SPARGE (09 R152). -/
def execSparge (s : State) : Out :=
  .next (s.command .sparge (fun l => s.drain .sparge l (fun t => t.retire)))

/-! ### Installation (09 R151, R354) -/

/-- The intersection units of an element's inputs. -/
def installInter (l : Launch) (routes : List Word64) (e : Nat) : List Inter :=
  (routes.filter (fun r => routeMode r == 2 && (routeDst r).1 == l.relId (.element e) && (routeDst r).2 < routePair r)).map
    (fun r => { i := (routeDst r).2, j := routePair r, qi := [], qj := [], pi := 0, pj := 0, lastI := none, lastJ := none,
                lanes := [], side := (0, 0) })

/-- An element named by an opcode section (09 R354). -/
def installElement (l : Launch) (st : Stage1) (e : Nat) (p : Plane) (x : Element) : Element :=
  let pre := (List.range 8).map (fun ch =>
    (st.preloads.filter (fun q => q.1 == e && q.2.1 == ch)).flatMap (fun q => q.2.2))
  let ins : Vector InChan 8 := (List.range 8).foldl (fun v ch =>
    vset v ch { InChan.empty with buf := pre.getD ch [] }) (Vector.replicate 8 InChan.empty)
  let named := ((List.range 8).filter (fun ch => !(pre.getD ch []).isEmpty)).map (fun ch => (ch, pre.getD ch []))
  { x with plane := some { p with preloads := named },
           standby := none, q := Vector.replicate 4 p.initQ, bank := p.bank,
           ages := Vector.replicate 32 0, lifting := 0, ins := ins, outs := Vector.replicate 8 [],
           inter := installInter l st.routes e, complete := false, faulted := false, cancelled := false, stopped := false,
           fault := 0, late := none, heldV := none, heldM := none, flipped := false, arr := Arr.install }

/-- An element that no opcode section names: no plane and empty channels; everything else is kept, its completion and fault
with it, which only a new plane clears (07 R118, 09 R354). -/
def bareElement (x : Element) : Element :=
  { x with plane := none, standby := none, ages := Vector.replicate 32 0, lifting := 0,
           ins := Vector.replicate 8 InChan.empty, outs := Vector.replicate 8 [], inter := [], heldV := none,
           heldM := none }

/-- A generator after an installation; a destination of a copy engine's route is a landing port. -/
def installGen (l : Launch) (st : Stage1) (t g : Nat) : Gen :=
  { Gen.reset with landing := st.routes.any (fun r => routeDst r == (l.relId (.tile t), g) &&
      (routeSrc r).2 == 0 && (match l.unit? (routeSrc r).1 with
        | some (.port _) => true
        | _ => false)) }

/-- A memory tile takes its setup, or store mode, its contents and its member entries (09 R354). Of two sections that give
one cell, or of two setups, the later stands (log 84). -/
def installTile (l : Launch) (st : Stage1) (t : Nat) (x : Tile) : Tile :=
  let u := tabGet { mode := 0, qbase := 0, qsize := 0, lrow := 0, bufs := [] } st.setups t
  let m := (st.contents.filter (fun c => c.1 == t)).foldl (fun m c =>
    ((List.range c.2.2.length).zip c.2.2).foldl (fun n q => n.setCell (32 * (c.2.1 + q.1)) { q.2 with w := false }) m) x.sram
  { x with sram := m, mode := u.mode, qbase := u.qbase, qsize := u.qsize, lrow := u.lrow, put := 0, take := 0,
           bufs := (List.range 8).foldl (fun v b => vset v b (u.bufs.getD b Buf.unused)) (Vector.replicate 8 Buf.unused),
           gens := (List.range 4).foldl (fun v g => vset v g (installGen l st t g)) (Vector.replicate 4 Gen.reset),
           watch := (st.entries.filter (fun e => e.1 == t)).foldl (fun w e => tabPut e.2.1 e.2.2 w) [], fault := 0 }

/-- The units of a region by kind. -/
def Launch.elements (l : Launch) : List Nat := l.clusters.flatMap (fun c => (List.range 12).map (fun i => 12 * c + i))
/-- The memory tiles of a region. -/
def Launch.tiles (l : Launch) : List Nat := l.clusters.flatMap (fun c => (List.range 6).map (fun i => 6 * c + i))
/-- The memory-port tiles of a region. -/
def Launch.ports (l : Launch) : List Nat := l.clusters.flatMap (fun c => (List.range 3).map (fun i => 3 * c + i))

/-- Enter a tensor of an image in the job's table. -/
def addTensor (tab : List (BitVec 16 × BitVec 512)) (x : Tensor) : List (BitVec 16 × BitVec 512) :=
  match x.desc with
  | some z => tab ++ [(x.id, z)]
  | none => tab.filter (fun q => q.1 != x.id)

/-- No drain waits any more for walks of the configuration that has gone. -/
def State.forgetWalks (s : State) (l : Launch) : State :=
  { s with strands := s.strands.map (fun x => if l.holds (x.1 / 8) then
      (x.1, { x.2 with pend := x.2.pend.map (fun p => { p with walks := [], sends := [] }) }) else x) }

/-- Install a checked image with STANDBY clear, in one step (04 R72, 09 R151, R354). Units that the need mask does not
name are not the launch's (02 R32). -/
def State.install (s : State) (l : Launch) (st : Stage1) : State :=
  let es := l.elements.filter (fun e => l.needs (.element e))
  let ts := l.tiles.filter (fun t => l.needs (.tile t))
  let ps := l.ports.filter (fun p => l.needs (.port p))
  let s1 := es.foldl (fun t e =>
    let x := t.element e
    t.setElement e (match st.planes.find? (fun q => q.1 == e) with
      | some q => installElement l st e q.2 x
      | none => bareElement x)) s
  let s2 := ts.foldl (fun t n => t.setTile n (installTile l st n (t.tile n))) s1
  let s3 := ps.foldl (fun t n => t.setPort n
    { t.port n with portal := (st.portals.find? (fun q => q.1 == n)).map (·.2), fault := 0 }) s2
  let s4 := s3.setJob l.job { s3.job l.job with tensors := st.tensors.foldl addTensor (s3.job l.job).tensors }
  ((s4.forgetWalks l).modLaunch l.id (fun y =>
    { y with installed := true, named := st.planes.map (·.1), ver := st.ver, rver := st.rver, routes := st.routes,
             slotLen := st.slotLen, decMax := st.decMax,
             groups := st.groups.map (fun g => { g with t0 := s.fc }) })).openWindow l.id

/-- Load standby planes with their preloads (04 R71, 07 R117). Preloads of an element that the image gives no plane have no
effect (log 84). -/
def State.installStandby (s : State) (st : Stage1) : State :=
  st.planes.foldl (fun t q =>
    let x := t.element q.1
    let pre := ((List.range 8).map (fun ch =>
      (ch, (st.preloads.filter (fun r => r.1 == q.1 && r.2.1 == ch)).flatMap (fun r => r.2.2)))).filter (fun r => !r.2.isEmpty)
    t.setElement q.1 { x with standby := some { q.2 with preloads := pre } }) s

/-- Every element of the resident configuration is complete or faulted. -/
def State.allDone (s : State) (l : Launch) : Bool := l.named.all (fun e => (s.element e).complete || (s.element e).faulted)

/-- Some element of the configuration has faulted. -/
def State.anyFaulted (s : State) (l : Launch) : Bool := l.named.any (fun e => (s.element e).faulted)

/-- Read the image at an address: its header gives its length (04 R66). -/
def State.readImage (s : State) (a : Word64) : Option Img × State :=
  match s.readCells a 1 with
  | (none, s1) => (none, s1)
  | (some [c], s1) =>
    let n := match c.trap with
      | some _ => 1
      | none => Nat.max 1 (cbytes c.cell.data 4 4)
    let r := s1.readCells a n
    (r.1.map (fun cs => { va := a, cells := cs }), r.2)
  | (some _, s1) => (none, s1)

/-- The trap of a failed check. -/
def State.reject (s : State) : Rej → State
  | .at_ o => s.rejected o
  | .trap code tval => s.trap code tval

/-- Read and check the image at an address and go on with what it holds; its checks count as the strand's (16 R244). -/
def State.withImage (s : State) (i : Instr) (l : Launch) (a : Word64) (f : State → Stage1 → State) : State :=
  match s.readImage a with
  | (none, s1) => s1.waitFor i
  | (some g, s1) =>
    let r := s1.checkImage l g
    let s2 := s1.countImage g r
    match r with
    | .error e => s2.reject e
    | .ok st => f s2 st

/-- CONF.LOAD (09 R151): a STANDBY image is loaded at once; any other first drains the region and waits for its elements.
The image is checked at the issue and again as it is installed. -/
def execConfLoad (ga : GReg) (s : State) : Out :=
  let i := Instr.confLoad ga
  let a := s.reg ga
  .next (s.command i (fun l =>
    if a.toNat % 32 ≠ 0 then s.trap 0x0C a
    else
      let s0 := s.capture i l
      s0.afterStores i (s0.withImage i l a (fun s1 st =>
        if st.standby then s1.atBoundary i (fun t => (t.installStandby st).retire)
        else s1.drain i l (fun s2 =>
          if !s2.allDone l then s2.waitFor i
          else s2.atBoundary i (fun t =>
            match t.launch? l.id with
            | none => t
            | some y => t.withImage i y a (fun t1 st1 => (t1.install y st1).retire)))))))

/-- The read generators that a route names as source, over the region. -/
def Launch.sources (l : Launch) : List (Nat × Nat) :=
  (l.tiles.flatMap (fun t => (List.range 4).map (fun g => (t, g)))).filter (fun x =>
    !(l.fork (l.relId (.tile x.1)) x.2).isEmpty)

/-- The write generators to which an element or a read generator is routed. -/
def Launch.sinks (l : Launch) : List (Nat × Nat) :=
  l.routes.filterMap (fun r =>
    match l.unit? (routeDst r).1, l.unit? (routeSrc r).1 with
    | some (.tile t), some (.element _) => some (t, (routeDst r).2)
    | some (.tile t), some (.tile _) => some (t, (routeDst r).2)
    | _, _ => none)

/-- Have every source generator emit one switch token, and clear the sinks' counts and the elements' marks (09 R153 step 2). -/
def State.sendSwitch (s : State) (l : Launch) (v : BitVec 4) : State :=
  let s1 := l.sources.foldl (fun t x =>
    let y := t.tile x.1
    t.setTile x.1 (y.setGen x.2 { y.gen x.2 with swOut := some v })) s
  let s2 := l.sinks.foldl (fun t x =>
    let y := t.tile x.1
    t.setTile x.1 (y.setGen x.2 { y.gen x.2 with swIn := 0 })) s1
  { s2 with elements := s2.elements.map (fun x => if l.holds (x.1 / 12) then (x.1, { x.2 with flipped := false }) else x) }

/-- The elements that the route plane names and that hold a plane. -/
def State.routedElements (s : State) (l : Launch) : List Nat :=
  l.elements.filter (fun e => (s.element e).plane.isSome && l.routes.any (fun r =>
    (routeSrc r).1 == l.relId (.element e) || (routeDst r).1 == l.relId (.element e)))

/-- Every element of the route plane has flipped or faulted, or is complete (log 15), and every writer has discarded its switch
token. -/
def State.switched (s : State) (l : Launch) : Bool :=
  (s.routedElements l).all (fun e => (s.element e).faulted || (s.element e).flipped || (s.element e).complete) &&
  l.sinks.all (fun x => 0 < ((s.tile x.1).gen x.2).swIn)

/-- CONF.SWITCH (09 R153). In a windowed launch the switch tokens leave at a window boundary, and the region's version changes at
one, so that no void can lose it (22 R326). -/
def execConfSwitch (ga : GReg) (s : State) : Out :=
  let i := Instr.confSwitch ga
  let a := s.reg ga
  let v : BitVec 4 := a.extractLsb' 0 4
  .next (
    if a.toNat = 0 || 16 ≤ a.toNat then s.illegal (tvalWord i)
    else s.command i (fun l =>
      if s.stage = 2 then
        if s.switched l then s.atBoundary i (fun t => (t.modLaunch l.id (fun y => { y with ver := v })).retire)
        else s.waitFor i
      else s.drain i l (fun s1 => s1.atBoundary i (fun t =>
        (t.sendSwitch l v).hold i false (fun p => { p with stage := 2, value := a })))))

/-- CONF.WAIT (09 R154). In the cycle of a fault it waits for the cycle's end, which settles the fault word (22 R323). -/
def execConfWait (gd : GReg) (s : State) : Out :=
  let i := Instr.confWait gd
  .next (
    match s.launchOf s.issue.k with
    | none => s.denied (tvalWord i)
    | some l =>
      if s.refusesCommand then s.cancelTrap
      else if l.haltDue then s.waitFor i
      else if s.anyFaulted l then s.retireReg gd l.fword
      else if s.allDone l then s.retireReg gd 0
      else s.waitFor i)

end Sys2Proof.Machine
end

