-- ==== Sys2Proof/Machine/Enrol.lean ====
section
/-! DEFINITION. Launch records: reading, checking and enrolling one (21 R300, R301), the phases of a job (21 R299), and
LAUNCH and GRAPH.REPLAY (21 R307, R317). -/

namespace Sys2Proof.Machine

/-! ### Reading a record (21 R299, R300) -/

/-- How the reading of a record cell ends: its data, a failure, or a page that the pager must bring. -/
inductive RecGot where
  | data (d : CellData)
  | trap (code : BitVec 8) (tval : Word64)
  | wait
deriving DecidableEq, Repr

/-- Read a record cell as the issuing strand, on its load path. -/
def State.recStrand (s : State) (va : Nat) : RecGot × State :=
  match s.prep (BitVec.ofNat 64 va) 32 false 1 with
  | (.trap code tval, s1) => (.trap code tval, s1)
  | (.stall, s1) => (.wait, s1)
  | (.disc _ _ _ _, s1) => (.data 0, s1)
  | (.ok pa v, s1) =>
    if badFe (s1.mem.sideAt pa).fe then
      (.trap 0x1F ((UnitRef.slice (homeOf pa)).abs.zeroExtend 64), s1.feNote pa v s1.cur.job.toNat)
    else
    let c := s1.mem.cell pa
    let k := check c.data c.code
    let s2 := s1.countCheck (.strand s1.issue.k) s1.cur.job.toNat (cellVa v) k
    match k.data? with
    | some d => (.data d, s2.cacheRead s2.issue.k pa v)
    | none => (.trap 0x07 (cellVa v), s2)

/-- Read a record cell as a job's dispatcher. -/
def State.recJob (s : State) (job va : Nat) : RecGot × State :=
  let fail : RecGot := .trap 0x05 (BitVec.ofNat 64 va)
  let r := s.translate .bare job (s.xrecOf job) va
  let read (pa : Nat) : RecGot × State :=
    if r.2.access (targetSlice (homeOf pa)) job < 1 then (fail, r.2)
    else if badFe (r.2.mem.sideAt pa).fe then (fail, r.2.feNote pa va job)
    else
      let c := r.2.mem.cell pa
      let k := check c.data c.code
      let s1 := r.2.countHome pa job (BitVec.ofNat 64 va) k
      match k.data? with
      | some d => (.data d, s1.fillLine job pa va)
      | none => (fail, s1)
  if 2 ^ 52 ≤ va || va % 32 ≠ 0 then (fail, s)
  else match r.1 with
    | .heap pa => read pa
    | .page pa _ _ => read pa
    | .discarded pa _ _ _ _ =>
      (if r.2.access (targetSlice (homeOf pa)) job < 1 then fail else .data 0, r.2)
    | .absent | .arriving => (.wait, r.2)
    | .noMap | .machine => (fail, r.2)

/-- Why a record was not read: it failed, or it must wait. -/
abbrev RecStop := Option (BitVec 8 × Word64)

/-- Read n cells of a record, as a strand or as the job's dispatcher, as one little-endian number. -/
def State.recCells (s : State) (strand : Bool) (job va : Nat) : Nat → Except RecStop Nat × State
  | 0 => (.ok 0, s)
  | n + 1 =>
    match (if strand then s.recStrand va else s.recJob job va) with
    | (.data d, s1) =>
      let r := s1.recCells strand job (va + 32) n
      (r.1.map (fun x => d.toNat + 2 ^ 256 * x), r.2)
    | (.trap code tval, s1) => (.error (some (code, tval)), s1)
    | (.wait, s1) => (.error none, s1)

/-- Declared strands of a record. -/
def recStrands (x : Nat) : Nat := nbytes x 60 2
/-- Region width of a record. -/
def recA (x : Nat) : Nat := nbytes x 56 1
/-- Region height of a record. -/
def recB (x : Nat) : Nat := nbytes x 57 1
/-- The count of strands and the shape are in range, so the record's length is known. -/
def recShapeOk (x : Nat) : Bool :=
  1 ≤ recA x && recA x ≤ 12 && 1 ≤ recB x && recB x ≤ 12 && 1 ≤ recStrands x && recStrands x ≤ 1152
/-- The first cell of the need masks. -/
def recMaskCell (x : Nat) : Nat := 2 + (recStrands x + 3) / 4
/-- The cells of a record. -/
def recLen (x : Nat) : Nat := recMaskCell x + (recA x * recB x + 7) / 8

/-- Read the record at an address: two cells, and the rest when the shape gives its length. -/
def State.readLaunch (s : State) (strand : Bool) (job va : Nat) : Except RecStop Nat × State :=
  match s.recCells strand job va 2 with
  | (.error e, s1) => (.error e, s1)
  | (.ok x, s1) =>
    if recShapeOk x then
      let r := s1.recCells strand job (va + 64) (recLen x - 2)
      (r.1.map (fun y => x + 2 ^ 512 * y), r.2)
    else (.ok x, s1)

/-! ### A record's fields (21 R300) -/

/-- Strand entry i of a record. -/
def recEntry (x i : Nat) : Entry :=
  let o := 64 + 8 * i
  { off := nbytes x o 4, rcl := nbytes x (o + 4) 1, strand := nbytes x (o + 5) 1 % 8, high := (nbytes x (o + 5) 1).testBit 7 }

/-- The launch record in the cells of a number. -/
def parseRecord (va x : Nat) : Record :=
  let w (lo : Nat) : Word64 := BitVec.ofNat 64 (nbytes x lo 8)
  let f := nbytes x 58 1
  { va := BitVec.ofNat 64 va, next := w 0, dep := w 8, done := w 16, patch := w 24, param := w 32, image := w 40,
    code := w 48, a := recA x, b := recB x, cls := f % 4, onedie := f.testBit 2, direct := f.testBit 3,
    entries := if recShapeOk x then (List.range (recStrands x)).map (recEntry x) else [],
    needs := if recShapeOk x then (List.range (recA x * recB x)).map (fun n =>
      (BitVec.ofNat 22 (nbytes x (32 * recMaskCell x + 4 * n) 4) : BitVec 22)) else [] }

/-- Strand entry i has its reserved bits zero, an offset that is a multiple of 4, and a cluster of the region. -/
def recEntryOk (x i : Nat) : Bool :=
  let o := 64 + 8 * i
  nbytes x o 4 % 4 == 0 && nbytes x (o + 4) 1 < recA x * recB x && bits (nbytes x (o + 5) 1) 3 4 == 0 &&
    nbytes x (o + 6) 2 == 0

/-- The record keeps R300 in itself (21 R301). -/
def recFieldsOk (x : Nat) : Bool :=
  let f := nbytes x 58 1
  let es := (List.range (recStrands x)).map (recEntry x)
  recShapeOk x && f / 16 == 0 && (!f.testBit 2 || (recA x ≤ 4 && recB x ≤ 4)) && nbytes x 59 1 == 0 && nbytes x 62 2 == 0 &&
  (List.range (recStrands x)).all (recEntryOk x) && (es.map (fun e => 8 * e.rcl + e.strand)).Nodup &&
  (List.range (recA x * recB x)).all (fun n => nbytes x (32 * recMaskCell x + 4 * n) 4 / 2 ^ 22 == 0) &&
  nbytes x 8 8 % 32 == 0 && nbytes x 16 8 % 32 == 0 && nbytes x (32 * recMaskCell x + 4 * (recA x * recB x))
    (32 * (recLen x - recMaskCell x) - 4 * (recA x * recB x)) == 0

/-! ### Dependence and completion cells (21 R301) -/

/-- The job can read the DEP cell. -/
def State.depOk (s : State) (job dep : Nat) : Bool :=
  let ok (pa : Nat) : Bool := 1 ≤ s.access (targetSlice (homeOf pa)) job
  dep == 0 || (dep < 2 ^ 52 && (match (s.translate .bare job (s.xrecOf job) dep).1 with
    | .heap pa => ok pa
    | .page pa _ _ => ok pa
    | .discarded pa _ _ _ _ => ok pa
    | .absent => true
    | .arriving => true
    | .noMap => false
    | .machine => false))

/-- Where a launch's DONE is: a cell the job can write, one it cannot, or a page the pager must bring first. -/
inductive DoneCell where
  | at_ (pa : Nat)
  | denied
  | wait
deriving DecidableEq, Repr

/-- Find the DONE cell of a record; a discarded page is revived (14 R217). -/
def State.doneCell (s : State) (job va : Nat) : DoneCell × State :=
  let r := s.translate .bare job (s.xrecOf job) va
  let ok (pa : Nat) : Bool := 2 ≤ r.2.access (targetSlice (homeOf pa)) job
  if 2 ^ 52 ≤ va || va % 32 ≠ 0 then (.denied, s)
  else match r.1 with
    | .heap pa => (if ok pa then .at_ pa else .denied, r.2)
    | .page pa w x => (if w && !x && ok pa then .at_ pa else .denied, r.2)
    | .discarded pa entry w x big => if w && !x && ok pa then (.at_ pa, r.2.revive job va entry big) else (.denied, r.2)
    | .absent | .arriving => (.wait, r.2)
    | .noMap | .machine => (.denied, r.2)

/-! ### Enrolling (21 R301) -/

/-- A launch that has just been enrolled. -/
def newLaunch (id job parent : Nat) (virt : Bool) (r : Record) : Launch :=
  { Launch.blank with id := id, job := job, parent := parent, parentVa := virt, record := r }

/-- A level of the launch is cancelled: its job, its phase, or its replay (21 R309). -/
def State.levelCancelled (s : State) (job parent : Nat) (virt : Bool) : Bool :=
  let j := s.job job
  j.cancel || j.phCancel || (virt && j.replays.any (fun r => r.done == parent && r.cancel))

/-- Enrol a record that has been read: its fields are x and r. A record that breaks R300, or one of a cancelled level,
completes at once with CANCEL. None: a page must come first (log 24). -/
def State.enrol (s : State) (job parent : Nat) (virt : Bool) (x : Nat) (r : Record) : Option State :=
  let va := r.done.toNat
  match s.doneCell job va with
  | (.wait, _) => none
  | (.denied, s1) => some (s1.pushDecr job parent virt 1)
  | (.at_ pa, s1) =>
    if !recFieldsOk x || s1.weight job r.cls = 0 || !s1.depOk job r.dep.toNat || s1.levelCancelled job parent virt then
      some ((s1.writeDone pa va job 0 1 1 0 2).pushDecr job parent virt 1)
    else
      let s2 := s1.writeDone pa va job 1 1 0 0 1
      let l := newLaunch s2.launchNo job parent virt r
      let dep := if r.dep = 0 then none else match (s2.translate .bare job (s2.xrecOf job) r.dep.toNat).1 with
        | .heap q => some q
        | .page q _ _ => some q
        | .arriving => s2.cellOf job r.dep.toNat
        | _ => none
      let y := if r.dep = 0 then l.becomeReady s.fc false
        else match dep with
          | some q => if (s2.mem.sideAt q).fe = 2 then l.becomeReady s.fc (s2.depRefuses q) else l
          | none => l
      some { s2 with launches := s2.launches ++ [y], launchNo := s2.launchNo + 1 }

/-! ### Phases (21 R299) -/

/-- A job is open: its phase ring has slots (21 R298). -/
def State.jobOpen (s : State) (j : Nat) : Bool := s.mem.nat (s.workRec j + 8) 4 != 0

/-- The virtual address by which a job knows a physical address of its heap. -/
def State.heapVa (s : State) (j pa : Nat) : Nat :=
  let x := s.xrecOf j
  let va := (pa + 2 ^ 44 - x.hoff % 2 ^ 44) % 2 ^ 44
  if x.inHeap va then va else pa

/-- The phase cell of a job takes FAULT, and the event enters the trub record of the dispatcher's die. -/
def State.chainFault (s : State) (j pa va : Nat) : State :=
  (s.orStatus pa j 2).trubAdd (j % 9) 9 0 j 0x05 (BitVec.ofNat 64 va)

/-- The start cell of a phase fails its check: nothing is enrolled, and the phase is lost with FAULT. -/
def State.phaseLost (s : State) (j a : Nat) : State :=
  let h := UnitRef.slice (homeOf a)
  let va := s.heapVa j a
  let s1 := (s.setFe j a va 1).writeDone (a + 32) (s.heapVa j (a + 32)) j 0 3 2 0 2
  let s2 := s1.trubAdd h.die 8 h.abs j 0x1F (BitVec.ofNat 64 va)
  (s2.machineCheck h.abs j (BitVec.ofNat 64 va) (h.abs.zeroExtend 64)).phaseFull j (a + 32)

/-- A phase begins: its start cell is consumed and its completion cell initialised. A cancelled job stays so until its
JOBDONE is written anew. -/
def State.phaseBegin (s : State) (j a first : Nat) : State :=
  let s1 := (s.setFe j a (s.heapVa j a) 1).writeDone (a + 32) (s.heapVa j (a + 32)) j 1 3 0 0 1
  let x := s1.job j
  s1.setJob j { x with running := some (a + 32), chain := some { next := BitVec.ofNat 64 first, parent := a + 32 },
                       cancel := x.cancel && (s1.statusAt (s1.jobDone j)).getLsbD 0, phCancel := false }

/-- PHASE_START: the next thing the dispatcher of job j does: it takes a full start cell, enrols one record of the chain,
or ends the chain with the decrement for the start. -/
def execPhaseStart (j : Nat) (s : State) : Out :=
  let x := s.job j
  match x.running, x.chain with
  | none, _ =>
    let a := s.phaseStart j (s.phaseNo j)
    if 192 < j || !s.jobOpen j || (s.mem.sideAt a).fe = 1 then .next s
    else
      let c := s.mem.cell a
      let k := check c.data c.code
      let s1 := s.countHome a j (BitVec.ofNat 64 (s.heapVa j a)) k
      match k.data? with
      | some d => .next (if badFe c.fe then s1.phaseLost j a else s1.phaseBegin j a (cbytes d 0 8))
      | none => .next (s1.phaseLost j a)
  | some _, none => .next s
  | some pa, some ch =>
    let stop (t : State) : State := (t.setJob j { t.job j with chain := none }).decrPhase j 0
    if ch.next = 0 then .next (stop s)
    else
      match s.readLaunch false j ch.next.toNat with
      | (.error none, s1) => .next s1
      | (.error (some _), s1) => .next (stop (s1.chainFault j pa ch.next.toNat))
      | (.ok v, s1) =>
        let r := parseRecord ch.next.toNat v
        match (s1.addPhase j 1).enrol j pa false v r with
        | none => .next s
        | some s2 => .next (s2.setJob j { s2.job j with chain := some { ch with next := r.next } })

/-! ### Commands of major 0x33 -/

/-- The common start of a work instruction that a halted or cancelled launch refuses; a strand without a launch has none
to act for (log 20). -/
def State.workCommand (s : State) (i : Instr) (f : Launch → State) : State :=
  match s.launchOf s.issue.k with
  | none => s.denied (tvalWord i)
  | some l =>
    if s.refusesCommand then s.cancelTrap else f l

/-- The progress value of the current instruction, or a default before it has one. -/
def State.progress (s : State) (d : Word64) : Word64 :=
  match s.cur.pend with
  | some p => if p.stage = 0 then d else p.value
  | none => d

/-- LAUNCH: one record in each step; ga holds the address of a record that failed (21 R317). -/
def execLaunch (ga : GReg) (s : State) : Out :=
  let i := Instr.launch ga
  .next (s.workCommand i (fun l =>
    let a := s.progress (s.reg ga)
    if s.stage = 0 && a.toNat % 32 ≠ 0 then s.trap 0x0C a
    else if !s.cur.posted.isEmpty then s.waitFor i
    else if a = 0 then s.retire
    else
      match (s.job l.job).running with
      | none => s.denied (tvalWord i)
      | some pa =>
        match s.readLaunch true l.job a.toNat with
        | (.error none, s1) => s1.waitFor i
        | (.error (some (code, tval)), s1) => (s1.setReg ga a).trap code tval
        | (.ok v, s1) =>
          let r := parseRecord a.toNat v
          match (s1.addPhase l.job 1).enrol l.job pa false v r with
          | none => s.waitFor i
          | some s2 =>
            if r.next = 0 then s2.retire else s2.hold i false (fun p => { p with stage := 1, value := r.next })))

/-! ### GRAPH.REPLAY (21 R306, R307) -/

/-- A consuming access of a cell by the current instruction, going on with its bytes 7:0. -/
def State.consumeWord (s : State) (i : Instr) (a : Word64) (f : State → Word64 → State) : State :=
  s.withAccess i a 32 false 1 (fun s1 pa va disc entry =>
    if disc then (s1.setWaiters (s1.strandJob s1.issue.k) entry).waitOn i pa va 1 true
    else if (s1.mem.sideAt pa).fe = 1 then s1.waitOn i pa va 1 false
    else s1.strandGate i pa va true (some 1) (fun t =>
      t.checkedCell pa va (fun s2 d =>
        let s3 := s2.dropWait (.strand s2.issue.k)
        f (s3.setFe (s3.strandJob s3.issue.k) pa va 1) (BitVec.ofNat 64 (cbytes d 0 8)))))

/-- Copy patch cell n from one address to another, as BCOPY mode 0b01, and go on. -/
def State.patchCell (s : State) (i : Instr) (src dst : Word64) (f : State → State) : State :=
  match s.prep dst 32 true 2 with
  | (.trap code tval, s1) => s1.trap code tval
  | (.stall, s1) => s1.waitFor i
  | (pd, s1) =>
    match (s1.prep src 32 false 1).2.bcopySource i 1 (s1.prep src 32 false 1).1 with
    | .stop s2 => s2
    | .got s2 c =>
      let go (s3 : State) (pa va : Nat) : State :=
        s3.strandGate i pa va true (some 2) (fun t => f (t.bcopyWrite 1 false pa va c))
      match pd with
      | .disc pa va entry big => go (s2.revive (s2.strandJob s2.issue.k) va entry big) pa va
      | .ok pa va => go s2 pa va
      | _ => s2

/-- The replay number and the progress of the current GRAPH.REPLAY: cells copied, or the address of the next record. -/
def State.replayAt (s : State) : Nat × Nat :=
  match s.cur.pend with
  | some p => (p.value.toNat, (p.cmds.headD (0, 0)).1)
  | none => (0, 0)

/-- The replay's completion cell, its slot's initialisation, and the phase's addition. -/
def State.replayBegin (s : State) (job done hold n : Nat) (pa : Nat) : State :=
  let s1 := (s.writeDone pa done job n 2 0 0 1).addPhase job 1
  let j := s1.job job
  s1.setJob job { j with replays := j.replays ++ [{ done := done, hold := hold, cancel := j.cancel || j.phCancel }] }

/-- The chain of a replay is broken at an address: DONEk takes FAULT, and a decrement for each of the n launches that the
chain did not reach; the event enters the trub record. -/
def State.replayBroken (s : State) (job done at_ n : Nat) : State :=
  let r := s.resolve job done
  let s1 := match r.1 with
    | some pa => r.2.orStatus pa job 2
    | none => r.2
  (List.range n).foldl (fun t _ => t.pushDecr job done true 0) (s1.trubAdd (job % 9) 9 0 job 0x05 (BitVec.ofNat 64 at_))

/-- GRAPH.REPLAY completes; the strand of a launch that was cancelled meanwhile then takes trap 0x0A (21 R309). -/
def State.replayEnd (s : State) (gd : GReg) (n : Nat) : State :=
  let s1 := s.retireReg gd (BitVec.ofNat 64 n)
  if s.cancelledK s.issue.k then s1.asStrand s.issue.k none (fun t => t.trap 0x0A (t.doneOf t.issue.k)) else s1

/-- The start of GRAPH.REPLAY: as another work instruction, but a replay that has begun goes on under a cancel, which refuses
only a wait that would begin (21 R309). -/
def State.replayCommand (s : State) (i : Instr) (f : Launch → State) : State :=
  match s.launchOf s.issue.k with
  | some l => if s.stage = 3 && !l.hasHalted then f l else s.workCommand i f
  | none => s.workCommand i f

/-- GRAPH.REPLAY. Its stages: TURN is consumed, then HOLDk, then the patch is copied a cell at a time, DONEk is
initialised, and the chain is enrolled a record at a time; TURN is then filled with n + 1. -/
def execGraphReplay (gd ga gb : GReg) (s : State) : Out :=
  let i := Instr.graphReplay gd ga gb
  let g := s.reg ga
  let b := s.reg gb
  let n := s.replayAt.1
  let at_ := s.replayAt.2
  let k := n % 2
  let slot (o : Nat) : Word64 := g + BitVec.ofNat 64 o
  let done := slot (160 + 32 * k)
  let hold := slot (96 + 32 * k)
  let keep (t : State) (stage n c m : Nat) : State :=
    t.hold i false (fun p => { p with stage := stage, value := BitVec.ofNat 64 n, cmds := [(c, m)], place := .none })
  let finish (t : State) : State :=
    t.withAccess i (slot 64) 32 true 2 (fun s1 pa va _ _ =>
      s1.strandGate i pa va true (some 2) (fun u =>
        let job := u.strandJob u.issue.k
        let v := (n + 1) % 2 ^ 64
        ((u.partialWrite job pa va 8 v (shareOf (pa % 32) 8 v) none).setFe job pa va 2).replayEnd gd n))
  .next (s.replayCommand i (fun l =>
    if s.stage = 0 && g.toNat % 32 ≠ 0 then s.trap 0x0C g
    else if s.stage = 0 && b.toNat % 32 ≠ 0 then s.trap 0x0C b
    else if !s.cur.posted.isEmpty then s.waitFor i
    else
      match s.stage with
      | 0 => s.consumeWord i (slot 64) (fun t v => keep t 1 v.toNat 0 0)
      | 1 => s.consumeWord i hold (fun t _ => keep t 2 n 0 0)
      | 2 => s.readRecord i g 2 (fun t x =>
          let patch : Word64 := BitVec.ofNat 64 (nbytes x (16 + 8 * k) 8)
          if at_ < nbytes x 32 4 then
            let off : Word64 := BitVec.ofNat 64 (32 * at_)
            t.patchCell i (b + off) (patch + off) (fun u => keep u 2 n (at_ + 1) 0)
          else t.withAccess i done 32 true 2 (fun u pa va _ _ =>
            if badFe (u.mem.sideAt pa).fe then u.feCheck pa va
            else keep (u.replayBegin l.job va hold.toNat (nbytes x 36 4) pa) 3 n (nbytes x (8 * k) 8) (nbytes x 36 4)))
      | _ =>
        let due := ((s.cur.pend.map (fun p => (p.cmds.headD (0, 0)).2)).getD 0)
        if at_ = 0 then finish s
        else
          match s.readLaunch false l.job at_ with
          | (.error none, s1) => s1.waitFor i
          | (.error (some _), s1) =>
            keep (s1.replayBroken l.job done.toNat at_ due) 3 n 0 0
          | (.ok v, s1) =>
            let r0 := parseRecord at_ v
            let r := if r0.dep = 0 && n ≠ 0 then { r0 with dep := slot (160 + 32 * (1 - k)) } else r0
            match s1.enrol l.job done.toNat true v r with
            | none => s.waitFor i
            | some s2 => keep s2 3 n r.next.toNat (due - 1)))

end Sys2Proof.Machine
end

