-- ==== Sys2Proof/Machine/Cancel.lean ====
section
/-! DEFINITION. CANCEL and CANCEL.E (21 R308, R309). -/

namespace Sys2Proof.Machine

/-! ### Cancelling a launch (21 R309) -/

/-- What the cancel of a launch does to one of its strands: a suspended one is ended; any other that runs or waits takes
trap 0x0A, but a WSTEP of a direct launch whose steps have begun first waits for its groups (12 R188), and a GRAPH.REPLAY that
has begun its replay waits no more and ends it first (21 R307). -/
def State.cancelStrand (s : State) (l : Launch) (k : Nat) : State :=
  let x := s.strand k
  match x.mode with
  | .idle | .exited => s
  | .suspended => (s.setStrand k { x with running := false, depth := 0 }).endStrand k
  | _ =>
    match x.pend with
    | none => s.asStrand k none (fun t => t.trap 0x0A l.doneVa)
    | some p =>
      let stays := match p.instr with
        | .wstep _ _ => l.record.direct && p.stage == 1
        | .graphReplay _ _ _ => p.stage == 3
        | _ => false
      if stays then s else s.asStrand k p.hi (fun t => (t.dropWait (.strand k)).trap 0x0A l.doneVa)

/-- The deques of a launch lose their records, and presence bits it held are released. -/
def State.clearDeques (s : State) (l : Launch) : State :=
  (s.heldClusters l).foldl (fun t c => (t.setCluster c { t.cluster c with deque := [] }).releasePresent c) s

/-- Cancel a launch. One that is not placed completes at once through LAUNCH_COMPLETE. -/
def State.cancelLaunch (s : State) (l : Nat) : State :=
  match s.launch? l with
  | none => s
  | some x =>
    if x.cancelled || x.stage == .ended then s
    else if x.stage != .placed then
      s.modLaunch l (fun y => { y with cancelled := true, status := y.status ||| 1, stage := .ready })
    else
      let s1 := ((s.restoreWindow l).dropCommands x).clearDeques x
      let s2 := s1.modLaunch l (fun y =>
        { y with cancelled := true, status := y.status ||| 1, window := y.window.filter (·.committing) })
      let s3 := match s2.launch? l with
        | some y => s2.stopGroups y
        | none => s2
      x.strands.foldl (fun t k => t.cancelStrand x k) s3

/-- Cancel the launches of a list. -/
def State.cancelLaunches (s : State) (ls : List Launch) : State := ls.foldl (fun t l => t.cancelLaunch l.id) s

/-! ### Cancelling a replay, a phase, a job -/

/-- The completion cell of a level takes CANCEL. -/
def State.markCancel (s : State) (job va : Nat) : State :=
  let r := s.resolve job va
  match r.1 with
  | some pa => r.2.orStatus pa job 1
  | none => r.2

/-- Cancel a replay. -/
def State.cancelReplay (s : State) (job : Nat) (r : Replay) : State :=
  let j := s.job job
  let s1 := s.setJob job { j with replays := j.replays.map (fun q => if q == r then { q with cancel := true } else q) }
  (s1.markCancel job r.done).cancelLaunches (s1.launches.filter (fun l => l.job == job && l.parentVa && l.parent == r.done))

/-- Cancel the current phase of a job. -/
def State.cancelPhase (s : State) (job : Nat) : State :=
  match (s.job job).running with
  | none => s
  | some pa =>
    let s1 := (s.setJob job { s.job job with phCancel := true }).orStatus pa job 1
    let s2 := (s.job job).replays.foldl (fun t r => t.cancelReplay job r) s1
    s2.cancelLaunches (s2.launches.filter (fun l => l.job == job))

/-- Cancel a job. -/
def State.cancelJob (s : State) (job : Nat) : State :=
  let s1 := (s.setJob job { s.job job with cancel := true }).orStatus (s.jobDone job) job 1
  s1.cancelPhase job

/-! ### CANCEL (21 R308) -/

/-- The level whose completion cell is at a physical address. -/
inductive Level where
  | launch (l : Nat)
  | replay (job : Nat) (r : Replay)
  | phase (job : Nat)
  | job (job : Nat)
deriving DecidableEq, Repr

/-- Two addresses of jobs name one cell: the same cell of memory, or, on a page that is not resident, the same address of one
job. -/
def sameCell (a b : Option Nat × Nat × Nat) : Bool := if a.1.isNone then a == b else a.1 == b.1

/-- The unfinished level that a cell counts, in the jobs that a test admits. -/
def State.levelAt (s : State) (mine : Nat → Bool) (c : Option Nat × Nat × Nat) : Option Level :=
  let hits (j : Nat) (r : Replay) : Bool := sameCell c (s.cellOf j r.done, j, r.done)
  match s.launches.find? (fun l => mine l.job && l.stage != .ended &&
      sameCell c (s.doneOfLaunch l, l.job, l.record.done.toNat)) with
  | some l => some (.launch l.id)
  | none =>
    match s.jobs.find? (fun x => mine x.1 && x.2.replays.any (hits x.1)) with
    | some x => (x.2.replays.find? (hits x.1)).map (fun r => .replay x.1 r)
    | none =>
      match s.jobs.find? (fun x => mine x.1 && x.2.running.isSome && x.2.running == c.1) with
      | some x => some (.phase x.1)
      | none => ((List.range 193).find? (fun j => mine j && s.jobOpen j && some (s.jobDone j) == c.1 &&
          (s.mem.sideAt (s.jobDone j)).fe != 2)).map .job

/-- Cancel a level. -/
def State.cancelLevel (s : State) : Level → State
  | .launch l => s.cancelLaunch l
  | .replay job r => s.cancelReplay job r
  | .phase job => s.cancelPhase job
  | .job job => s.cancelJob job

/-- CANCEL: the level at ga is cancelled; a level already complete, known by a full completion cell, is passed over. -/
def execCancel (ga : GReg) (s : State) : Out :=
  let a := s.reg ga
  let k := s.issue.k
  let mine (j : Nat) : Bool := s.cur.priv || j == s.strandJob k
  .next (
    if 2 ^ 52 ≤ a.toNat || a.toNat % 32 ≠ 0 then s.denied a
    else
      let cell := s.cellIn (s.strandX k) (s.strandJob k) a.toNat
      match s.levelAt mine (cell, s.strandJob k, a.toNat) with
      | some v => s.retire.cancelLevel v
      | none =>
        match cell with
        | none => s.denied a
        | some pa =>
          let lvl := s.mem.nat (pa + 9) 1
          if 1 ≤ lvl && lvl ≤ 4 && (s.mem.sideAt pa).fe = 2 then s.retire else s.denied a)

/-- An element is stopped and counts as complete; its launch takes CANCEL. -/
def State.cancelElement (s : State) (l e : Nat) : State :=
  let x := s.element e
  (s.setElement e { x with cancelled := true, stopped := true, complete := true }).modLaunch l (fun y =>
    { y with status := y.status ||| 1 })

/-- CANCEL.E: an element of the strand's own region, at a window boundary (22 R326); one already complete is passed over. -/
def execCancelE (ga : GReg) (s : State) : Out :=
  let i := Instr.cancelE ga
  let a := s.reg ga
  .next (
    match s.launchOf s.issue.k with
    | none => s.denied a
    | some l =>
      match (if a.toNat < 2 ^ 16 then l.own a.toNat else none) with
      | some (.element e) =>
        if (s.element e).complete || l.cancelled || l.halted then s.retire
        else s.atBoundary i (fun t => (t.cancelElement l.id e).retire)
      | _ => s.denied a)

end Sys2Proof.Machine
end

