-- ==== Sys2Proof/Machine/Tasks.lean ====
section
/-! DEFINITION. Tasks: FORK, JOIN, STEAL, YIELD, EXIT and the pop of an idle strand (21 R310–R316). -/

namespace Sys2Proof.Machine

/-- The deque that the issuing strand works on: that of its cluster, if a launch holds it. -/
def State.deque (s : State) : List Task :=
  match s.launchOf s.issue.k with
  | none => []
  | some _ => (s.cluster (s.issue.k / 8)).deque

/-- The state with the issuing strand's deque. -/
def State.setDeque (s : State) (q : List Task) : State :=
  let c := s.issue.k / 8
  s.setCluster c { s.cluster c with deque := q }

/-- "Deque misuse": trap 0x09. -/
def State.misuse (s : State) (v : Word64) : State := s.trap 0x09 v

/-- Run a task inline with a return address (21 R311). -/
def State.runInline (s : State) (t : Task) (ret : Word64) : State :=
  let x := ((s.cur.setReg 3 t.arg).setReg 4 t.join).setReg 31 ret
  s.setCur { x with depth := x.depth + 1, pc := t.entry, mode := .ready, pend := none }

/-- FORK (21 R312). -/
def execFork (ga gb gc : GReg) (s : State) : Out :=
  let i := Instr.fork ga gb gc
  let e := s.reg ga
  let j := s.reg gc
  let t : Task := { entry := e, arg := s.reg gb, join := j, high := s.cur.prio }
  .next (s.workCommand i (fun _ =>
    if e.toNat % 4 ≠ 0 then s.trap 0x0C e
    else if j.toNat % 32 ≠ 0 then s.trap 0x0C j
    else if !s.cur.posted.isEmpty then s.waitFor i
    else if s.deque.length < 256 then (s.setDeque (t :: s.deque)).retire
    else if s.cur.depth = 255 then s.misuse e
    else s.runInline t s.nextPc))

/-- JOIN (21 R313): the join cell is full, or the head task runs, or the strand waits as LD.W. -/
def execJoin (gd ga : GReg) (s : State) : Out :=
  let i := Instr.join gd ga
  let a := s.reg ga
  .next (
    if s.haltedK s.issue.k then s.cancelTrap
    else s.withAccess i a 32 false 1 (fun s1 pa va disc entry =>
      if !disc && s1.ownStore pa then s1.waitFor i
      else if !disc && badFe (s1.mem.sideAt pa).fe then s1.feCheck pa va
      else if !disc && (s1.mem.sideAt pa).fe = 2 then
        s1.checkedCell pa va (fun s2 d =>
          ((s2.fillLine (s2.strandJob s2.issue.k) pa va).dropWait (.strand s2.issue.k)).retireReg gd
            (BitVec.ofNat 64 (cbytes d 8 8)))
      else match s1.deque with
        | t :: rest =>
          let s2 := s1.dropWait (.strand s1.issue.k)
          if s2.cur.depth = 255 then s2.misuse t.entry else (s2.setDeque rest).runInline t s2.cur.pc
        | [] => (if disc then s1.setWaiters (s1.strandJob s1.issue.k) entry else s1).waitOn i pa va 0 disc))

/-- The snake order of a die's clusters (21 R314). -/
def snake : List Nat := [0, 1, 2, 3, 7, 6, 5, 4, 8, 9, 10, 11, 15, 14, 13, 12]

/-- The clusters that a cluster looks at, in order: those after it in the snake, and round again. -/
def snakeAfter (c : Nat) : List Nat :=
  let p := snake.findIdx (· == c % 16)
  ((snake ++ snake).drop (p + 1)).take 15 |>.map (fun i => c / 16 * 16 + i)

/-- STEAL (21 R314): the tail record of the first cluster of the region after its own. -/
def execSteal (gd : GReg) (s : State) : Out :=
  let c := s.issue.k / 8
  .next (
    if s.haltedK s.issue.k then s.cancelTrap
    else match s.launchOf s.issue.k with
      | none => s.retireReg gd 0
      | some l =>
        match (snakeAfter c).find? (fun d => (s.cluster d).owner == some l.id) with
        | none => s.retireReg gd 0
        | some d =>
          match (s.cluster d).deque.getLast? with
          | none => s.retireReg gd 0
          | some t =>
            if s.deque.length < 256 then
              let s1 := s.setCluster d { s.cluster d with deque := (s.cluster d).deque.dropLast }
              (s1.setDeque (t :: s1.deque)).retireReg gd 1
            else s.retireReg gd 0)

/-- YIELD (21 R315): the head task runs inline, or the strand stays out of issue. -/
def execYield (s : State) : Out :=
  let k := s.issue.k
  let others := ((List.range 8).map (fun i => k / 8 * 8 + i)).filter (fun j => j != k && (s.strand j).mode == .ready)
  .next (
    if s.haltedK k then s.cancelTrap
    else match s.deque with
      | t :: rest => if s.cur.depth = 255 then s.misuse t.entry else (s.setDeque rest).runInline t s.nextPc
      | [] =>
        let s1 := s.retire
        s1.setCur { s1.cur with yield := some (others, if others.isEmpty then s.fc + 9 else 0) })

/-- EXIT with a join cell to decrement at g4: it translates as a store would, and the decrement is a release (21 R316). -/
def State.exitJoin (s : State) (v : Word64) (f : State → State) : State :=
  if v.toNat % 32 ≠ 0 then s.trap 0x0C v
  else if !s.cur.posted.isEmpty then s.waitFor .exit
  else s.withAccess .exit v 32 true 2 (fun s1 pa va _ _ =>
    s1.strandGate .exit pa va true (s1.decrFe pa) (fun t => f (t.decrementAt (t.strandJob t.issue.k) va pa true 0)))

/-- EXIT (21 R316). -/
def execExit (s : State) : Out :=
  let x := s.cur
  let g4 := s.reg 4
  let g31 := s.reg 31
  let back (t : State) : State := t.setCur { t.cur with depth := t.cur.depth - 1, pc := g31, mode := .ready, pend := none }
  .next (
    if s.cancelledK s.issue.k then s.endStrand s.issue.k
    else if x.depth ≠ 0 then
      if g31 = 0 || g31.toNat % 4 ≠ 0 then s.misuse g31
      else if g4 = 0 then back s
      else s.exitJoin g4 back
    else if x.running && g4 ≠ 0 then s.exitJoin g4 (fun t => t.endStrand t.issue.k)
    else s.endStrand s.issue.k)

/-- TASK_POP: an idle strand of a placed launch starts its cluster's head task (21 R311). -/
def execTaskPop (k : Nat) (s : State) : Out :=
  match s.launchOf k, (s.cluster (k / 8)).deque with
  | some _, t :: rest =>
    if (s.strand k).mode == .idle then
      .next ((s.setCluster (k / 8) { s.cluster (k / 8) with deque := rest }).startTask k t)
    else .next s
  | _, _ => .next s

end Sys2Proof.Machine
end

