-- ==== Sys2Proof/Machine/Context.lean ====
section
/-! DEFINITION. Saving a region to a context image in memory and restoring it from one (22 R329–R334): the cask, what each
strand and unit carries, the sections of an image, CTXSAVE and CTXLOAD. -/

namespace Sys2Proof.Machine

/-! ### The cask (22 R330) -/

/-- The cask of a job; none when SHIFT is 0. -/
def State.cask (s : State) (job : Nat) : Option Nat :=
  let sh := bits s.dv.casktab.toNat 0 6
  if sh = 0 then none else some (bits s.dv.casktab.toNat 20 24 * 2 ^ 20 + job * 2 ^ sh)

/-- The free slots of a job's cask that an image of n cells fits. -/
def State.freeSlots (s : State) (job n : Nat) : List Nat :=
  match s.cask job with
  | none => []
  | some a =>
    if s.mem.nat (a + 4) 4 < n then []
    else (List.range (Nat.min 64 (s.mem.nat a 4))).filter (fun i => !(s.mem.nat (a + 8) 8).testBit i)

/-- The address of a cask slot. -/
def State.slotAddr (s : State) (cask i : Nat) : Nat := cask + 32 + 32 * i * s.mem.nat (cask + 4) 4

/-- Set or clear the USED bit of the slot at an address of a job's cask, as an atomic operation. -/
def State.setUsed (s : State) (job addr : Nat) (b : Bool) : State :=
  match s.cask job with
  | none => s
  | some a =>
    match (List.range 64).find? (fun i => s.slotAddr a i == addr) with
    | none => s
    | some i =>
      let m := 2 ^ i
      (s.sliceRmw job (a + 8) (a + 8) 8 (fun v => if b then v ||| m else v - (v &&& m))).2

/-! ### Region-relative units -/

/-- A flat unit number with its cluster mapped; n units lie in a cluster. -/
def mapUnit (f : Nat → Nat) (n u : Nat) : Nat := n * f (u / n) + u % n

/-- A command with its units mapped, taken by a launch. -/
def Cmd.mapUnits (f : Nat → Nat) (l : Nat) (c : Cmd) : Cmd :=
  { c with launch := l, owner := mapUnit f 8 c.owner, slots := c.slots.map (fun x => (mapUnit f 6 x.1, x.2)),
           follow := c.follow.map (mapUnit f 12) }

/-- A claimant with its port mapped. -/
def Claimant.mapUnits (f : Nat → Nat) : Claimant → Claimant
  | .gen g n => .gen g n
  | .cmd p id => .cmd (mapUnit f 3 p) id

/-- A buffer with its claimants mapped. -/
def Buf.mapUnits (f : Nat → Nat) (b : Buf) : Buf :=
  { b with preq := b.preq.map (Claimant.mapUnits f), creq := b.creq.map (Claimant.mapUnits f),
           claims := b.claims.map (fun c => { c with who := c.who.mapUnits f }),
           taken := b.taken.map (fun c => { c with who := c.who.mapUnits f }) }

/-- A tile with the units its buffers and generators name mapped. -/
def Tile.mapUnits (f : Nat → Nat) (x : Tile) : Tile :=
  { x with bufs := x.bufs.map (Buf.mapUnits f),
           gens := x.gens.map (fun g => { g with land := g.land.map (fun q => { q with p := mapUnit f 3 q.p }) }) }

/-- A wait that is saved with its strand, with the units it captured mapped (22 R329). -/
def Pend.mapUnits (f : Nat → Nat) (p : Pend) : Pend :=
  match p.instr with
  | .sparge | .confSwitch _ | .confLoad _ =>
    { p with cmds := p.cmds.map (fun c => (mapUnit f 3 c.1, c.2)), walks := p.walks.map (fun w => (mapUnit f 6 w.1, w.2)),
             sends := p.sends.map (fun w => (mapUnit f 6 w.1, w.2)) }
  | _ => p

/-- A strand with the units its wait names mapped; its YIELD counts cycles to or from the present (21 R315). -/
def Strand.mapUnits (f : Nat → Nat) (clock : Nat → Nat) (x : Strand) : Strand :=
  { x with pend := x.pend.map (Pend.mapUnits f), posted := [],
           yield := x.yield.map (fun y => (y.1.map (mapUnit f 8), if y.2 = 0 then 0 else clock y.2)) }

/-! ### Strands and engines at a save (22 R329) -/

/-- The instruction in flight is saved with its wait; any other is abandoned and reissued. -/
def Pend.saved (p : Pend) : Bool :=
  match p.instr with
  | .confWait _ | .sparge => true
  | .wstep _ _ | .wclose _ | .confSwitch _ | .graphReplay _ _ _ | .launch _ => p.stage != 0
  | _ => false

/-- The instruction in flight completes before the strand stops: MTC and CONF.LOAD. -/
def Pend.finishesFirst (p : Pend) : Bool :=
  match p.instr with
  | .mtc _ _ | .confLoad _ => true
  | _ => false

/-- A strand stops at an instruction boundary; an access that waits on a cell gives up its record or entry first. -/
def State.stopStrand (s : State) (k : Nat) : State :=
  match (s.strand k).pend with
  | none => s
  | some p =>
    let s1 := s.dropWait (.strand k)
    if p.saved then s1
    else s1.setStrand k { s1.strand k with mode := .ready, pend := none }

/-- Every wait of a region's engine commands on a cell is given up; they leave the merge groups and keep their progress. -/
def State.stopEngines (s : State) (l : Launch) : State :=
  let ps := (s.ports.filter (fun x => l.holds (x.1 / 3))).flatMap (fun x => x.2.cmds.map (fun c => (x.1, c.id)))
  ((ps.foldl (fun t x => t.dropWait (.engine x.1 x.2)) s).keepProgress l).leaveMerges l

/-! ### The sections of an image (22 R331) -/

/-- A section: its kind, its region-relative unit, and its payload. -/
structure Section where
  kind  : Nat
  unit  : Nat
  cells : List Cell
deriving DecidableEq, Repr

/-- The header cell of a section and its payload (22 R331, 04 R67). -/
def Section.whole (x : Section) : List Cell := ownCell (x.kind + 2 ^ 16 * x.unit + 2 ^ 32 * x.cells.length) :: x.cells

/-- The units of a kind that a region's need masks name, n in a cluster, in the order of their identifiers. -/
def Launch.needed (l : Launch) (n : Nat) (u : Nat → UnitRef) : List Nat :=
  (l.clusters.flatMap (fun c => (List.range n).map (fun i => n * c + i))).filter (fun i => l.needs (u i))

/-- The elements of a region with their planes: identifier, plane, standby plane. -/
def Codec.planes : Codec (List (Nat × Option Plane × Option Plane)) :=
  (Codec.nat.pair (Codec.plane.opt.pair Codec.plane.opt)).list

/-- Payload of kind 0x0101: the fc of the save, the launch with its record and route plane, and the opcode planes. -/
def Codec.region : Codec (Nat × Launch × List (Nat × Option Plane × Option Plane)) :=
  Codec.nat.pair (Codec.launch.pair Codec.planes)

/-- Payload of kind 0x0108: the entries of a tile's watch engine, and the groups that it is a member of, by their place in the
slot table. -/
def Codec.watch : Codec (List (Nat × WEntry) × List (Nat × Group)) :=
  (Codec.nat.pair Codec.wEntry).list.pair (Codec.nat.pair Codec.group).list

/-- The groups of a launch that a tile is a member of, by their place in the slot table. -/
def Launch.groupsAt (l : Launch) (t : Nat) : List (Nat × Group) :=
  ((List.range l.groups.length).zip l.groups).filter (fun g => g.2.members.any (fun m => m.toNat == l.relId (.tile t)))

/-- The sections of a region whose strands and engines have stopped: in kind order, and within a kind in unit order. -/
def State.sectionsOf (s : State) (l : Launch) : List Section :=
  let f (c : Nat) : Nat := l.rcl c
  let es := l.needed 12 .element
  let ts := l.needed 6 .tile
  let sec (kind : Nat) (u : UnitRef) (cells : List Cell) : Section := { kind := kind, unit := l.relId u, cells := cells }
  [{ kind := 0x0101, unit := 0, cells := Codec.region.put (s.fc, { l with named := l.named.map (mapUnit f 12) },
      es.map (fun e => (l.relId (.element e), (s.element e).plane, (s.element e).standby))) }] ++
  (l.strands.filter (fun k => (s.strand k).mode != .idle)).map (fun k => sec 0x0102 (.strand k)
    (Codec.strand.put ((s.strand k).mapUnits f (fun d => d - s.fc)))) ++
  l.clusters.map (fun c => { kind := 0x0103, unit := 256 * f c, cells := Codec.task.list.put (s.cluster c).deque }) ++
  es.map (fun e => sec 0x0104 (.element e) (Codec.element.put (s.element e))) ++
  es.map (fun e => sec 0x0105 (.element e) ((s.element e).lmem.saved 1536)) ++
  es.map (fun e => sec 0x0106 (.element e) (Codec.arr.put (s.element e).arr)) ++
  ts.map (fun t => sec 0x0107 (.tile t) (Codec.tile.put ((s.tile t).mapUnits f) ++ (s.tile t).sram.saved 32768)) ++
  ts.map (fun t => sec 0x0108 (.tile t) (Codec.watch.put ((s.tile t).watch, l.groupsAt t))) ++
  (l.needed 3 .port).map (fun p => sec 0x0109 (.port p)
    (Codec.port.put { s.port p with cmds := (s.port p).cmds.map (Cmd.mapUnits f l.id) }))

/-- The cells of a memory that some list names, in order. -/
def Memory.listed (m : Memory) : List Nat :=
  ((m.bytes.map (fun (b : Nat × Byte) => b.1 / 32 * 32)) ++ m.side.map (fun (x : Nat × Side) => x.1)).eraseDups

/-- The checks that the save makes of a memory of n cells, other than those that pass clean by being unlisted. -/
def Memory.checks (m : Memory) (n : Nat) : List (Nat × Checked) :=
  (m.listed.filter (fun a => a < 32 * n)).map (fun a => (a, check (m.cell a).data (m.cell a).code))

/-- The checks that the save engine makes of a region's local memories and tiles (22 R332). -/
def State.saveChecks (s : State) (l : Launch) : List (UnitRef × Nat × Checked) :=
  (l.needed 12 .element).flatMap (fun e => ((s.element e).lmem.checks 1536).map (fun q => (UnitRef.element e, q))) ++
  (l.needed 6 .tile).flatMap (fun t => ((s.tile t).sram.checks 32768).map (fun q => (UnitRef.tile t, q)))

/-- The header cell of an image (22 R331). -/
def imageHeader (l : Launch) (secs : List Section) (spoils : Nat) : Cell :=
  let n := 1 + (secs.map (fun x => 1 + x.cells.length)).foldl (· + ·) 0
  ownCell (0xEF001001 + 2 ^ 32 * (n % 2 ^ 32) + 2 ^ 64 * l.job + 2 ^ 72 * l.record.a + 2 ^ 80 * l.record.b +
    2 ^ 88 * ((if l.record.direct then 1 else 0) + (if l.status.getLsbD 4 then 2 else 0) + 4 * l.record.cls) +
    2 ^ 96 * secs.length + 2 ^ 128 * l.record.done.toNat + 2 ^ 192 * (spoils % 2 ^ 32))

/-- The cells of an image of a region whose strands and engines have stopped. -/
def State.imageOf (s : State) (l : Launch) (spoils : Nat) : List Cell :=
  imageHeader l (s.sectionsOf l) spoils :: (s.sectionsOf l).flatMap Section.whole

/-- The cells that an image of a launch would take now. -/
def State.imageCells (s : State) (l : Launch) : Nat := (s.imageOf l 0).length

/-- Write cells at an address with their states and codes; the waiters bits there stay. -/
def State.writeCells (s : State) (a : Nat) : List Cell → State
  | [] => s
  | c :: t => (s.storeCell 0 a a { c with w := (s.mem.sideAt a).w } none).writeCells (a + 32) t

/-! ### Saving (22 R329, R332) -/

/-- The region of a placed launch is at a point where it can be pre-empted: a window boundary, or in a direct launch the
end of the round of every open group; no strand has an instruction that completes first, and every posted store has
performed (22 R329). False: the state in which it waits for that. -/
def State.canStop (s : State) (l : Launch) : Bool × State :=
  let busy := l.strands.any (fun k =>
    ((s.strand k).pend.map (·.finishesFirst)).getD false || !(s.strand k).posted.isEmpty)
  if busy then (false, s)
  else match l.window with
    | some _ =>
      let r := s.commitWindow l.id
      if r.1 then r else (false, r.2.closeWindow l.id)
    | none => (l.groups.all (fun g => g.phase != .round), s)

/-- Save a placed launch to an address and release its region (22 R329). The save of strands, units and memories is one
step. -/
def State.saveLaunch (s : State) (l : Nat) (addr : Nat) : State :=
  match s.launch? l with
  | none => s
  | some x =>
    let s1 := (x.strands.foldl (fun t k => t.stopStrand k) s).stopEngines x
    let ks := s1.saveChecks x
    let spoils := (ks.map (fun q => q.2.2.badN)).foldl (· + ·) 0
    let y : Launch := { x with status := if spoils = 0 then x.status else x.status ||| 16 }
    let cells := s1.imageOf y spoils
    let z : Launch :=
      { y with window := none, preempt := false, reserved := none, named := x.named.map (mapUnit x.rcl 12), image := some addr,
               seven := x.strands.any (fun k => k % 8 == 7 && (s1.strand k).mode != .idle), stage := .ready }
    let s2 := ks.foldl (fun t q => t.countCheck q.1 x.job (BitVec.ofNat 64 q.2.1) q.2.2) s1
    let s3 := (s2.freeRegion x).writeCells addr cells
    (s3.setLaunch z).trubAdd (x.job % 9) 6 0 x.job 0 x.record.done

/-- The launch goes to the head of its queue as ready (21 R304, 22 R333). -/
def State.requeue (s : State) (l : Nat) : State :=
  { s with launches := ((s.launches.filter (fun y => y.id == l)).map (fun y => { y with readyAt := s.fc })) ++
      s.launches.filter (fun y => y.id != l) }

/-- PREEMPT: a launch chosen as a victim is saved to its job's cask once it can stop, and waits again (21 R304, 22 R329). -/
def execPreempt (l : Nat) (s : State) : Out :=
  match s.launch? l with
  | none => .next s
  | some x =>
    if !x.preempt || x.stage != .placed then .next s
    else
      match s.freeSlots x.job (s.imageCells x), s.cask x.job with
      | i :: _, some a =>
        match s.canStop x with
        | (false, s1) => .next s1
        | (true, s1) =>
          let addr := s1.slotAddr a i
          .next (((s1.saveLaunch l addr).setUsed x.job addr true).requeue l)
      | _, _ => .next s

/-! ### Reading an image (22 R332) -/

/-- The n sections of the image part at an address; the unit of the first whose header fails, which nothing names, is 0
(log 25). -/
def State.readSections (s : State) : Nat → Nat → Except Nat (List Section)
  | 0, _ => .ok []
  | n + 1, a =>
    let c := s.mem.cell a
    match (check c.data c.code).data? with
    | none => .error 0
    | some d =>
      let len := cbytes d 4 4
      (s.readSections n (a + 32 + 32 * len)).map (fun t =>
        { kind := cbytes d 0 2, unit := cbytes d 2 2,
          cells := (List.range len).map (fun i => s.mem.cell (a + 32 + 32 * i)) } :: t)

/-- The sections of the image at an address. -/
def State.sectionsAt (s : State) (addr : Nat) : Except Nat (List Section) :=
  let c := s.mem.cell addr
  match (check c.data c.code).data? with
  | none => .error 0
  | some d => s.readSections (cbytes d 12 4) (addr + 32)

/-- The checks that a restore makes of the cells of a section: all but the memory cells, which it copies (22 R332). -/
def Section.checks (x : Section) : List Checked :=
  let n := if x.kind = 0x0105 then 0
    else if x.kind = 0x0107 then x.cells.length - 32768 else x.cells.length
  (x.cells.take n).map (fun c => check c.data c.code)

/-- The groups that sections hold, in the order of the slot table. -/
def groupsOf (secs : List Section) : List Group :=
  let gs := secs.flatMap (fun x => if x.kind = 0x0108 then ((Codec.watch.get x.cells).map (fun r => r.1.2)).getD [] else [])
  (List.range gs.length).filterMap (fun i => (gs.find? (fun g => g.1 == i)).map (·.2))

/-- One section's state is restored over the cleared region of a launch; none when a cell of it fails (22 R332). -/
def State.restoreSection (s : State) (l : Launch) (x : Section) : Option State :=
  let f (n : Nat) : Nat := (l.cluster? n).getD 0
  match l.unit? x.unit with
  | some (.strand k) =>
    (Codec.strand.get x.cells).map (fun r => s.setStrand k
      { r.1.mapUnits f (fun d => s.fc + d) with job := BitVec.ofNat 8 l.job, priv := false, epc := r.1.epc &&& ~~~3,
                                                tvec := r.1.tvec &&& ~~~3 })
  | some (.element e) =>
    let y := s.element e
    match x.kind with
    | 0x0101 => (Codec.region.get x.cells).map (fun r => r.1.2.2.foldl (fun t q => match l.unit? q.1 with
        | some (.element e) => t.setElement e { t.element e with plane := q.2.1, standby := q.2.2 }
        | _ => t) s)
    | 0x0103 => (Codec.task.list.get x.cells).map (fun r => s.setCluster (e / 12) { s.cluster (e / 12) with deque := r.1 })
    | 0x0104 => (Codec.element.get x.cells).map (fun r => s.setElement e
        { r.1 with plane := y.plane, standby := y.standby, lmem := y.lmem, arr := y.arr })
    | 0x0105 => some (s.setElement e { y with lmem := fillMemory Memory.empty 0 x.cells })
    | _ => (Codec.arr.get x.cells).map (fun r => s.setElement e { y with arr := r.1 })
  | some (.tile t) =>
    if x.kind = 0x0107 then
      (Codec.tile.get x.cells).map (fun r => s.setTile t
        { r.1.mapUnits f with sram := fillMemory Memory.empty 0 r.2, watch := (s.tile t).watch })
    else (Codec.watch.get x.cells).map (fun r => s.setTile t { s.tile t with watch := r.1.1 })
  | some (.port p) =>
    (Codec.port.get x.cells).map (fun r => s.setPort p
      { r.1 with cmds := r.1.cmds.map (Cmd.mapUnits f l.id), l1 := (s.port p).l1, tlb := (s.port p).tlb, asked := (s.port p).asked })
  | _ => some s

/-- Restore sections in order; the unit of the first that fails. -/
def State.restoreSections (s : State) (l : Launch) : List Section → Except Nat State
  | [] => .ok s
  | x :: t => match s.restoreSection l x with
    | some s1 => s1.restoreSections l t
    | none => .error x.unit

/-- Count the checks that a restore makes, at the home slices of an image's cells (16 R244). -/
def State.countSections (s : State) (job : Nat) (a : Nat) : List Section → State
  | [] => s
  | x :: t =>
    let n := x.cells.length
    (((List.range n).zip x.checks).foldl (fun u q =>
      u.countHome (a + 32 + 32 * q.1) job (BitVec.ofNat 64 (a + 32 + 32 * q.1)) q.2) s).countSections job (a + 32 + 32 * n) t

/-- The fc at which the image of some sections was saved. -/
def savedAt (secs : List Section) : Nat :=
  ((secs.head?).bind (fun x => (Codec.region.get x.cells).map (fun r => r.1.1))).getD 0

/-- The saved state of a launch over the cleared region: units at their new places, the round grids moved to the present,
slot tables, L and D rebuilt; PRIV is that of the placement, and SQ_EPC and SQ_TVEC are loaded as a write loads them (22
R332, R333; 06 R90, R91). -/
def State.restoreRegion (s : State) (l : Launch) (addr : Nat) : Except Nat State := do
  let secs ← s.sectionsAt addr
  let s1 ← (s.countSections l.job (addr + 32) secs).restoreSections l secs
  let f (n : Nat) : Nat := (l.cluster? n).getD 0
  let gs := l.groups.map (fun g => { g with t0 := s.fc + (g.t0 - savedAt secs) })
  let s2 := (s1.setLaunch { l with groups := gs, slotLen := l.subslot gs, decMax := l.farthest gs,
                                   named := l.named.map (mapUnit f 12), image := none }).setUsed l.job addr false
  return if l.installed then s2.openWindow l.id else s2

/-- A launch whose image has a failing cell completes at once with FAULT and "context lost", naming the section's unit (22
R332); the unit's die is that of the origin chosen. -/
def State.contextLost (s : State) (l : Launch) (unit : Nat) : State :=
  let w := faultWord unit 0x12 0 0 0 0
  let u := (l.unit? unit).getD (.element (12 * (l.cluster? 0).getD 0))
  (s.trubAdd u.die 1 u.abs l.job 0x12 w).modLaunch l.id (fun y => { y.takeFault s.fc w with cancelled := true })

/-! ### CTXSAVE (22 R333) -/

/-- The launch that leaves the dispatcher with its image at an address. -/
def State.takeImage (s : State) (gd : GReg) (l : Launch) (addr : Nat) : State :=
  ({ s with launches := s.launches.filter (fun y => y.id != l.id) }).retireReg gd (BitVec.ofNat 64 addr)

/-- The issuing strand may access n cells from a physical address with a right. -/
def State.mayAccess (s : State) (right a n : Nat) : Bool :=
  a + 32 * n ≤ 2 ^ 44 &&
    (List.range n).all (fun i => right ≤ s.access (targetSlice (homeOf (a + 32 * i))) (s.masterOf s.issue.k))

/-- The launch at whose DONE CTXSAVE acts: placed, or pre-empted and waiting. -/
def State.savable (s : State) (done : Nat) : Option Launch :=
  s.launches.find? (fun l => (l.stage == .placed || (l.stage == .ready && l.image.isSome)) && !l.cancelled &&
    s.doneOfLaunch l == some done)

/-- CTXSAVE. -/
def execCtxsave (gd ga gb : GReg) (s : State) : Out :=
  let i := Instr.ctxsave gd ga gb
  let a := s.reg ga
  let b := (s.reg gb).toNat
  .next (
    if !s.cur.priv then s.denied (tvalWord i)
    else match s.savable a.toNat with
      | none => s.denied a
      | some l =>
        if (s.mem.sideAt a.toNat).fe = 2 then s.denied a
        else if b % 32 ≠ 0 then s.denied (s.reg gb)
        else if l.stage == .ready then
          match l.image with
          | none => s
          | some addr =>
            if b = 0 then s.takeImage gd l addr
            else
              let n := s.mem.good (addr + 4) 4
              if s.mayAccess 2 b n then
                ((s.setUsed l.job addr false).writeCells b ((List.range n).map (fun j => s.mem.cell (addr + 32 * j)))).takeImage gd
                  l b
              else s.denied (s.reg gb)
        else
          let dest := if b ≠ 0 then (if s.mayAccess 2 b (s.imageCells l) then some b else none)
            else match s.freeSlots l.job (s.imageCells l), s.cask l.job with
              | n :: _, some q => some (s.slotAddr q n)
              | _, _ => none
          match dest with
          | none => s.denied (s.reg gb)
          | some addr =>
            match s.canStop l with
            | (false, s1) => s1.waitFor i
            | (true, s1) =>
              let s2 := s1.saveLaunch l.id addr
              let s3 := if b = 0 then s2.setUsed l.job addr true else s2
              match s3.launch? l.id with
              | some y => s3.takeImage gd y addr
              | none => s3)

/-! ### CTXLOAD (22 R333) -/

/-- The first field of an image header that is out of its range (22 R331). -/
def headerBad (d : CellData) : Option Nat :=
  let w (lo n : Nat) : Nat := cbytes d lo n
  if w 0 4 ≠ 0xEF001001 then some 0
  else if w 4 4 = 0 then some 4
  else if 192 < w 8 1 then some 8
  else if w 9 1 = 0 || 12 < w 9 1 then some 9
  else if w 10 1 = 0 || 12 < w 10 1 then some 10
  else if 16 ≤ w 11 1 then some 11
  else if w 12 4 = 0 || w 4 4 ≤ w 12 4 then some 12
  else if w 16 8 % 32 ≠ 0 then some 16
  else if w 28 4 ≠ 0 then some 28
  else none

/-- The launch that an image header tells of, for a job. -/
def headerLaunch (d : CellData) (job : Nat) : Launch :=
  let w (lo n : Nat) : Nat := cbytes d lo n
  { Launch.blank with
    job := job, record := { Launch.blank.record with
      a := w 9 1, b := w 10 1, done := BitVec.ofNat 64 (w 16 8), cls := w 11 1 / 4, direct := (w 11 1).testBit 0,
      needs := List.replicate (w 9 1 * w 10 1) 0 } }

/-- The unit of a section is one that its kind admits, in the region and its need masks, if they are known (22 R331, 04 R72). -/
def sectionUnitOk (l : Launch) (known : Bool) (kind unit : Nat) : Bool :=
  let need (u : UnitRef) : Bool := !known || l.needs u
  match kind, l.unit? unit with
  | 0x0101, _ => unit == 0
  | 0x0102, some (.strand _) => true
  | 0x0103, some _ => unit % 256 == 0
  | 0x0104, some (.element e) => need (.element e)
  | 0x0105, some (.element e) => need (.element e)
  | 0x0106, some (.element e) => need (.element e)
  | 0x0107, some (.tile t) => need (.tile t)
  | 0x0108, some (.tile t) => need (.tile t)
  | 0x0109, some (.port p) => need (.port p)
  | _, _ => false

/-- The first field of a section header that breaks R331 or the region rules of R72: the section begins at cell k of an image of
`total` cells, after one of kind and unit `prev`. -/
def sectionBad (l : Launch) (known : Bool) (d : CellData) (k total : Nat) (prev : Nat × Nat) : Option Nat :=
  let kind := cbytes d 0 2
  let unit := cbytes d 2 2
  let len := cbytes d 4 4
  if kind < prev.1 || kind < 0x0101 || 0x0109 < kind || (prev.1 = 0 && kind ≠ 0x0101) then some (32 * k)
  else if !sectionUnitOk l known kind unit || (kind = prev.1 && unit ≤ prev.2) then some (32 * k + 2)
  else if total < k + 1 + len || (kind = 0x0105 && len ≠ 1536) || (kind = 0x0107 && len < 32768) then some (32 * k + 4)
  else if cbytes d 8 4 ≠ 0 then some (32 * k + 8)
  else if cbytes d 12 20 ≠ 0 then some (32 * k + 12)
  else none

/-- Read a cell of an image through the load path, as CTXLOAD of the image at ga does, and go on. -/
def State.imageCell (s : State) (ga : Word64) (pa : Nat) (f : State → CellData → State) : State :=
  if !s.mayAccess 1 pa 1 then s.denied ga
  else if badFe (s.mem.sideAt pa).fe then s.feCheck pa pa
  else s.checkedCell pa pa f

/-- Check the n section headers of an image from its cell k on, and go on. -/
def State.checkHeaders (s : State) (ga : Word64) (l : Launch) (known : Bool) (total : Nat) (f : State → State) :
    Nat → Nat → Nat × Nat → State
  | 0, _, _ => f s
  | n + 1, k, prev =>
    if total ≤ k then s.rejected 12
    else s.imageCell ga (ga.toNat + 32 * k) (fun s1 d =>
      match sectionBad l known d k total prev with
      | some o => s1.rejected o
      | none => s1.checkHeaders ga l known total f n (k + 1 + cbytes d 4 4) (cbytes d 0 2, cbytes d 2 2))

/-- The launch of the image at an address, for a job: as its record section tells it, or, with a cell of that failing, as the
header does. -/
def State.launchIn (s : State) (addr job : Nat) (hd : CellData) : Bool × Launch :=
  let l := headerLaunch hd job
  let secs := (s.sectionsAt addr).toOption.getD []
  let seven := secs.any (fun x => x.kind == 0x0102 && x.unit % 256 == 103)
  match (secs.head?).bind (fun x => if x.kind = 0x0101 then Codec.region.get x.cells else none) with
  | some r =>
    let y := r.1.2.1
    (true, { y with job := job, groups := groupsOf secs, seven := seven,
                    record := { y.record with a := l.record.a, b := l.record.b, done := l.record.done, cls := l.record.cls,
                                              direct := l.record.direct } })
  | none => (false, { l with seven := seven })

/-- The launch of an image enters the head of its class queue for a job, as ready. -/
def State.enterImage (s : State) (l : Launch) (addr : Nat) : State :=
  let parent := if l.parentVa then l.parent else ((s.job l.job).running).getD l.parent
  { s with launches := { l with id := s.launchNo, parent := parent, stage := .ready, readyAt := s.fc, image := some addr } ::
             s.launches,
           launchNo := s.launchNo + 1 }

/-- CTXLOAD. -/
def execCtxload (ga gb : GReg) (s : State) : Out :=
  let i := Instr.ctxload ga gb
  let a := s.reg ga
  let b := s.reg gb
  let addr := a.toNat
  .next (
    if !s.cur.priv then s.denied (tvalWord i)
    else if 192 < b.toNat then s.denied b
    else if !s.mayAccess 1 addr 1 then s.denied a
    else if addr % 32 ≠ 0 then s.trap 0x0C a
    else if !s.cur.posted.isEmpty then s.waitFor i
    else s.imageCell a addr (fun s1 d =>
        match headerBad d with
        | some o => s1.rejected o
        | none =>
          let r := s1.launchIn addr b.toNat d
          s1.checkHeaders a r.2 r.1 (cbytes d 4 4) (fun t => (t.enterImage r.2 addr).retire) (cbytes d 12 4) 1 (0, 0)))

end Sys2Proof.Machine
end

