-- ==== Sys2Proof/Machine/Dispatcher.lean ====
section
/-! DEFINITION. The dispatchers: placing a launch (21 R302; 09 R354), passes (21 R303), class targets (21 R304), and the
completion of a launch (21 R305). -/

namespace Sys2Proof.Machine

/-! ### Where a launch fits (21 R302) -/

/-- A launch at an origin. -/
def Launch.atOrigin (l : Launch) (o : Nat × Nat) : Launch := { l with x := o.1, y := o.2 }

/-- The grid origins in order of increasing Y·12 + X at which the shape lies in the grid. -/
def Launch.origins (l : Launch) : List (Nat × Nat) :=
  ((List.range 144).map (fun i => (i % 12, i / 12))).filter (fun o => o.1 + l.record.a ≤ 12 && o.2 + l.record.b ≤ 12)

/-- A cluster lies in the rectangle reserved for a launch. -/
def Launch.reserves (l : Launch) (c : Nat) : Bool :=
  match l.reserved with
  | none => false
  | some o => l.stage == .ready && (l.atOrigin o).clusters.contains c

/-- Cluster c is free for a launch: no launch holds it and it is reserved for no other. -/
def State.freeFor (s : State) (l : Launch) (c : Nat) : Bool :=
  (s.cluster c).owner.isNone && !s.launches.any (fun m => m.id != l.id && m.reserves c)

/-- What an origin must give apart from free clusters: present units, one die where the flag asks for it, no D4 cluster for
a launch that declares an S7 strand or was saved with one in use, and slot tables for a restored launch. -/
def State.suits (s : State) (l : Launch) (o : Nat × Nat) : Bool :=
  let z := l.atOrigin o
  let cs := z.clusters
  (cs.zip l.record.needs).all (fun q =>
    let p := (s.cluster q.1).present
    (q.2 &&& ~~~p) == 0 && p.getLsbD 21) &&
  (!l.record.onedie || cs.all (fun c => c / 16 == cs.headD 0 / 16)) &&
  (!(l.record.entries.any (fun e => e.strand == 7) || l.seven) ||
    cs.all (fun c => c / 16 != 4)) &&
  (l.image.isNone || l.groups.isEmpty ||
    (z.subslot l.groups ≤ 1023 && z.farthest l.groups ≤ 4095 &&
      (l.record.direct || 2 * (l.groups.map (·.k)).headD 0 * z.subslot l.groups ≤ 8192)))

/-- The first origin at which the launch fits. -/
def State.fit (s : State) (l : Launch) : Option (Nat × Nat) :=
  l.origins.find? (fun o => (l.atOrigin o).clusters.all (s.freeFor l) && s.suits l o)

/-! ### Placing (21 R302; 09 R354; 22 R332) -/

/-- The region's units in the cleared state of 09 R354, its strands idle, its deques empty; the launch holds it. -/
def State.clearRegion (s : State) (l : Launch) : State :=
  let s1 : State := { s with
    elements := s.elements.filter (fun x => !l.holds (x.1 / 12)),
    tiles := s.tiles.filter (fun x => !l.holds (x.1 / 6)),
    ports := s.ports.map (fun x => if l.holds (x.1 / 3) then
      (x.1, { x.2 with cmds := [], portal := none, fault := 0 }) else x) }
  let s2 := l.clusters.foldl (fun t c => t.setCluster c { t.cluster c with owner := some l.id, deque := [] }) s1
  l.strands.foldl (fun t k => t.setStrand k
    { Strand.reset with job := BitVec.ofNat 8 l.job, rcl := BitVec.ofNat 8 (l.rcl (k / 8)) }) s2

/-- The strand of a region cluster and index. -/
def Launch.strandAt (l : Launch) (rcl i : Nat) : Nat := 8 * ((l.cluster? rcl).getD 0) + i

/-- The declared strands start; g3 is PATCH in a launch of a graph and 0 in any other (01 R12). -/
def State.startStrands (s : State) (l : Launch) : State :=
  l.record.entries.foldl (fun t e =>
    let k := l.strandAt e.rcl e.strand
    let pc := (l.record.code + BitVec.ofNat 64 e.off) &&& ~~~3
    t.setStrand k { (t.strand k).start pc l.record.param l.record.image (if l.parentVa then l.record.patch else 0) 0
      (s.jobTvec l.job) e.high false with
      declared := true }) s

/-- Place a launch at an origin; one with an image is restored from it, or completes at once if that has lost a cell. -/
def State.placeAt (s : State) (l : Launch) (o : Nat × Nat) : State :=
  let y := { l.atOrigin o with stage := .placed, xrec := s.xrecOf l.job, reserved := none }
  let s1 := (s.setLaunch y).clearRegion y
  match l.image with
  | none => s1.startStrands y
  | some addr => match s1.restoreRegion y addr with
    | .ok t => t
    | .error unit => s.contextLost y unit

/-! ### A pass (21 R303) -/

/-- The queue of a class and job: its ready launches, in the order in which they became ready. -/
def State.queue (s : State) (job cls : Nat) : List Launch :=
  s.launches.filter (fun l => l.stage == .ready && !l.cancelled && l.job == job && l.record.cls == cls)

/-- The jobs of a die that have a ready launch of a class, in increasing order. -/
def State.readyJobs (s : State) (die cls : Nat) : List Nat :=
  (List.range 193).filter (fun j => j % 9 == die && !(s.queue j cls).isEmpty)

/-- The next job of a list after a given one, and round again. -/
def nextJob (js : List Nat) (j : Nat) : Nat := (js.find? (fun i => j < i)).getD (js.headD 0)

/-- One class of one dispatcher's pass: the pointer and the count of the turn, and the jobs whose head did not fit since
the last placement. -/
def State.classPass (s : State) (die cls : Nat) : Nat → Nat → Nat → List Nat → State
  | 0, ptr, n, _ => s.setDv { s.dv with turn := tabPut (4 * die + cls) (ptr, n) s.dv.turn }
  | fuel + 1, ptr, n, stuck =>
    let js := s.readyJobs die cls
    let stop : State := s.setDv { s.dv with turn := tabPut (4 * die + cls) (ptr, n) s.dv.turn }
    if js.all (fun j => stuck.contains j) then stop
    else if !js.contains ptr || s.weight ptr cls ≤ n then s.classPass die cls fuel (nextJob js ptr) 0 stuck
    else
      match s.queue ptr cls with
      | [] => stop
      | l :: _ =>
        match s.fit l with
        | some o => (s.placeAt l o).classPass die cls fuel ptr (n + 1) []
        | none => s.classPass die cls fuel (nextJob js ptr) 0 (ptr :: stuck)

/-- DISPATCH_PASS: the dispatchers decide in increasing die order, class 0 first. -/
def execDispatchPass (s : State) : Out :=
  let n := s.launches.length
  .next ((List.range 36).foldl (fun t i =>
    let p := tabGet (0, 0) t.dv.turn i
    if (t.readyJobs (i / 4) (i % 4)).isEmpty then t
    else t.classPass (i / 4) (i % 4) ((n + 1) * (n + 3)) p.1 p.2 []) s)

/-! ### Class targets (21 R304) -/

/-- The longest-waiting unplaced ready launch of a class. -/
def State.longest (s : State) (cls : Nat) : Option Launch :=
  (s.launches.filter (fun l => l.stage == .ready && !l.cancelled && l.record.cls == cls)).foldl (fun o l =>
    match o with
    | none => some l
    | some m => if l.readyAt < m.readyAt then some l else some m) none

/-- A launch may be a victim of class c: placed, of a lower class, not being pre-empted, and its image fits a free slot. -/
def State.victim (s : State) (c : Nat) (l : Launch) : Bool :=
  l.stage == .placed && c < l.record.cls && !l.preempt && !(s.freeSlots l.job (s.imageCells l)).isEmpty

/-- The launches that hold clusters of a rectangle. -/
def State.holders (s : State) (cs : List Nat) : List Launch :=
  s.launches.filter (fun l => cs.any (fun c => (s.cluster c).owner == some l.id))

/-- The victims have room in their jobs' casks together. -/
def State.casksHold (s : State) (vs : List Launch) : Bool :=
  vs.all (fun v => (vs.filter (fun u => u.job == v.job)).length ≤ (s.freeSlots v.job (s.imageCells v)).length)

/-- The first origin whose clusters are free or held by victims. -/
def State.preemptAt (s : State) (l : Launch) : Option (Nat × Nat) :=
  l.origins.find? (fun o =>
    let cs := (l.atOrigin o).clusters
    s.suits l o && cs.all (fun c => s.freeFor l c ||
      (match s.ownerOf c with
        | some m => s.victim l.record.cls m
        | none => false)) && s.casksHold (s.holders cs))

/-- CLASS_TARGET_TIMEOUT: the longest-waiting launch of its class has waited longer than the class target; victims are
chosen and a rectangle is reserved. -/
def execClassTargetTimeout (l : Nat) (s : State) : Out :=
  match s.launch? l with
  | none => .next s
  | some x =>
    let tgt := (vget s.dv.classTgt x.record.cls 0).toNat
    if tgt = 0 || s.fc ≤ x.readyAt + 1024 * tgt || x.reserved.isSome || (s.longest x.record.cls).map (·.id) != some l then
      .next s
    else
      match s.preemptAt x with
      | none => .next s
      | some o =>
        let vs := (s.holders (x.atOrigin o).clusters).map (·.id)
        let s1 := vs.foldl (fun t v => t.modLaunch v (fun y => { y with preempt := true })) s
        .next (s1.modLaunch l (fun y => { y with reserved := some o }))

/-! ### Completion (21 R305) -/

/-- The engine activities of a region are over, as an implicit SPARGE waits for them; those that a halt or cancel has dropped
or stopped are not waited for, but a direct launch's cells in flight land (09 R152, R154; 22 R324). -/
def State.regionQuiet (s : State) (l : Launch) : Bool :=
  (s.regionCmds l).all (fun c => (s.port c.1).cmds.any (fun x => x.id == c.2 && x.ended)) &&
  (l.halted || l.cancelled || ((s.regionWalks l).isEmpty &&
    (s.endedWalks l).all (fun w => s.delivered l w.1 w.2.1 w.2.2.2 && s.slotsOver w.1 w.2.1 w.2.2.1))) &&
  (!l.record.direct || l.tiles.all (fun t => (s.tile t).gens.all (fun g => g.land.isEmpty)))

/-- A placed launch has nothing left to do: its declared strands have exited, no strand runs a task, its deques are empty,
its elements are complete or stopped, and its strands' accesses have performed (18 R268). -/
def State.launchDone (s : State) (l : Launch) : Bool :=
  !l.haltDue &&
  l.strands.all (fun k =>
    let x := s.strand k
    (!x.declared || x.mode == .exited) && !x.running && x.depth == 0 && (x.mode == .idle || x.mode == .exited) &&
      x.posted.isEmpty) &&
  l.clusters.all (fun c => (s.cluster c).deque.isEmpty) &&
  (!l.installed || l.halted || l.cancelled || s.allDone l) && s.regionQuiet l

/-- FWORD of a launch, if it has one, and the decrement of its DONE with its status. -/
def State.decrementDone (s : State) (x : Launch) (pa : Nat) : State :=
  let va := x.record.done.toNat
  let v := x.fword.toNat
  (if x.fword = 0 then s else s.partialWrite x.job (pa + 16) (va + 16) 8 v (shareOf (pa % 32 + 16) 8 v) none).decrementAt x.job
    va pa true x.status

/-- The launch ends: FWORD is written, and DONE is decremented with the launch's status. With DONE on a page that the pager must
bring, held by a merge group, or behind a bad park-area cell, it ends later. A DONE that has lost its mapping or has an invalid
state is recorded, and the parent takes the decrement itself (log 23). -/
def State.endLaunch (s : State) (x : Launch) : State :=
  let va := x.record.done.toNat
  let s0 := match x.image with
    | some a => s.setUsed x.job a false
    | none => s
  let s1 := s0.modLaunch x.id (fun y => { y with stage := .ended, xrec := s.launchX x, window := none, image := none })
  let r := s1.translate .bare x.job (s.launchX x) va
  let lost (t : State) : State :=
    (t.pushDecr x.job x.parent x.parentVa x.status).modLaunch x.id (fun y => { y with full := true })
  let go (t : State) (pa : Nat) : State :=
    match t.gate none x.job pa va true (t.decrFe pa) with
    | .pass u => u.decrementDone x pa
    | .invalid u => lost (u.feNote pa va x.job)
    | .held _ => s.closeMerges pa
    | .damaged _ => s.machineCheck (UnitRef.slice (homeOf pa)).abs x.job (BitVec.ofNat 64 va) (sliceTval pa)
  match r.1 with
  | .heap pa => go r.2 pa
  | .page pa _ _ => go r.2 pa
  | .discarded pa entry _ _ big => go (r.2.revive x.job va entry big) pa
  | .absent | .arriving => s
  | .noMap | .machine => lost (r.2.trubAdd (x.job % 9) 8 0 x.job 0x1F x.record.done)

/-- LAUNCH_COMPLETE: a launch that was cancelled before it ran, or one that has nothing left to do and whose last window
commits, ends. One that has ended gives its region back once its DONE is full. -/
def execLaunchComplete (l : Nat) (s : State) : Out :=
  match s.launch? l with
  | none => .next s
  | some x =>
    match x.stage with
    | .waiting => .next s
    | .ready => .next (if x.cancelled then s.endLaunch x else s)
    | .ended =>
      if x.full then .next (s.retireLaunch x)
      else
        match s.doneOfLaunch x with
        | some pa => .next (if (s.mem.sideAt pa).fe = 2 then s.launchFull pa x else s)
        | none => .next s
    | .placed =>
      if !s.launchDone x then .next s
      else
        match x.window with
        | none => .next (s.endLaunch x)
        | some _ =>
          match s.commitWindow l with
          | (false, s1) => .next (s1.closeWindow l)
          | (true, s1) =>
            match s1.launch? l with
            | some y => .next (if s1.launchDone y then s1.endLaunch y else s1)
            | none => .next s1

end Sys2Proof.Machine
end

