-- ==== Sys2Proof/Machine/Traps.lean ====
section
/-! DEFINITION. Traps by instruction, the return from a handler, refused and unfetched words, and the supervisor's trap
ring (06 R100–R102; 04 R77; 06 R88; 22 R320, R321). -/

namespace Sys2Proof.Machine

/-- TRAP: cause 0x03 with the zero-extended code; SQ_EPC is the word after the instruction or pair (06 R100). -/
def execTrap (code : BitVec 16) (s : State) : Out :=
  .next (s.takeTrap s.issue.k 0x03 (s.zext16 code) s.nextPc s.isPair)

/-- SVC: cause 0x04, served by the supervisor (06 R100). -/
def execSvc (code : BitVec 16) (s : State) : Out :=
  .next (s.takeTrap s.issue.k 0x04 (s.zext16 code) s.nextPc s.isPair)

/-- RETT: return from a handler; illegal for a job strand outside one (06 R102). -/
def execRett (s : State) : Out :=
  .next (if !s.cur.priv && !s.cur.intrap then s.illegal (tvalWord .rett) else s.returnFromTrap)

/-- A word that no instruction is assigned to, or that breaks a field rule: trap 0x01 with the word (04 R77). -/
def execIllegalInstruction (w : Word32) (s : State) : Out := .next (s.illegal (w.zeroExtend 64))

/-- The next instruction cannot be fetched: the fault is taken at its address (06 R88). -/
def execInstructionFetchFault (cause : BitVec 8) (tval : Word64) (s : State) : Out := .next (s.trap cause tval)

/-! ### The trap ring (22 R320) -/

/-- The cell of a trap record. -/
def TrapRec.cell (r : TrapRec) : CellData :=
  BitVec.ofNat 256 (r.epc.toNat + 2 ^ 64 * r.tval.toNat + 2 ^ 128 * r.unit.toNat + 2 ^ 144 * r.code.toNat +
    2 ^ 152 * (if r.pair then 1 else 0) + 2 ^ 160 * r.job.toNat)

/-- The ring cell the next record goes to. -/
def State.trapCell (s : State) : Nat :=
  bits s.dv.trapring.toNat 5 39 * 32 + 32 * (s.dv.posted % 2 ^ bits s.dv.trapring.toNat 0 5)

/-- TRAP_RECORD_POST: the oldest record is posted with a filling store, once its ring cell is empty (22 R320). Whatever else
keeps a filling store from performing keeps it (14 R223; 16 R233). -/
def execTrapRecordPost (s : State) : Out :=
  match s.traps with
  | [] => .next s
  | r :: rest =>
    if bits s.dv.trapring.toNat 0 5 = 0 || (s.mem.sideAt s.trapCell).fe ≠ 1 then .next s
    else
      let a := s.trapCell
      match s.gate none 0 a a true (some 2) with
      | .pass t =>
        let s1 := (t.wholeWrite 0 a a r.cell (gen r.cell)).setFe 0 a a 2
        .next { (s1.setDv { s1.dv with posted := s1.dv.posted + 1 }) with traps := rest }
      | .held t => .next t
      | _ => .next s

/-! ### The end of a suspension (22 R321) -/

/-- The resumption address of an SQ_RESUME value. -/
def resumeAddr (v : Word64) : Word64 := v &&& ~~~3

/-- ACT 0: the strand goes on at ADDR·4, its SQ_ registers as they were. -/
def State.resumeStrand (s : State) (k : Nat) (v : Word64) : State :=
  s.setStrand k { s.strand k with mode := .ready, pc := resumeAddr v, susp := none, pend := none }

/-- ACT 1: the strand ends as at EXIT, and its launch takes FAULT. -/
def State.resumeEnd (s : State) (k : Nat) : State := (s.strandFault k).endStrand k

/-- ACT 2: the trap is delivered to the job as a translation fault. -/
def State.resumeDeliver (s : State) (k : Nat) (v : Word64) : State :=
  let x := s.strand k
  match x.susp with
  | none => s
  | some r => (s.setStrand k { x with susp := none }).takeTrap k 0x05 r.tval (resumeAddr v) r.pair

/-- The strand is suspended. -/
def State.suspended (s : State) (k : Nat) : Bool := (s.strand k).mode == .suspended

/-- A write of SQ_RESUME to a suspended strand; ACT 3 is ignored (22 R321). -/
def State.sqResume (s : State) (k : Nat) (v : Word64) : State :=
  match bits v.toNat 0 2 with
  | 0 => s.resumeStrand k v
  | 1 => s.resumeEnd k
  | 2 => s.resumeDeliver k v
  | _ => s

/-- SQ_RESUME with ACT 0 (22 R321). -/
def execSqResumeResume (k : Nat) (v : Word64) (s : State) : Out :=
  .next (if s.suspended k && bits v.toNat 0 2 == 0 then s.resumeStrand k v else s)

/-- SQ_RESUME with ACT 1 (22 R321). -/
def execSqResumeEnd (k : Nat) (v : Word64) (s : State) : Out :=
  .next (if s.suspended k && bits v.toNat 0 2 == 1 then s.resumeEnd k else s)

/-- SQ_RESUME with ACT 2 (22 R321). -/
def execSqResumeDeliver (k : Nat) (v : Word64) (s : State) : Out :=
  .next (if s.suspended k && bits v.toNat 0 2 == 2 then s.resumeDeliver k v else s)

end Sys2Proof.Machine
end

