-- ==== Sys2Proof/Machine/Windows.lean ====
section
/-! DEFINITION. What commit windows do by themselves: commit, void and re-run (22 R325, R327, R328). -/

namespace Sys2Proof.Machine

/-- WINDOW_COMMIT: the window commits at its last admissible boundary not later than 8,192 fc after it opened, or at the
first one once something asked it to close early; a commit that has begun goes on (22 R325). -/
def execWindowCommit (l : Nat) (s : State) : Out :=
  match s.launch? l with
  | none => .next s
  | some x =>
    match x.window with
    | none => .next s
    | some w =>
      if w.committing || w.close || w.opened + 8192 < s.fc + s.boundaryStep x then .next (s.commitWindow l).2 else .next s

/-- WINDOW_VOID: a window for which a fault was met is voided (22 R328). -/
def execWindowVoid (l : Nat) (s : State) : Out :=
  match s.launch? l with
  | none => .next s
  | some x =>
    match x.window with
    | none => .next s
    | some w => if w.fault.isSome && !w.voided then .next (s.voidWindow l) else .next s

/-- What the pager has made of the address that voided a window. -/
inductive Paged where
  | mapped | pending | never
deriving DecidableEq, Repr

/-- Whether the pager has acted on an address: resident, still awaited, or without a mapping (22 R328). -/
def State.paged (s : State) (x : Launch) (va : Nat) : Paged :=
  match (s.translate .bare x.job x.xrec va).1 with
  | .heap _ => .mapped
  | .page .. => .mapped
  | .discarded .. => .mapped
  | .absent => .pending
  | .arriving => .pending
  | .noMap => .never
  | .machine => .never

/-- The cycles of the launch's round grid, 1 without groups: windowed groups share K (22 R325). -/
def Launch.grid (l : Launch) : Nat :=
  match l.groups with
  | [] => 1
  | g :: _ => Nat.max 1 (roundLen g.k l.slotLen)

/-- The open window of a launch runs again from its records: its 8,192 fc count from now, and rounds that were to come keep
their distance from its opening (22 R327, R328). -/
def State.rerunWindow (s : State) (l : Nat) : State :=
  s.modLaunch l (fun y =>
    match y.window with
    | none => y
    | some v =>
      let later (g : Group) : Group := { g with t0 := g.t0 + (s.fc - v.opened) }
      { y with groups := y.groups.map later,
               window := some { v with opened := s.fc, voided := false, fault := none, close := false,
                                       groups := v.groups.map later } })

/-- WINDOW_RERUN: once the pager has mapped the page the window runs again, at a cycle that keeps the launch's round grid (22
R325); when it cannot, the launch halts with the element fault "translation fault" (22 R328). -/
def execWindowRerun (l : Nat) (s : State) : Out :=
  match s.launch? l with
  | none => .next s
  | some x =>
    match x.window with
    | none => .next s
    | some w =>
      match w.fault with
      | none => .next s
      | some (word, va, _) =>
        if !w.voided || x.halted || x.cancelled then .next s
        else
          match s.paged x va with
          | .mapped => if (s.fc - w.opened) % x.grid = 0 then .next (s.rerunWindow l) else .next s
          | .pending => .next s
          | .never =>
            match x.unit? (bits word.toNat 48 16) with
            | some u => .next (s.elementFault u x 0x0A 0 0 0 (faultInfo va))
            | none => .next s

end Sys2Proof.Machine
end

