-- ==== Sys2Proof/Machine/Registers.lean ====
section
/-! DEFINITION. The control registers: which number belongs to which unit, what a read returns and clears, and what a
write changes (06 R89–R91, R98; 00 R6; and the register maps of the other chapters). -/

namespace Sys2Proof.Machine

/-! ### Strand registers, 0x000–0x009 and 0x080–0x09F -/

/-- Read a strand's SQ_ register (06 R90, R91; 21 R310; 22 R321). -/
def Strand.readSq (x : Strand) (k num : Nat) : Option Word64 :=
  match num with
  | 0x000 => some (BitVec.ofNat 64 ((if x.priv then 8 else 0) + (if x.intrap then 4 else 0) + (if x.prio then 1 else 0)))
  | 0x001 => some (x.cause.zeroExtend 64)
  | 0x002 => some x.epc
  | 0x003 => some x.tval
  | 0x004 => some x.tvec
  | 0x005 => some (x.retry.zeroExtend 64)
  | 0x006 => some x.scratch
  | 0x007 => some (BitVec.ofNat 64 ((UnitRef.strand k).abs.toNat * 65536 + x.job.toNat * 256 + x.rcl.toNat))
  | 0x008 => some (BitVec.ofNat 64 ((if x.running then 256 else 0) + x.depth.toNat))
  | 0x009 => some 0
  | _ => none

/-- Write a strand's SQ_ register: its RW fields take the value. -/
def Strand.writeSq (x : Strand) (num : Nat) (v : Word64) : Strand :=
  match num with
  | 0x000 => { x with prio := v.getLsbD 0 }
  | 0x001 => { x with cause := v.extractLsb' 0 9 }
  | 0x002 => { x with epc := v &&& ~~~3 }
  | 0x003 => { x with tval := v }
  | 0x004 => { x with tvec := v &&& ~~~3 }
  | 0x005 => { x with retry := v.extractLsb' 0 16 }
  | 0x006 => { x with scratch := v }
  | _ => x

/-! ### Element registers, 0x200–0x21F -/

/-- The input channels with a switch token at their head (07 R119). -/
def Element.blocked (x : Element) : Nat :=
  (List.range 8).foldl (fun a n => match (x.inp n).buf with
    | t :: _ => if t.sw then a + 2 ^ n else a
    | [] => a) 0

/-- The version of a plane, 0 when there is none. -/
def planeVer (p : Option Plane) : Nat := match p with
  | some y => y.ver.toNat
  | none => 0

/-- EL_MATRIX (20 R279). -/
def Arr.word (a : Arr) : Nat :=
  a.aFmt.toNat * 2 ^ 28 + a.bFmt.toNat * 2 ^ 24 + (if a.half then 2 ^ 23 else 0) + (if a.cfg then 2 ^ 22 else 0) +
  (if a.acc1.inUse then 2 ^ 21 else 0) + (if a.acc0.inUse then 2 ^ 20 else 0) + (if a.acc1.blk.isSome then 2 ^ 19 else 0) +
  (if a.acc0.blk.isSome then 2 ^ 18 else 0) + (if a.hacc then 2 ^ 17 else 0) + a.acc1.ptr.toNat * 256 + a.acc0.ptr.toNat

/-- Read an element's EL_ register (07 R119; 08 R123; 12 R199; 20 R279; 22 R323). -/
def Element.readEl (x : Element) (num : Nat) : Option Word64 :=
  if num = 0x200 then some (x.bank.zeroExtend 64)
  else if num = 0x201 then some (BitVec.ofNat 64 (x.blocked * 65536 + planeVer x.standby * 256 + planeVer x.plane))
  else if num = 0x202 then some (BitVec.ofNat 64 ((if x.complete then 4 else 0) + (if x.faulted then 2 else 0) +
    (if x.busy then 1 else 0)))
  else if num = 0x203 then some (BitVec.ofNat 64 x.arr.word)
  else if 0x204 ≤ num && num ≤ 0x207 then some ((vget x.kc (num - 0x204) 0).zeroExtend 64)
  else if 0x208 ≤ num && num ≤ 0x20B then some ((vget x.evm (num - 0x208) 0).zeroExtend 64)
  else if num = 0x20C then some x.fault
  else if 0x210 ≤ num && num ≤ 0x21F then some ((vget x.lp (num - 0x210) 0).zeroExtend 64)
  else none

/-- Write an element's EL_ register. -/
def Element.writeEl (x : Element) (num : Nat) (v : Word64) : Element :=
  if num = 0x200 then { x with bank := v.extractLsb' 0 2 }
  else if 0x204 ≤ num && num ≤ 0x207 then { x with kc := vset x.kc (num - 0x204) (v.extractLsb' 0 32) }
  else if 0x208 ≤ num && num ≤ 0x20B then { x with evm := vset x.evm (num - 0x208) (v.extractLsb' 0 16) }
  else if 0x210 ≤ num && num ≤ 0x21F then { x with lp := vset x.lp (num - 0x210) (v.extractLsb' 0 32) }
  else x

/-! ### Memory-tile registers, 0x300–0x318 and 0x400–0x4C1 -/

/-- Tokens a fifo tile holds. -/
def Tile.fifoHeld (x : Tile) : Nat := if x.mode = 1 then x.put - x.take else 0
/-- Token entries a fifo tile has free. -/
def Tile.fifoFree (x : Tile) : Nat := if x.mode = 1 then x.qsize / 64 - x.fifoHeld else 0

/-- The walk in progress is a writer. -/
def Walk.write (w : Walk) : Bool := w.pat.getLsbD 32

/-- MT_AG of a generator (09 R160). -/
def Gen.word (g : Gen) : Nat :=
  (if g.walk.isSome then 2 ^ 31 else 0) + (if g.landing then 2 ^ 30 else 0) + (if g.waiting then 2 ^ 29 else 0) +
  (match g.walk with
    | some w => if w.write then 2 ^ 28 else 0
    | none => 0) + g.tokens.toNat

/-- Read a memory tile's MT_ register (09 R160, 22 R323). -/
def Tile.readMt (x : Tile) (num : Nat) : Option Word64 :=
  if num = 0x300 then some (x.mode.zeroExtend 64)
  else if num = 0x301 then some (BitVec.ofNat 64 (x.fifoFree * 65536 + x.fifoHeld))
  else if 0x308 ≤ num && num ≤ 0x30F then
    some (BitVec.ofNat 64 ((x.buf (num - 0x308)).filled * 256 + (x.buf (num - 0x308)).free))
  else if 0x310 ≤ num && num ≤ 0x313 then some (BitVec.ofNat 64 (x.gen (num - 0x310)).word)
  else if 0x314 ≤ num && num ≤ 0x317 then some ((x.gen (num - 0x314)).retry.zeroExtend 64)
  else if num = 0x318 then some x.fault
  else none

/-- Write a memory tile's MT_ register: a buffer's counters only while no slot is claimed and within SLOTS. -/
def Tile.writeMt (x : Tile) (num : Nat) (v : Word64) : Tile :=
  if 0x308 ≤ num && num ≤ 0x30F then
    let b := x.buf (num - 0x308)
    let free := bits v.toNat 0 3
    let filled := bits v.toNat 8 3
    if !b.claims.isEmpty || !b.taken.isEmpty || b.slots < free + filled then x
    else x.setBuf (num - 0x308) { b with free := free, filled := filled }
  else if 0x314 ≤ num && num ≤ 0x317 then
    x.setGen (num - 0x314) { x.gen (num - 0x314) with retry := v.extractLsb' 0 16 }
  else x

/-- The flag bits of a member entry, in R190's order from bit 6 down. -/
def WEntry.flags (w : WEntry) : Nat :=
  (if w.stepping then 64 else 0) + (if w.stretching then 32 else 0) + (if w.degraded then 16 else 0) +
  (if w.nan then 8 else 0) + (if w.sat then 4 else 0) + (if w.breached then 2 else 0)

/-- WG_ENTRY (12 R195). -/
def WEntry.entryWord (w : WEntry) : Nat :=
  w.group.toNat * 2 ^ 50 + w.rank.toNat * 2 ^ 47 + (w.k - 1) * 2 ^ 44 + w.coff.toNat * 2 ^ 32 + w.block.toNat * 65536 +
  (if w.isOpen then 2 else 0) + 1

/-- WG_STAT (12 R195). -/
def WEntry.statWord (w : WEntry) : Nat :=
  w.round % 1024 * 2 ^ 54 + w.step % 16 * 2 ^ 50 + w.stretch.toNat * 2 ^ 42 + w.absent.toNat * 2 ^ 34 +
  w.lost.toNat * 2 ^ 26 + (if w.selfAbsent then 128 else 0) + w.flags

/-- WG_CNT (12 R195). -/
def WEntry.cntWord (w : WEntry) : Nat := w.events.toNat * 2 ^ 32 + w.steps.toNat * 65536 + w.breaches.toNat

/-- The member entry n of a tile. -/
def Tile.entry (x : Tile) (n : Nat) : Option WEntry := (x.watch.find? (fun w => w.1 == n)).map (·.2)

/-- A mask with a bit for each entry that satisfies p. -/
def Tile.entryMask (x : Tile) (p : WEntry → Bool) : Nat :=
  x.watch.foldl (fun a w => if p w.2 then a + 2 ^ w.1 else a) 0

/-- Read a memory tile's WG_ register (12 R195). -/
def Tile.readWg (x : Tile) (num : Nat) : Option Word64 :=
  let word (n : Nat) (f : WEntry → Nat) : Option Word64 :=
    some (BitVec.ofNat 64 (match x.entry n with
      | some w => f w
      | none => 0))
  if 0x400 ≤ num && num ≤ 0x43F then word (num - 0x400) WEntry.entryWord
  else if 0x440 ≤ num && num ≤ 0x47F then word (num - 0x440) WEntry.statWord
  else if 0x480 ≤ num && num ≤ 0x4BF then word (num - 0x480) WEntry.cntWord
  else if num = 0x4C0 then some (BitVec.ofNat 64 (x.entryMask (·.isOpen)))
  else if num = 0x4C1 then some (BitVec.ofNat 64 (x.entryMask (fun _ => true)))
  else none

/-! ### Cluster registers, 0x100–0x107 -/

/-- The governor's window has moved on: the count starts anew and a written budget takes effect. -/
def State.govRoll (s : State) (c : Nat) : State :=
  let cl := s.cluster c
  if cl.window = s.cycle / 256 then s
  else s.setCluster c { cl with window := s.cycle / 256, spent := 0, budget := cl.budgetDue.getD cl.budget, budgetDue := none }

/-- Read a cluster's CL_ register; a read of an RC field clears it (02 R30; 16 R244; 20 R294; 21 R310; 22 R323). -/
def State.readCl (s : State) (c num : Nat) : Option (Word64 × State) :=
  let x := s.cluster c
  match num with
  | 0x100 => some (x.present.zeroExtend 64, s)
  | 0x101 => some (((s.govRoll c).cluster c).budget.zeroExtend 64, s.govRoll c)
  | 0x102 => some (x.govStall, s.setCluster c { x with govStall := 0 })
  | 0x103 => some (x.corr ++ x.bad, s.setCluster c { x with corr := 0, bad := 0 })
  | 0x104 => some (BitVec.ofNat 64 x.deque.length, s)
  | 0x105 => some ((s.port (3 * c)).fault, s)
  | 0x106 => some ((s.port (3 * c + 1)).fault, s)
  | 0x107 => some ((s.port (3 * c + 2)).fault, s)
  | _ => none

/-- The presence bits of a cluster that its launch holds until it completes or is cancelled: the sequencer and what its need
mask names (02 R32). -/
def State.heldBits (s : State) (c : Nat) : BitVec 22 :=
  match s.ownerOf c with
  | none => 0
  | some l => if l.cancelled then 0 else l.record.needs.getD (l.rcl c) 0 ||| 0x200000

/-- A supervisor's write of CL_PRESENT: bits of held units are cleared only when the launch ends (02 R32). -/
def State.writePresent (s : State) (c : Nat) (v : BitVec 22) : State :=
  let x := s.cluster c
  let keep := x.present &&& s.heldBits c &&& ~~~v
  s.setCluster c { x with present := v ||| keep, held := if keep = 0 then none else some v }

/-- A write of CL_ISSUEBUDGET waits for the next governor window (20 R294). -/
def State.writeBudget (s0 : State) (c : Nat) (v : Word64) : State :=
  let s := s0.govRoll c
  let x := s.cluster c
  s.setCluster c { x with budgetDue := some (BitVec.ofNat 12 (Nat.min (bits v.toNat 0 12) 3072)) }

/-! ### Device registers, 0x500–0x50D -/

/-- Every target reloads its access table from memory (23 R340). -/
def State.reloadAccess (s : State) : State :=
  let base := s.dv.acctab.toNat
  let t := (s.mem.bytes.filter (fun b => base ≤ b.1 && b.1 < base + 256 * 1273)).map (fun b => (b.1 - base, b.2))
  s.setDv { s.dv with access := t, loaded := true }

/-- A power limit within 600 to 3,600 W (23 R343). -/
def capClamp (v : BitVec 16) : BitVec 16 := if 3600 < v.toNat then 3600 else if v.toNat < 600 then 600 else v

/-- The measured power and inlet temperature are taken anew (23 R343, log 10). -/
def State.measure (s : State) : State :=
  let r := s.nextFree
  r.2.setDv { r.2.dv with powerMeas := Config.powerMeas r.1, powerTemp := Config.powerTemp r.1 }

/-- Read a DV_ register as the supervisor does (03 R48; 14 R209; 16 R233, R244; 21 R298, R304; 22 R320, R330; 23 R340,
R343). -/
def State.readDv (s : State) (num : Nat) : Option (Word64 × State) :=
  let d := s.dv
  match num with
  | 0x500 => some (d.fprev.zeroExtend 64, s)
  | 0x501 => some (d.jobtab, s)
  | 0x502 => some (d.parktab, s)
  | 0x503 => some (d.corr ++ d.bad, s.setDv { d with corr := 0, bad := 0 })
  | 0x504 => some (d.worktab, s)
  | 0x505 => some (d.classTgt[0].zeroExtend 64, s)
  | 0x506 => some (d.classTgt[1].zeroExtend 64, s)
  | 0x507 => some (d.classTgt[2].zeroExtend 64, s)
  | 0x508 => some (d.classTgt[3].zeroExtend 64, s)
  | 0x509 => some (d.trapring, s)
  | 0x50A => some (d.casktab, s)
  | 0x50B => let m := s.measure.dv; some (((0 : BitVec 16) ++ m.powerTemp ++ m.powerMeas ++ m.powerCap), s.measure)
  | 0x50C => some (d.acctab, s)
  | 0x50D => some (d.accgen, s)
  | _ => none

/-- The bits of v from lo to hi, in place. -/
def keepBits (v : Word64) (hi lo : Nat) : Word64 := BitVec.ofNat 64 (bits v.toNat lo (hi + 1 - lo) * 2 ^ lo)

/-- Write a DV_ register as the supervisor does. -/
def State.writeDv (s : State) (num : Nat) (v : Word64) : State :=
  let d := s.dv
  let tgt (n : Nat) : State := s.setDv { d with classTgt := vset d.classTgt n (v.extractLsb' 0 32) }
  match num with
  | 0x501 => s.setDv { d with jobtab := keepBits v 43 14 }
  | 0x502 => s.setDv { d with parktab := keepBits v 43 20 ||| keepBits v 5 0 }
  | 0x504 => s.setDv { d with worktab := keepBits v 43 14 }
  | 0x505 => tgt 0
  | 0x506 => tgt 1
  | 0x507 => tgt 2
  | 0x508 => tgt 3
  | 0x509 => s.setDv { d with trapring := keepBits v 43 0, posted := 0 }
  | 0x50A => s.setDv { d with casktab := keepBits v 43 20 ||| keepBits v 5 0 }
  | 0x50B => s.setDv { d with powerCap := capClamp (v.extractLsb' 0 16) }
  | 0x50C => s.setDv { d with acctab := keepBits v 43 8 }
  | 0x50D => (s.setDv { d with accgen := v }).reloadAccess
  | _ => s

/-! ### Any unit -/

/-- The owners of the number ranges (06 R89). -/
inductive Owner where
  | sq | gregs | cl | el | mt | wg | dv
deriving DecidableEq, Repr

/-- The owner of a register number. -/
def ownerOfNum (num : Nat) : Option Owner :=
  if num < 0x80 then some .sq
  else if num < 0xA0 then some .gregs
  else if num < 0x100 then none
  else if num < 0x200 then some .cl
  else if num < 0x300 then some .el
  else if num < 0x400 then some .mt
  else if num < 0x500 then some .wg
  else if num < 0x600 then some .dv
  else none

/-- The named unit may own a register of the range (06 R89). -/
def Owner.fits (o : Owner) (u : UnitRef) : Bool :=
  match o, u with
  | .sq, .strand _ => true
  | .gregs, .strand _ => true
  | .cl, u => u.cluster.isSome
  | .el, .element _ => true
  | .mt, .tile _ => true
  | .wg, .tile _ => true
  | .dv, _ => true
  | _, _ => false

/-- Read a register of a unit; none if the unit does not implement the number. -/
def State.readUnit (s : State) (o : Owner) (u : UnitRef) (num : Nat) : Option (Word64 × State) :=
  match o, u with
  | .sq, .strand k => ((s.strand k).readSq k num).map (fun v => (v, s))
  | .gregs, .strand k => some ((s.strand k).reg (BitVec.ofNat 5 (num - 0x80)), s)
  | .cl, u => s.readCl (u.cluster.getD 0) num
  | .el, .element e => ((s.element e).readEl num).map (fun v => (v, s))
  | .mt, .tile t => ((s.tile t).readMt num).map (fun v => (v, s))
  | .wg, .tile t => ((s.tile t).readWg num).map (fun v => (v, s))
  | .dv, _ => s.readDv num
  | _, _ => none

/-- Write a register of a unit; RO fields ignore it (00 R6). -/
def State.writeUnit (s : State) (o : Owner) (u : UnitRef) (num : Nat) (v : Word64) : State :=
  match o, u with
  | .sq, .strand k => if num = 9 then s.sqResume k v else s.setStrand k ((s.strand k).writeSq num v)
  | .gregs, .strand k => s.setStrand k ((s.strand k).setReg (BitVec.ofNat 5 (num - 0x80)) v)
  | .cl, u =>
    let c := u.cluster.getD 0
    if num = 0x100 then s.writePresent c (v.extractLsb' 0 22) else if num = 0x101 then s.writeBudget c v else s
  | .el, .element e => s.setElement e ((s.element e).writeEl num v)
  | .mt, .tile t => s.setTile t ((s.tile t).writeMt num v)
  | .dv, _ => s.writeDv num v
  | _, _ => s

end Sys2Proof.Machine
end

