-- ==== Sys2Proof/Machine/Power.lean ====
section
/-! DEFINITION. The issue-budget governor's windows (20 R293), the power governor (23 R343, R344), freezing, and units
that fail in service (02 R32, 23 R348). -/

namespace Sys2Proof.Machine

/-! ### The governor's window (20 R293, R294) -/

/-- GOVERNOR_WINDOW: a new window of cluster c begins. -/
def execGovernorWindow (c : Nat) (s : State) : Out := .next (s.govRoll c)

/-! ### The power governor (23 R344) -/

/-- The budget of every cluster is set. -/
def State.setBudgets (s : State) (b : Nat) : State :=
  (List.range Config.clusters).foldl (fun t c => t.writeBudget c (BitVec.ofNat 64 b)) s

/-- The budget that follows a budget, from the measured power and the limit. -/
def nextBudget (b meas cap : Nat) : Nat :=
  if cap < meas then b - 64 else if meas + 100 < cap then Nat.min 3072 (b + 16) else b

/-- Every clock stops (23 R346). -/
def State.freeze (s : State) : State := s.setDv { s.dv with frozen := true }

/-- POWER_GOVERNOR_TICK: every 4,000,000 fc the firmware compares the measured power with the limit; over 60 °C the budget
is 0 until the temperature falls below 55 °C, and at 70 °C the module freezes. -/
def execPowerGovernorTick (s : State) : Out :=
  .next (
    if !s.dv.readyBit || s.cycle / 4000000 ≤ s.dv.tick then s
    else
      let s1 := s.measure
      let d := s1.dv
      let t := d.powerTemp.toNat
      let hot := 960 < t || (d.hot && 880 ≤ t)
      let x := s.cluster 0
      let b := (x.budgetDue.getD x.budget).toNat
      let s2 := (s1.setBudgets (if hot then 0 else nextBudget b d.powerMeas.toNat d.powerCap.toNat)).setDv
        { d with hot := hot, tick := s.cycle / 4000000 }
      if 1120 ≤ t then s2.freeze else s2)

/-- CW_POWERCAP_WRITE: the PF's limit, copied to DV_POWER.CAP (23 R337, R343). -/
def execCwPowercapWrite (f : Nat) (cap : BitVec 16) (s : State) : Out :=
  .next (if f = 0 then s.setDv { s.dv with hostCap := cap, powerCap := capClamp cap } else s)

/-- CW_CONTROL_FREEZE: ACT 2 from the PF with the key (23 R337, R346). -/
def execCwControlFreeze (f : Nat) (key : BitVec 56) (s : State) : Out :=
  .next (if f = 0 && key == 0x5A then s.freeze else s)

/-! ### Units that fail in service (02 R32, 23 R348) -/

/-- The launch that holds a unit: the sequencer and strands of its clusters, and what its need mask names. -/
def State.holderOf (s : State) (u : UnitRef) : Option Launch :=
  match u.cluster with
  | none => none
  | some c =>
    match s.ownerOf c with
    | none => none
    | some l => match u with
      | .strand _ => some l
      | .seam _ _ => none
      | _ => if l.needs u then some l else none

/-- The supervisor clears the presence bit of a unit, held back while a launch holds it (02 R32). -/
def State.clearPresent (s : State) (u : UnitRef) : State :=
  match u with
  | .slice _ | .seam _ _ => s
  | _ =>
    match u.cluster with
    | none => s
    | some c =>
      let x := s.cluster c
      s.writePresent c ((x.held.getD x.present) &&& ~~~(BitVec.ofNat 22 (2 ^ u.needBit)))

/-- The supervisor clears the presence bit of a failed unit and appends the unit to the service history (23 R348). -/
def State.retireUnit (s : State) (u : UnitRef) : State :=
  let t := s.clearPresent u
  { t with service := t.service ++ [u.abs] }

/-- UNIT_FAILURE: the launch that holds the unit takes the element fault "unit failed", but a memory tile with members of
watch groups only stops and is absent from them. -/
def execUnitFailure (u : BitVec 16) (s : State) : Out :=
  match unitAbs u.toNat with
  | none => .next s
  | some x =>
    let h := s.holderOf x
    let s1 := s.trubAdd x.die 5 u ((h.map (·.job)).getD 0xFF) 0x13 0
    let s2 := match x with
      | .tile t => s1.setTile t { s1.tile t with failed := true }
      | _ => s1
    let s3 := match h, x with
      | some l, .tile t => if (s.tile t).watch.isEmpty then s2.elementFault x l 0x13 0 0 0 0 else s2
      | some l, _ => s2.elementFault x l 0x13 0 0 0 0
      | none, _ => s2
    .next (s3.retireUnit x)

end Sys2Proof.Machine
end

