-- ==== Sys2Proof/Machine/Host.lean ====
section
/-! DEFINITION. The host port (23 R336–R338; 18 R271): posted writes and fills, reads, wait slots, and resets of a virtual
function. -/

namespace Sys2Proof.Machine

/-- A function of the host port: the PF or one of 192 VFs (23 R335). -/
def funcOk (f : Nat) : Bool := f ≤ 192

/-- The access-table entry of function f at the home slice of an address (23 R339). -/
def State.hostRight (s : State) (f pa : Nat) : Nat := s.access (targetSlice (homeOf pa)) (256 + f)

/-- The virtual address of an offset in a function's windows. -/
def State.hostVa (s : State) (f : Nat) (o : BitVec 41) : Nat := ((s.func f).membase.toNat + o.toNat) % 2 ^ 52

/-! ### Posted writes (18 R271, 23 R336) -/

/-- A number from bytes, lowest first. -/
def bytesNat : List Byte → Nat
  | [] => 0
  | b :: t => b.toNat + 256 * bytesNat t

/-- n bytes of a number, lowest first. -/
def natBytes (v : Nat) : Nat → List Byte
  | 0 => []
  | n + 1 => BitVec.ofNat 8 v :: natBytes (v / 256) n

/-- The head write of a function is discarded: WERR, and a refusal in the trub record. -/
def State.hostDiscard (s : State) (f va : Nat) (u : BitVec 16) (die : Nat) : State :=
  let x := s.func f
  (s.setFunc f { x with werr := true, posted := x.posted.drop 1 }).trubAdd die 9 u f 0x02 (BitVec.ofNat 64 va)

/-- The first n bytes of the head write have performed. -/
def State.hostDone (s : State) (f n : Nat) : State :=
  let x := s.func f
  match x.posted with
  | [] => s
  | w :: t =>
    let rest := w.bytes.drop n
    s.setFunc f { x with posted := if rest.isEmpty then t else
      { w with va := w.va + n, bytes := rest, place := .none } :: t }

/-- n bytes of a host write are stored in one cell, and a fill sets it full: a whole cell takes new data and code, less is
merged (16 R242, R243). -/
def State.hostStore (s : State) (f : Nat) (w : HostWrite) (pa n : Nat) : State :=
  let v := bytesNat (w.bytes.take n)
  let s1 := if n = 32 then s.wholeWrite f pa w.va (BitVec.ofNat 256 v) (gen (BitVec.ofNat 256 v))
    else s.partialWrite f pa w.va n v (shareOf (pa % 32) n v) none
  if w.fill then s1.setFe f pa w.va 2 else s1

/-- The head write's piece that lies in one cell performs at an address; a fill waits while the cell is full, without a budget
(23 R336). False when it waits. A cell of invalid state takes nothing and is recorded (16 R232, log 12). -/
def State.hostPiece (s : State) (f : Nat) (w : HostWrite) (pa n : Nat) : Bool × State :=
  match s.gate (some (.fill f)) f pa w.va true (if w.fill then some 2 else none) with
  | .invalid t => (true, ((t.dropWait (.fill f)).feNote pa w.va f).hostDone f n)
  | .held t => (false, t)
  | .damaged t => (false, t.machineCheck (UnitRef.slice (homeOf pa)).abs f (BitVec.ofNat 64 w.va) (sliceTval pa))
  | .pass t =>
    if w.fill && (t.mem.sideAt pa).fe == 2 then
      (false, match w.place with
        | .none => t.enterWait (.fill f) pa w.va 2 false
        | _ => t.reWait (.fill f) pa w.va 2)
    else (true, ((t.dropWait (.fill f)).hostStore f w pa n).hostDone f n)

/-- The head write of a function is examined: it performs, is discarded, or waits (false). -/
def State.hostHead (s : State) (f : Nat) (w : HostWrite) : Bool × State :=
  let n := Nat.min w.bytes.length (32 - w.va % 32)
  let r := s.translate .bare f (s.xrecOf f) w.va
  let refuse (t : State) (pa : Nat) : Bool × State :=
    let u := UnitRef.slice (homeOf pa)
    (true, (t.dropWait (.fill f)).hostDiscard f w.va u.abs u.die)
  let piece (t : State) (pa : Nat) (ok : Bool) : Bool × State :=
    if ok && 2 ≤ t.hostRight f pa then t.hostPiece f w pa n else refuse t pa
  if w.bytes.isEmpty then (true, s.hostDone f 0)
  else if w.fill && n < w.bytes.length then (true, s.hostDiscard f w.va 0 4)
  else match r.1 with
    | .heap pa => piece r.2 pa true
    | .page pa wr x => piece r.2 pa (wr && !x)
    | .discarded pa entry wr x big =>
      if wr && !x && 2 ≤ r.2.hostRight f pa then (r.2.revive f w.va entry big).hostPiece f w pa n else refuse r.2 pa
    | .absent | .arriving => (false, r.2)
    | .noMap | .machine => (true, (r.2.dropWait (.fill f)).hostDiscard f w.va 0 4)

/-- The posted writes of a function perform in order until one waits; at most n pieces. -/
def State.hostDrain (s : State) (f : Nat) : Nat → State
  | 0 => s
  | n + 1 =>
    match (s.func f).posted with
    | [] => s
    | w :: _ =>
      match s.hostHead f w with
      | (true, s1) => s1.hostDrain f n
      | (false, s1) => s1

/-- The pieces that the posted writes of a function can still have. -/
def State.hostPieces (s : State) (f : Nat) : Nat :=
  (s.func f).posted.foldl (fun n w => n + w.bytes.length / 32 + 3) 0

/-- The posted writes perform as far as they can. -/
def State.hostRun (s : State) (f : Nat) : State := s.hostDrain f (s.hostPieces f)

/-- A write arrives: it performs after every earlier one of its function. -/
def State.hostPost (s : State) (f : Nat) (o : BitVec 41) (d : List Byte) (fill : Bool) : State :=
  let x := s.func f
  let w : HostWrite := { va := s.hostVa f o, bytes := d, fill := fill, place := .none }
  let s1 := s.setFunc f { x with posted := x.posted ++ [w] }
  if x.posted.isEmpty then s1.hostRun f else s1

/-- HOST_MEMORY_WRITE: an ordinary store of at most 512 bytes through BAR 4. -/
def execHostMemoryWrite (f : Nat) (o : BitVec 41) (d : List Byte) (s : State) : Out :=
  .next (if funcOk f && d.length ≤ 512 then s.hostPost f o d false else s)

/-- HOST_FILL_WRITE: a filling store through BAR 2. -/
def execHostFillWrite (f : Nat) (o : BitVec 41) (d : List Byte) (s : State) : Out :=
  .next (if funcOk f && d.length ≤ 512 then s.hostPost f o d true else s)

/-- The fill or write that heads a function's queue is examined again: it was woken, its page or the end of a merged transfer may
have come, or 256 sc have passed since it was last examined without a place. -/
def State.hostRetry (s : State) (f : Nat) : State :=
  match (s.func f).posted with
  | [] => s
  | w :: _ =>
    match w.place with
    | .table _ | .listed _ => s
    | .unlisted t => if t + 512 ≤ s.fc then s.hostRun f else s
    | _ => s.hostRun f

/-! ### Reads (23 R336) -/

/-- A completion returns to the function. -/
def State.complete (s : State) (f : Nat) (c : Completion) : State :=
  let x := s.func f
  s.setFunc f { x with reads := x.reads ++ [c] }

/-- What reading some bytes gives: a completion, or a wait for a page. -/
inductive HostRead where
  | got (d : List Byte) (bad : Bool)
  | unsupported
  | wait
deriving DecidableEq, Repr

/-- n bytes of a cell from byte lo. -/
def cellBytes (d : CellData) (lo n : Nat) : List Byte := (List.range n).map (fun i => BitVec.ofNat 8 (cbytes d (lo + i) 1))

/-- Read n bytes from a virtual address, a cell at a time, as ordinary loads. Bytes of a bad cell come as they stand. -/
def State.hostBytes (s : State) (f va n : Nat) : Nat → HostRead × State
  | 0 => (.got [] false, s)
  | k + 1 =>
    if n = 0 then (.got [] false, s)
    else
      let m := Nat.min n (32 - va % 32)
      let r := s.translate .bare f (s.xrecOf f) va
      let go (t : State) (d : CellData) (bad : Bool) : HostRead × State :=
        match t.hostBytes f (va + m) (n - m) k with
        | (.got ds b, t1) => (.got (cellBytes d (va % 32) m ++ ds) (bad || b), t1)
        | o => o
      let cell (t : State) (pa : Nat) : HostRead × State :=
        if t.hostRight f pa < 1 then (.unsupported, t)
        else if badFe (t.mem.sideAt pa).fe then (.unsupported, t.feNote pa va f)
        else
          let c := t.mem.cell pa
          let q := check c.data c.code
          let t1 := (t.countHome pa f (BitVec.ofNat 64 va) q).fillLine f pa va
          match q.data? with
          | some d => go t1 d false
          | none => go t1 c.data true
      match r.1 with
      | .heap pa => cell r.2 pa
      | .page pa _ _ => cell r.2 pa
      | .discarded pa _ _ _ _ => if r.2.hostRight f pa < 1 then (.unsupported, r.2) else go r.2 0 false
      | .absent | .arriving => (.wait, r.2)
      | .noMap | .machine => (.unsupported, r.2)

/-- HOST_MEMORY_READ: it completes after the function's earlier posted writes; while the module is frozen it cannot be
served. -/
def execHostMemoryRead (f : Nat) (o : BitVec 41) (n : Nat) (s : State) : Out :=
  .next (
    if !funcOk f then s
    else if s.dv.frozen || 4096 < n then s.complete f .unsupported
    else if !(s.func f).posted.isEmpty then s
    else match s.hostBytes f (s.hostVa f o) n (n / 32 + 2) with
      | (.got d bad, s1) => s1.complete f (.data d bad)
      | (.unsupported, s1) => s1.complete f .unsupported
      | (.wait, s1) => s1)

/-- HOST_FILL_READ: a read of the fill alias window is unsupported. -/
def execHostFillRead (f : Nat) (_o : BitVec 41) (_n : Nat) (s : State) : Out :=
  .next (if funcOk f then s.complete f .unsupported else s)

/-! ### Wait slots (23 R337, R338) -/

/-- An empty slot. -/
def WaitSlot.empty : WaitSlot := { va := 0, armed := false, place := .none, value := 0 }

/-- Slot n of a function. -/
def Func.slot (x : Func) (n : Nat) : WaitSlot := vget x.waits n WaitSlot.empty

/-- The wait of a slot performs with a value: it is disarmed, and vector n is raised. -/
def State.waitDone (s : State) (f n : Nat) (v : Word64) : State :=
  let s1 := s.dropWait (.host f n)
  let x := s1.func f
  s1.setFunc f { x with waits := vset x.waits n { x.slot n with armed := false, value := v }, msix := x.msix ++ [n] }

/-- The waiting load of an armed slot is examined at its cell. What VALUE becomes at a bad cell is not stated (log 10); at a
cell of invalid state the load performs nothing, and is looked at again (16 R232, log 12). -/
def State.waitExamine (s : State) (f n : Nat) : State :=
  let w := (s.func f).slot n
  let va := w.va.toNat
  let r := s.translate .bare f (s.xrecOf f) va
  let hold (t : State) (pa : Nat) (disc : Bool) : State :=
    match w.place with
      | .none => t.enterWait (.host f n) pa va 0 disc
      | _ => t.reWait (.host f n) pa va 0
  let cell (t : State) (pa : Nat) : State :=
    if t.hostRight f pa < 1 then t
    else if badFe (t.mem.sideAt pa).fe then (t.feNote pa va f).setPlace (.host f n) (.unlisted t.fc)
    else if (t.mem.sideAt pa).fe = 2 then
      let c := t.mem.cell pa
      let q := check c.data c.code
      let t1 := t.countHome pa f (BitVec.ofNat 64 va) q
      match q.data? with
      | some d => t1.waitDone f n (BitVec.ofNat 64 (cbytes d 0 8))
      | none => t1.nextFree.2.waitDone f n (Config.freeWord t1.nextFree.1)
    else hold t pa false
  match r.1 with
  | .heap pa => cell r.2 pa
  | .page pa _ _ => cell r.2 pa
  | .discarded pa entry _ _ _ => if r.2.hostRight f pa < 1 then r.2 else hold (r.2.setWaiters f entry) pa true
  | _ => r.2

/-- The function may write its own control window's barred registers (23 R339). -/
def State.windowRight (s : State) (f : Nat) : Bool := 2 ≤ s.access (targetWindow f) (256 + f)

/-- CW_WAIT_ARM: an old wait of the slot is abandoned first, and the new one is examined for the first time. -/
def execCwWaitArm (f n : Nat) (v : Word64) (s : State) : Out :=
  .next (
    if !funcOk f || 16 ≤ n || !s.windowRight f then s
    else
      let s1 := s.dropWait (.host f n)
      let x := s1.func f
      let w : WaitSlot := { x.slot n with va := v.extractLsb' 0 52 &&& ~~~31, armed := true, place := .none }
      (s1.setFunc f { x with waits := vset x.waits n w }).waitExamine f n)

/-- CW_WAIT_COMPLETE: an armed slot that was woken, whose page may have come, or that has stood without a place for 256
sc, is examined again. -/
def execCwWaitComplete (f n : Nat) (s : State) : Out :=
  let w := (s.func f).slot n
  .next (
    if !funcOk f || 16 ≤ n || !w.armed then s
    else match w.place with
      | .table _ | .listed _ => s
      | .unlisted t => if t + 512 ≤ s.fc then s.waitExamine f n else s
      | _ => s.waitExamine f n)

/-- VF_FLR: job n is cancelled and the VF's slots are disarmed (23 R338). -/
def execVfFlr (f : Nat) (s : State) : Out :=
  .next (
    if f = 0 || !funcOk f then s
    else (List.range 16).foldl (fun t n =>
      let t1 := t.dropWait (.host f n)
      let x := t1.func f
      t1.setFunc f { x with waits := vset x.waits n { x.slot n with armed := false } }) (s.cancelJob f))

end Sys2Proof.Machine
end

