-- ==== Sys2Proof/Machine/Bringup.lean ====
section
/-! DEFINITION. Firmware, attestation and reset (23 R341, R342, R345). -/

namespace Sys2Proof.Machine

/-! ### Reset (23 R345) -/

/-- Device memory without what the L2 held and had not written back. -/
def State.backing (s : State) : Memory :=
  s.slices.foldl (fun m x => x.2.lines.foldl (fun q l => restoreCells q l.addr l.back) m) s.mem

/-- A warm reset: every unit is at its reset values and all work is gone; the trub records, the fused values and the
contents of device memory stay. -/
def State.warmReset (s : State) : State :=
  { State.reset with
    fc := s.fc, turns := s.turns, freeCount := s.freeCount, mem := s.backing, launchNo := s.launchNo, trub := s.trub,
    dv := { Device.reset with fused := s.dv.fused, resetAt := s.fc, wiped := s.dv.wiped } }

/-- A cold reset keeps only the fused values (log 2). -/
def State.coldReset (s : State) : State :=
  { State.reset with turns := s.turns, freeCount := s.freeCount, dv := { Device.reset with fused := s.dv.fused } }

/-- CW_CONTROL_WARM_RESET: ACT 1 from the PF with the key (23 R337). -/
def execCwControlWarmReset (f : Nat) (key : BitVec 56) (s : State) : Out :=
  .next (if f = 0 && key == 0x5A then s.warmReset else s)

/-- PF_HOT_RESET: a hot reset or Function Level Reset of the PF is a warm reset. -/
def execPfHotReset (s : State) : Out := .next s.warmReset

/-- COLD_RESET: power-on, or PERST#. -/
def execColdReset (s : State) : Out := .next s.coldReset

/-! ### Firmware (23 R341, R345) -/

/-- n bytes of memory from an address. -/
def State.bytesAt (s : State) (a n : Nat) : List Byte := (List.range n).map (fun i => s.mem.byte (a + i))

/-- VERSION of a firmware image. -/
def State.imgVersion (s : State) (a : Nat) : Word64 := BitVec.ofNat 64 (s.mem.nat (a + 8) 8)
/-- LENGTH of a firmware image. -/
def State.imgLength (s : State) (a : Nat) : Nat := s.mem.nat (a + 4) 4
/-- Where the body of a firmware image begins: after its header, key and signature. -/
def imgBody : Nat := 48 + 1824 + 1280

/-- The boot ROM's four checks of the image at an address (23 R341). -/
def State.imageOk (s : State) (a : Nat) : Bool :=
  let body := s.bytesAt (a + imgBody) (s.imgLength a - imgBody)
  let key := s.bytesAt (a + 48) 1793
  s.mem.nat a 4 == 0xEF002001 && Config.shake256 key == Config.fusedKeyDigest && s.dv.fused.ule (s.imgVersion a) &&
  Config.falconVerify key (s.bytesAt (a + 48 + 1824) 1280) (s.bytesAt a 48 ++ body)

/-- The supervisor strands: S7 of every D4 sequencer (02 R27). -/
def superStrands : List Nat := (List.range 16).map (fun i => 8 * (64 + i) + 7)

/-- CL_PRESENT of a cluster as firmware writes it at bring-up: the stored inventory without the units of the service history
(02 R30; 23 R345, R348). -/
def State.inventory (s : State) (n c : Nat) : BitVec 22 :=
  s.service.foldl (fun p u => match unitAbs u.toNat with
    | some x => if x.cluster == some c then p &&& ~~~(BitVec.ofNat 22 (2 ^ x.needBit)) else p
    | none => p) (Config.inventory n c)

/-- After a cold reset every cell of device memory is written zero, with code 0 and full (23 R345 step 4). -/
def State.wipe (s : State) : State :=
  if s.dv.wiped then s
  else { s with mem := Memory.empty, slices := s.slices.map (fun x => (x.1, { x.2 with lines := [] })),
                ports := s.ports.map (fun x => (x.1, { x.2 with l1 := [] })), dv := { s.dv with wiped := true } }

/-- Bring-up, steps 2 to 6, from the service history of an image: the inventory, memory after a cold reset, the table
registers, their reload, the budget, and READY (23 R345). -/
def State.bringUp (s : State) (history : List (BitVec 16)) : State :=
  let r := s.nextFree
  let s0 : State := { r.2 with service := history }
  let s1 := ((List.range Config.clusters).foldl (fun t c =>
    t.setCluster c { t.cluster c with present := s0.inventory r.1 c }) s0).wipe
  let w (n num : Nat) (t : State) : State := t.writeDv num (Config.firmwareTable n)
  let s2 := w 5 0x50C (w 4 0x509 (w 3 0x50A (w 2 0x504 (w 1 0x502 (w 0 0x501 s1)))))
  let s3 := s2.reloadAccess.setBudgets 3072
  s3.setDv { s3.dv with readyBit := true }

/-- The firmware starts on the supervisor strands. -/
def State.startFirmware (s : State) : State :=
  superStrands.foldl (fun t k => t.setStrand k
    { Strand.reset with mode := .ready, priv := true, pc := Config.firmwareEntry (k / 8) &&& ~~~3 }) s

/-- CW_CONTROL_BOOT: ACT 3 from the PF with the key. The image's address is the firmware loader's (log 26). -/
def execCwControlBoot (f : Nat) (key : BitVec 56) (img : Nat) (s : State) : Out :=
  .next (
    if f ≠ 0 || key ≠ 0x5A then s
    else if !s.imageOk img then s.trubAdd 4 10 0 0xFF 0 (BitVec.ofNat 64 img)
    else
      let v := s.imgVersion img
      let s1 := s.setDv { s.dv with fused := v, fwVer := v, fwDigest := BitVec.ofNat 256 (s.mem.nat (img + 16) 32) }
      (s1.bringUp (Config.serviceHistory (s.bytesAt (img + imgBody) (s.imgLength img - imgBody)))).startFirmware)

/-! ### Attestation (23 R342) -/

/-- The report's content before its signature. -/
def State.reportBody (s : State) (f : Nat) (nonce : BitVec 256) : List Byte :=
  let inv := (List.range Config.clusters).flatMap (fun c => natBytes (s.cluster c).present.toNat 4)
  natBytes nonce.toNat 32 ++ Config.partSerial ++ natBytes s.dv.fwVer.toNat 8 ++ natBytes s.dv.fwDigest.toNat 32 ++
    natBytes s.dv.fprev.toNat 8 ++ natBytes (Config.shake256 inv).toNat 32 ++ natBytes f 1

/-- CW_ATTNONCE_WRITE: a new nonce replaces the function's report. -/
def execCwAttnonceWrite (f : Nat) (nonce : BitVec 256) (s : State) : Out :=
  .next (
    if !funcOk f || !s.windowRight f then s
    else
      let s1 := s.setFunc f { s.func f with nonce := nonce }
      if !s1.dv.readyBit then s1
      else
        let r := s1.nextFree
        let b := s1.reportBody f nonce
        r.2.setFunc f { r.2.func f with report := b ++ Config.falconSign r.1 b })

end Sys2Proof.Machine
end

