-- ==== Sys2Proof/Machine/Commands.lean ====
section
/-! DEFINITION. SBIND, SCOPY, SMCAST, PERM.LOAD and TDESC: the records they read, their checks, and what they start (09
R142, R145–R149, R155–R157, R159). -/

namespace Sys2Proof.Machine

/-! ### The range of a pattern (09 R146) -/

/-- The least and greatest contribution of dimension i to the address (09 R146). Under CBUF dimension 3 contributes
nothing; the permuted dimension contributes what the table's entries give. -/
def patSpan (p : CellData) (perm : List (BitVec 12)) (i : Nat) : Int × Int :=
  if patCbuf p && i == 3 then (0, 0)
  else if patPerm p && i == patPdim p then
    let xs := (perm.take (patCount p i)).map (fun e => (e.toNat : Int) * patStride p i)
    (xs.foldl min (xs.headD 0), xs.foldl max (xs.headD 0))
  else
    let x : Int := ((patCount p i - 1 : Nat) : Int) * patStride p i
    (min 0 x, max 0 x)

/-- The least and greatest address of the walk. -/
def patRange (p : CellData) (perm : List (BitVec 12)) : Int × Int :=
  (List.range 4).foldl (fun r i => (r.1 + (patSpan p perm i).1, r.2 + (patSpan p perm i).2))
    ((patBase p : Int), (patBase p : Int))

/-- A generator other than g of the tile is a consumer of buffer b (09 R141). -/
def Tile.otherConsumer (x : Tile) (g b : Nat) : Bool :=
  (List.range 4).any (fun j => j != g && (match (x.gen j).walk with
    | some w => !patWrite w.pat && patCbuf w.pat && patBuf w.pat == b
    | none => false))

/-- The control word of a pattern breaks no rule for generator g of a tile (09 R146). -/
def patControlOk (l : Launch) (x : Tile) (t g : Nat) (p : CellData) : Bool :=
  let id := l.relId (.tile t)
  let wr := patWrite p
  let fe := patFe p
  patWord p 1 / 2 ^ 19 == 0 && patTag p ≤ 12 && (!wr || (patTag p == 0 && patBank p == 0)) &&
  (patCbuf p || patBuf p == 0) &&
  (if wr then (l.feeding id g).isSome else !(l.fork id g).isEmpty) && !(x.gen g).landing &&
  (match x.mode.toNat with
    | 1 => (if g = 0 then wr else g == 1 && !wr)
    | 2 => (if g = 0 then wr else !wr)
    | _ => true) &&
  (!patCbuf p || (x.mode == 0 && (x.buf (patBuf p)).slots != 0 && (wr || !x.otherConsumer g (patBuf p)))) &&
  fe ≤ 4 && !(wr && (fe == 1 || fe == 2)) && !(!wr && (fe == 3 || fe == 4)) && (fe == 0 || l.record.direct) &&
  (!patPerm p || !x.perm.isEmpty)

/-- The walk stays inside its tile, slot or address range. -/
def patRangeOk (x : Tile) (p : CellData) : Bool :=
  let r := patRange p x.perm
  patEmpty p || x.mode == 1 ||
    (decide (0 ≤ r.1) &&
      (if x.mode = 2 then decide (r.2 ≤ 2 ^ 32 - 1)
       else decide (r.2 + (patBytes p : Int) ≤
        (if patCbuf p then ((x.buf (patBuf p)).slotBytes : Int) else 2 ^ 20))))

/-- The byte offset of the first failing word of a pattern record (09 R146, 04 R72). The range, in which BASE, the counts and
the strides take part, is looked at last and reported at BASE (log 91). -/
def patBad (l : Launch) (x : Tile) (t g : Nat) (p : CellData) : Option Nat :=
  if patBase p % 32 ≠ 0 then some 0
  else if !patControlOk l x t g p then some 4
  else match (List.range 4).find? (fun i => patWord p (4 + i) % 32 != 0) with
    | some i => some (16 + 4 * i)
    | none => if patRangeOk x p then none else some 0

/-! ### SBIND (09 R146) -/

/-- The tile and generator of a selector. -/
def Launch.genOf (l : Launch) (sel : Nat) : Option (Nat × Nat) :=
  let n := bits sel 0 5
  if sel / 2 ^ 16 ≠ 0 || bits sel 5 3 ≠ 0 || 24 ≤ n then none
  else match l.own (256 * bits sel 8 8 + 32 + n / 4) with
    | some (.tile t) => some (t, n % 4)
    | _ => none

/-- Start a walk, stamped with the region's version; a record with a count of 0 finishes at once (09 R143, R146). The walk of
a line tile's writer has written no row yet (09 R140). -/
def State.bindWalk (s : State) (l : Launch) (t g : Nat) (p : CellData) : State :=
  let x := s.tile t
  let y := x.gen g
  let w : Walk := { pat := p, ver := ((s.launch? l.id).getD l).ver, i0 := 0, i1 := 0, i2 := 0, i3 := 0, slot := none,
                    asked := false, mark := false }
  let z := x.setGen g { y with walk := if patEmpty p then none else some w, walks := y.walks + 1, tokens := 0,
                               waiting := false, celled := false, poked := 0 }
  s.setTile t { z with put := if z.mode = 2 && g == 0 then 0 else z.put }

/-- SBIND. -/
def execSbind (ga gb : GReg) (s : State) : Out :=
  let i := Instr.sbind ga gb
  let sel := s.reg ga
  let a := s.reg gb
  .next (s.recordCommand i a (fun l =>
    match l.genOf sel.toNat with
    | none => s.denied sel
    | some (t, g) =>
      s.readRecord i a 1 (fun s1 n =>
        let p : CellData := BitVec.ofNat 256 n
        match patBad l (s1.tile t) t g p with
        | some off => s1.rejected off
        | none =>
          if ((s1.tile t).gen g).walk.isSome then s1.waitFor i
          else s1.atBoundary i (fun t1 => (t1.bindWalk l t g p).retire))))

/-! ### Checking a copy record (09 R147–R149) -/

/-- The rows stay below a limit, from T. -/
def crRowsOk (r : Line) (base limit : Nat) : Bool :=
  let span : Int := ((crRows r - 1 : Nat) : Int) * crTPitch r
  decide (0 ≤ (base : Int) + min 0 span) && decide ((base : Int) + max 0 span + (crRowBytes r : Int) ≤ (limit : Int))

/-- The first of some conditions that fails, with what it gives. -/
def firstFailure : List (Bool × Rej) → Option Rej
  | [] => none
  | (ok, e) :: t => if ok then firstFailure t else some e

/-- "Access denied" with a value. -/
def Rej.deny (v : Nat) : Rej := .trap 0x02 (BitVec.ofNat 64 v)

/-- The port that a selector names. -/
def Launch.portOf (l : Launch) (sel : Nat) : Option Nat :=
  if sel / 2 ^ 16 ≠ 0 || bits sel 2 6 ≠ 0 || bits sel 0 2 = 3 then none
  else match l.own (256 * bits sel 8 8 + 64 + bits sel 0 2) with
    | some (.port p) => some p
    | _ => none

/-- The landing generators of a tile among the destinations of a port's fork. -/
def Launch.landings (l : Launch) (p t : Nat) : List Nat :=
  (l.fork (l.relId (.port p)) 0).filterMap (fun r =>
    if (routeDst r).1 = l.relId (.tile t) then some (routeDst r).2 else none)

/-- The region clusters of a mask. -/
def maskClusters (mask : Nat) : List Nat := (List.range 16).filter (fun n => mask.testBit n)

/-- The tiles that a command delivers to, or the one it reads, with the generator it lands on. -/
def Launch.copyTiles (l : Launch) (p : Nat) (mcast : Bool) (mask : Nat) (r : Line) : List (Nat × Nat) :=
  let pick (id : Nat) : List (Nat × Nat) := match l.own id with
    | some (.tile t) => [(t, (l.landings p t).headD 0)]
    | _ => []
  if mcast then (maskClusters mask).flatMap (fun n => pick (256 * n + crTile r % 256)) else pick (crTile r)

/-- The elements that receive start tokens. -/
def Launch.copyElements (l : Launch) (mcast : Bool) (mask : Nat) (r : Line) : List Nat :=
  let pick (id : Nat) : List Nat := match l.own id with
    | some (.element e) => [e]
    | _ => []
  if !crFollow r then [] else if mcast then (maskClusters mask).flatMap (fun n => pick (256 * n + crFelem r % 256))
  else pick (crFelem r)

/-- A masked cluster lies on the port's die and holds exactly one destination of the port's fork, the landing generator
of its tile of TILE's index (09 R149). -/
def Launch.maskOk (l : Launch) (p n : Nat) (r : Line) : Bool :=
  match l.cluster? n with
  | none => false
  | some c =>
    let ds := (l.fork (l.relId (.port p)) 0).filter (fun q => (routeDst q).1 / 256 == n)
    c / 16 == p / 48 && ds.length == 1 && ds.all (fun q => (routeDst q).1 == 256 * n + crTile r % 256)

/-- TILE names a unit, a memory tile, and one that the direction allows. -/
def Launch.tileChecks (l : Launch) (p : Nat) (mcast : Bool) (mask : Nat) (r : Line) : List (Bool × Rej) :=
  let isTile := bits (crTile r) 5 3 == 1
  if mcast then
    [(isTile, .at_ 12),
     (mask / 2 ^ 16 == 0 && mask != 0 && (maskClusters mask).all (fun n => l.maskOk p n r), .deny mask)]
  else
    [((l.own (crTile r)).isSome, .deny (crTile r)), (isTile, .at_ 12),
     ((l.copyTiles p false 0 r).all (fun x =>
        if crDir r then x.1 / 6 == p / 3 else !(l.landings p x.1).isEmpty), .at_ 12)]

/-- FELEM names elements, on a channel that no route names; FELEM is the first of the fields that name the channel (04
R72). -/
def Launch.followChecks (l : Launch) (mcast : Bool) (mask : Nat) (r : Line) : List (Bool × Rej) :=
  let ids := if mcast then (maskClusters mask).map (fun n => 256 * n + crFelem r % 256) else [crFelem r]
  if !crFollow r then []
  else ids.flatMap (fun id =>
    [((l.own id).isSome, .deny id), (bits id 5 3 == 0, .at_ 32), ((l.feeding id (crChan r)).isNone, .at_ 32)])

/-- The checks of a copy record in the order of its fields, the ranges last (09 R147–R149; 04 R72). -/
def State.copyBad (s : State) (l : Launch) (p : Nat) (mcast : Bool) (mask : Nat) (r : Line) : Option Rej :=
  let hist := crHist r
  let tiles := l.copyTiles p mcast mask r
  let bufs := tiles.map (fun x => (s.tile x.1).buf (crBuf r))
  firstFailure (
    [(crVa r % 32 == 0, .at_ 0), (crToff r % 32 == 0 && (!crCbuf r || crToff r == 0), .at_ 8)] ++
    l.tileChecks p mcast mask r ++
    [(!(hist && (mcast || !crDir r)) && !(mcast && crDir r) && (!crCbuf r || bufs.all (fun b => b.slots != 0)) &&
        !(crFe r == 3 && !crDir r && !l.record.direct), .at_ 14),
     (lbytes r 15 1 / 4 == 0 && !(mcast && crFe r != 0), .at_ 15), (crRows r != 0, .at_ 16), (lbytes r 18 2 == 0, .at_ 18),
     (crRowBytes r % 32 == 0 && 32 ≤ crRowBytes r && crRowBytes r ≤ 2 ^ 20, .at_ 20),
     (lbytes r 24 4 % 32 == 0, .at_ 24), (lbytes r 28 4 % 32 == 0, .at_ 28)] ++
    l.followChecks mcast mask r ++
    [(lbytes r 34 1 / 32 == 0, .at_ 34),
     (if hist then crHfmt r == 1 || crHfmt r == 2 else crHfmt r == 0, .at_ 35),
     (if hist then 0 < crBeta r && crBeta r < 0x7F800000 else crBeta r == 0, .at_ 36),
     (lbytes r 43 1 == 0, .at_ 40),
     (if hist then crHref r % 32 == 0 else crHref r == 0, .at_ 44),
     (crDone r % 32 == 0, .at_ 48), (lbytes r 56 8 == 0, .at_ 56),
     (if crCbuf r then bufs.all (fun b => crRowsOk r 0 b.slotBytes) else crRowsOk r (crToff r) (2 ^ 20), .at_ 8),
     (!hist || crHref r + 4 * crValues r ≤ 2 ^ 20, .at_ 16)])

/-! ### SCOPY and SMCAST (09 R148, R149) -/

/-- Commands of a port that have not ended. -/
def Port.queued (x : Port) : Nat := (x.cmds.filter (fun c => !c.ended)).length

/-- The engine of port p accepts a command of strand k. -/
def State.accept (s : State) (l : Launch) (p : Nat) (mcast : Bool) (mask : Nat) (r : Line) : State :=
  let x := s.port p
  let c : Cmd := { id := x.nextId, launch := l.id, owner := s.issue.k, mcast := mcast, record := r,
                   mask := BitVec.ofNat 16 mask, budget := s.cur.retry, asked := false,
                   slots := [], next := 0, landed := 0, drained := false, follow := l.copyElements mcast mask r,
                   place := .none, fetch := none, ended := false }
  s.setPort p { x with cmds := x.cmds ++ [c], nextId := x.nextId + 1 }

/-- Read, check and queue a copy record. -/
def State.queueCopy (s : State) (i : Instr) (sel a : Word64) (mcast : Bool) (mask : Nat) : State :=
  s.recordCommand i a (fun l =>
    match l.portOf sel.toNat with
    | none => s.denied sel
    | some p =>
      s.readRecord i a 2 (fun s1 n =>
        let r : Line := BitVec.ofNat 512 n
        match s1.copyBad l p mcast mask r with
        | some e => s1.reject e
        | none =>
          if 16 ≤ (s1.port p).queued then s1.waitFor i
          else s1.atBoundary i (fun t => (t.accept l p mcast mask r).retire)))

/-- SCOPY. -/
def execScopy (ga gb : GReg) (s : State) : Out := .next (s.queueCopy (.scopy ga gb) (s.reg ga) (s.reg gb) false 0)

/-- SMCAST. -/
def execSmcast (ga gb gc : GReg) (s : State) : Out :=
  .next (s.queueCopy (.smcast ga gb gc) (s.reg ga) (s.reg gb) true (s.reg gc).toNat)

/-! ### PERM.LOAD (09 R157) -/

/-- The byte offset of the first failing entry of a table of n entries whose cells follow the header; what follows the last
entry in its cell is not looked at. -/
def permBad (x n : Nat) : Option Nat :=
  ((List.range n).find? (fun i => 4096 ≤ nbytes x (2 * i) 2)).map (fun i => 32 + 2 * i)

/-- PERM.LOAD: once no permuted walk of the tile runs, the table is read, checked and replaced. -/
def execPermLoad (ga gb : GReg) (s : State) : Out :=
  let i := Instr.permLoad ga gb
  let id := s.reg ga
  let a := s.reg gb
  .next (s.recordCommand i a (fun l =>
    match (if id.toNat < 2 ^ 16 then l.own id.toNat else none) with
    | some (.tile t) =>
      if (List.range 4).any (fun g => match ((s.tile t).gen g).walk with
          | some w => patPerm w.pat
          | none => false) then s.waitFor i
      else
        s.readRecord i a 1 (fun s1 h =>
          let n := nbytes h 0 2
          if n = 0 || 4096 < n then s1.rejected 0
          else if h / 2 ^ 16 ≠ 0 then s1.rejected 2
          else
            s1.readRecord i (a + 32) ((n + 15) / 16) (fun s2 x =>
              match permBad x n with
              | some o => s2.rejected o
              | none => s2.atBoundary i (fun t1 =>
                (t1.setTile t { t1.tile t with
                  perm := (List.range n).map (fun j => BitVec.ofNat 12 (nbytes x (2 * j) 2)) }).retire)))
    | _ => s.denied id))

/-! ### TDESC (09 R156) -/

/-- TDESC: the job's tensor table takes or loses an entry. -/
def execTdesc (ga : GReg) (s : State) : Out :=
  let i := Instr.tdesc ga
  let a := s.reg ga
  .next (s.recordCommand i a (fun l =>
    s.readRecord i a 2 (fun s1 n =>
      match enterTensor (s1.job l.job).tensors (s1.busyTensors l.job) (BitVec.ofNat 512 n) with
      | .error o => s1.rejected o
      | .ok tab => (s1.setJob l.job { s1.job l.job with tensors := tab }).retire)))

end Sys2Proof.Machine
end

