-- ==== Sys2Proof/Machine/Control.lean ====
section
/-! DEFINITION. MFC and MTC (06 R98, R99), and control registers written from outside the issuing strand (02 R32; 20 R294;
23 R337, R340). -/

namespace Sys2Proof.Machine

/-- What the number and the identifier of an MFC or MTC name. -/
inductive CtlRef where
  | denied
  | illegal
  | unit (o : Owner) (u : UnitRef)
deriving DecidableEq, Repr

/-- The unit that an identifier names for the issuing strand. A D4 sequencer's S7 is not available in a region (02 R25, R27),
so for a job strand its identifier names no unit (log 85). -/
def State.namedUnit (s : State) (id : Nat) : Option UnitRef :=
  if s.cur.priv then unitAbs id
  else match s.launchOf s.issue.k with
    | none => none
    | some l => match l.unit? id with
      | some (.strand k) => if superStrand k then none else some (.strand k)
      | u => u

/-- The register that an MFC or MTC names (06 R89, R98; 02 R24). -/
def State.ctlRef (s : State) (num : BitVec 16) : CtlRef :=
  match s.issue.hi with
  | none =>
    match ownerOfNum num.toNat with
    | some o =>
      match o with
      | .sq | .gregs | .cl | .dv => .unit o (.strand s.issue.k)
      | _ => .illegal
    | none => .illegal
  | some h =>
    match s.namedUnit (bits h.toNat 0 16), ownerOfNum num.toNat with
    | none, _ => .denied
    | some _, none => .illegal
    | some x, some o => if o.fits x then .unit o x else .illegal

/-- The named strand is suspended. -/
def State.susUnit (s : State) (u : UnitRef) : Bool := match u with
  | .strand k => s.suspended k
  | _ => false

/-- What a job strand reads in place of a register (02 R30; 14 R209; 16 R244; 06 R98). -/
def State.jobRead (s : State) (o : Owner) (num : Nat) : Option Word64 :=
  match o with
  | .cl => if num = 0x100 then some ((s.cluster (s.issue.k / 8)).present.zeroExtend 64) else none
  | .dv => if 0x501 ≤ num && num ≤ 0x50D then some 0 else none
  | _ => none

/-- MFC: gd := the register, zero-extended; a read of an RC field clears it (06 R98). -/
def execMfc (gd : GReg) (num : BitVec 16) (s : State) : Out :=
  let w := tvalWord (.mfc gd num)
  .next (
    match s.ctlRef num with
    | .illegal => s.illegal w
    | .denied => s.denied (s.zext16 num)
    | .unit o u =>
      if o == .gregs && !(s.cur.priv && s.susUnit u) then s.denied (s.zext16 num)
      else
        match (if s.cur.priv then none else s.jobRead o num.toNat) with
        | some v => s.retireReg gd v
        | none =>
          match s.readUnit o u num.toNat with
          | some (v, s1) => s1.retireReg gd v
          | none => s.illegal w)

/-- A strand other than the issuing one is named. -/
def State.otherStrand (s : State) (u : UnitRef) : Bool := match u with
  | .strand k => k != s.issue.k
  | _ => false

/-- The write is refused: a job strand writes nothing through another strand's identifier, whatever the number (06 R98; 02
R30; 20 R294; 22 R321). -/
def State.refusesWrite (s : State) (o : Owner) (u : UnitRef) (num : Nat) : Bool :=
  (!s.cur.priv && s.otherStrand u) ||
  match o with
  | .gregs => !(s.cur.priv && s.susUnit u)
  | .sq => num == 9 && !(s.cur.priv && s.susUnit u)
  | .cl => !s.cur.priv && (num == 0x100 || num == 0x101)
  | .dv => !s.cur.priv && 0x501 ≤ num && num ≤ 0x50D
  | _ => false

/-- The launch of whose region an MTC to a unit changes the state: that of the unit's cluster for a supervisor strand, its own
for a job strand (22 R326). -/
def State.regionOf (s : State) (u : UnitRef) : Option Launch :=
  if s.cur.priv then u.cluster.bind s.ownerOf else s.launchOf s.issue.k

/-- MTC: the register's RW and W1C fields take ga; a write to a unit of the region of a windowed launch takes effect at
a window boundary (06 R98, 22 R326). -/
def execMtc (ga : GReg) (num : BitVec 16) (s : State) : Out :=
  let i := Instr.mtc ga num
  let v := s.reg ga
  .next (
    match s.ctlRef num with
    | .illegal => s.illegal (tvalWord i)
    | .denied => s.denied (s.zext16 num)
    | .unit o u =>
      if s.refusesWrite o u num.toNat then s.denied (s.zext16 num)
      else if (s.readUnit o u num.toNat).isNone then s.illegal (tvalWord i)
      else
        let act (t : State) : State := (t.writeUnit o u num.toNat v).retire
        if s.isPair then s.atBoundaryOf (s.regionOf u) i act else act s)

/-- CL_PRESENT_WRITE (02 R32). -/
def execClPresentWrite (c : Nat) (v : Word64) (s : State) : Out := .next (s.writePresent c (v.extractLsb' 0 22))

/-- CL_ISSUEBUDGET_WRITE (20 R294). -/
def execClIssuebudgetWrite (c : Nat) (v : Word64) (s : State) : Out := .next (s.writeBudget c v)

/-- DV_ACCGEN_WRITE: every target reloads its table (23 R340). -/
def execDvAccgenWrite (v : Word64) (s : State) : Out := .next (s.writeDv 0x50D v)

/-- The host's control window of function f takes a write of CW_STAT or CW_MEMBASE; a barred CW_MEMBASE write is ignored
(23 R337, R339). -/
def State.writeCw (s : State) (f off : Nat) (v : Word64) : State :=
  let x := s.func f
  if off = 0x0008 then s.setFunc f { x with werr := x.werr && !v.getLsbD 2 }
  else if off = 0x0010 then
    if 2 ≤ s.access (targetWindow f) (256 + f) then s.setFunc f { x with membase := v.extractLsb' 0 52 &&& ~~~31 } else s
  else s

/-- The number has a row of its own. -/
def ownRow (num : Nat) : Bool := num == 0x009 || num == 0x100 || num == 0x101 || num == 0x50D

/-- CONTROL_REGISTER_WRITE: the register's RW and W1C fields take the value (00 R6). -/
def execControlRegisterWrite (r : RegRef) (v : Word64) (s : State) : Out :=
  match r with
  | .host f off => if f ≤ 192 then .next (s.writeCw f off.toNat v) else .next s
  | .unit u num =>
    match unitAbs u.toNat, ownerOfNum num.toNat with
    | some x, some o =>
      if o.fits x && !ownRow num.toNat && (o != .gregs || s.susUnit x) then .next (s.writeUnit o x num.toNat v)
      else .next s
    | _, _ => .next s

end Sys2Proof.Machine
end

