-- ==== Sys2Proof/Machine/Compress.lean ====
section
/-! DEFINITION. Compressed copies: the form in which a copy command with COMP moves an L2 line between its port and its home
slice, and the expander that rebuilds the line (14 R219, R220). -/

namespace Sys2Proof.Machine

/-! ### Bits of a line -/

/-- The low n bits of a number, least significant first. -/
def bitList : Nat → Nat → List Bool
  | 0, _ => []
  | n + 1, x => decide (x % 2 = 1) :: bitList n (x / 2)

/-- The number of some bits, least significant first. -/
def bitNat : List Bool → Nat
  | [] => 0
  | b :: t => (if b then 1 else 0) + 2 * bitNat t

/-- The data bits of some cells, in order. -/
def lineBits (cs : List Cell) : List Bool := cs.flatMap (fun c => bitList 256 c.data.toNat)

/-- n pieces of w bits. -/
def pieces (w : Nat) : Nat → List Bool → List (List Bool)
  | 0, _ => []
  | n + 1, bs => bs.take w :: pieces w n (bs.drop w)

/-! ### The compressed form (14 R219) -/

/-- A line in compressed form: the header, the side bands of its cells, and its data, whose bits fill whole beats of 64
bytes. -/
structure Packed where
  head : BitVec 16
  side : List Side
  data : List Bool
deriving DecidableEq, Repr

/-- COUNT of a header. -/
def Packed.count (p : Packed) : Nat := bits p.head.toNat 3 9
/-- RAW of a header. -/
def Packed.raw (p : Packed) : Bool := p.head.getLsbD 2
/-- The element width that WIDTH of a header gives. -/
def Packed.width (p : Packed) : Nat := 8 * 2 ^ bits p.head.toNat 0 2
/-- The beats of some bits. -/
def beatsOf (n : Nat) : Nat := (n + 511) / 512

/-- WIDTH of an element width. -/
def widthCode (w : Nat) : Nat := if w = 8 then 0 else if w = 16 then 1 else if w = 32 then 2 else 3

/-- Bits padded with zeros to whole beats. -/
def padBits (bs : List Bool) : List Bool := bs ++ List.replicate (512 * beatsOf bs.length - bs.length) false

/-- The bits of a line with RAW clear: the bitmap, and the nonzero elements in order. -/
def packBits (w : Nat) (bs : List Bool) : List Bool :=
  let es := pieces w (2048 / w) bs
  es.map (fun e => e.any id) ++ (es.filter (fun e => e.any id)).flatten

/-- The compressed form of a line of eight cells whose elements are w bits wide: RAW where it would take more than three
beats. -/
def compress (w : Nat) (cs : List Cell) : Packed :=
  let bs := lineBits cs
  let n := ((pieces w (2048 / w) bs).filter (fun e => e.any id)).length
  let body := packBits w bs
  let raw := decide (3 < beatsOf body.length)
  { head := BitVec.ofNat 16 (8 * n + (if raw then 4 else 0) + widthCode w),
    side := cs.map (fun c => { fe := c.fe, w := c.w, code := c.code }),
    data := padBits (if raw then bs else body) }

/-! ### The expander (14 R220) -/

/-- Put the elements back where the bitmap has ones, and zeros elsewhere. -/
def spread (w : Nat) : List Bool → List Bool → List Bool
  | [], _ => []
  | true :: m, bs => bs.take w ++ spread w m (bs.drop w)
  | false :: m, bs => List.replicate w false ++ spread w m bs

/-- The bitmap of a form with RAW clear. -/
def Packed.bitmap (p : Packed) : List Bool := p.data.take (2048 / p.width)

/-- The form is well-formed: the reserved field is zero, the beats are those that the form requires, and with RAW clear COUNT is
the number of ones. -/
def Packed.ok (p : Packed) : Bool :=
  let n := 2048 / p.width
  bits p.head.toNat 12 4 == 0 &&
    (if p.raw then p.data.length == 2048
     else (p.bitmap.filter id).length == p.count && p.data.length == 512 * beatsOf (n + p.count * p.width))

/-- The bits of the expanded line. -/
def Packed.bits (p : Packed) : List Bool :=
  if p.raw then p.data else spread p.width p.bitmap (p.data.drop (2048 / p.width))

/-- Cells of given side bands and data bits; `spoil` poisons each. -/
def joinCells (spoil : Bool) : List Side → List Bool → List Cell
  | [], _ => []
  | x :: t, bs =>
    let d : CellData := BitVec.ofNat 256 (bitNat (bs.take 256))
    { data := d, fe := x.fe, w := x.w, code := if spoil then gen d ^^^ poisonMark else x.code } :: joinCells spoil t (bs.drop 256)

/-- The line that the expander rebuilds. Of a malformed form every cell is poisoned, with the state beside it; what data a
poisoned cell then has is not stated: it has the bits received (log 94). -/
def expand (p : Packed) : List Cell :=
  if p.ok then joinCells false p.side p.bits else joinCells true p.side p.data

/-! ### On the way between port and slice -/

/-- The cells of the L2 line of an address. -/
def Memory.lineCells (m : Memory) (pa : Nat) : List Cell := (List.range 8).map (fun i => m.cell (pa / 256 * 256 + 32 * i))

/-- The element width of the line of an address: the lane width of its tensor tag's FMT, or 32 bits with tag 0. -/
def State.lineWidth (s : State) (pa : Nat) : Nat :=
  match s.l2Line pa with
  | none => 32
  | some l => match (s.job l.job).tensors.find? (fun t => t.1 == l.id) with
    | some t => tagWidth (tFmt t.2)
    | none => 32

/-- A cell at an address as it arrives at the other end: with COMP its line has been compressed and expanded on the way. -/
def State.carried (s : State) (comp : Bool) (pa : Nat) (c : Cell) : Cell :=
  if comp then (expand (compress (s.lineWidth pa) ((s.mem.lineCells pa).set (pa / 32 % 8) c))).getD (pa / 32 % 8) c else c

end Sys2Proof.Machine
end

