-- ==== Sys2Proof/Machine/Generators.lean ====
section
/-! DEFINITION. Address generators: the walk, one transfer at a time, the waits of its modes, and circular buffers (09
R140–R145, R153). -/

namespace Sys2Proof.Machine

/-! ### Circular buffers (09 R141) -/

/-- Give a claimant the slot it asked for. -/
def State.grant (s : State) (t : Nat) (who : Claimant) (slot : Nat) : State :=
  match who with
  | .gen g _ =>
    let x := s.tile t
    let y := x.gen g
    s.setTile t (x.setGen g { y with walk := y.walk.map (fun w => { w with slot := some slot, asked := false }),
                                     waiting := false })
  | .cmd p id =>
    let x := s.port p
    s.setPort p { x with cmds := x.cmds.map (fun c => if c.id == id then { c with slots := c.slots ++ [(t, slot)] } else c) }

/-- BUFFER_PRODUCER_CLAIM: the oldest request takes the slot at the producer index, while FREE > 0. -/
def execBufferProducerClaim (t b : Nat) (s : State) : Out :=
  if (s.liveAt (t / 6)).isNone then .next s
  else
    let x := s.tile t
    let y := x.buf b
    match y.preq with
    | [] => .next s
    | who :: rest =>
      if y.free = 0 || y.slots = 0 then .next s
      else
        let c : Claim := { who := who, slot := y.prod, full := false }
        let z := { y with preq := rest, free := y.free - 1, prod := (y.prod + 1) % y.slots, claims := y.claims ++ [c] }
        .next ((s.setTile t (x.setBuf b z)).grant t who y.prod)

/-- BUFFER_PRODUCER_COMPLETE: the slot claimed first becomes filled, once its last byte has landed. -/
def execBufferProducerComplete (t b : Nat) (s : State) : Out :=
  if (s.liveAt (t / 6)).isNone then .next s
  else
    let x := s.tile t
    let y := x.buf b
    match y.claims with
    | c :: rest => if c.full then .next (s.setTile t (x.setBuf b { y with claims := rest, filled := y.filled + 1 })) else .next s
    | [] => .next s

/-- BUFFER_CONSUMER_CLAIM: the oldest request takes the slot at the consumer index, while FILLED > 0. -/
def execBufferConsumerClaim (t b : Nat) (s : State) : Out :=
  if (s.liveAt (t / 6)).isNone then .next s
  else
    let x := s.tile t
    let y := x.buf b
    match y.creq with
    | [] => .next s
    | who :: rest =>
      if y.filled = 0 || y.slots = 0 then .next s
      else
        let c : Claim := { who := who, slot := y.cons, full := false }
        let z := { y with creq := rest, filled := y.filled - 1, cons := (y.cons + 1) % y.slots, taken := y.taken ++ [c] }
        .next ((s.setTile t (x.setBuf b z)).grant t who y.cons)

/-- BUFFER_CONSUMER_RELEASE: a consumed slot whose last byte has been read becomes free. -/
def execBufferConsumerRelease (t b : Nat) (s : State) : Out :=
  if (s.liveAt (t / 6)).isNone then .next s
  else
    let x := s.tile t
    let y := x.buf b
    match y.taken.find? (·.full) with
    | some c => .next (s.setTile t (x.setBuf b { y with taken := y.taken.erase c, free := y.free + 1 }))
    | none => .next s

/-- A claimant asks for a slot of buffer b: as producer or as consumer. -/
def State.ask (s : State) (t b : Nat) (producer : Bool) (who : Claimant) : State :=
  let x := s.tile t
  let y := x.buf b
  s.setTile t (x.setBuf b (if producer then { y with preq := y.preq ++ [who] } else { y with creq := y.creq ++ [who] }))

/-- The last byte of a claimed slot has landed, or has been read. -/
def State.slotOver (s : State) (t b : Nat) (producer : Bool) (who : Claimant) (slot : Nat) : State :=
  let x := s.tile t
  let y := x.buf b
  let f (c : Claim) : Claim := if c.who == who && c.slot == slot then { c with full := true } else c
  s.setTile t (x.setBuf b (if producer then { y with claims := y.claims.map f } else { y with taken := y.taken.map f }))

/-! ### The walk (09 R143) -/

/-- What follows the end of a run of dimension 0 and its marker: the walk, whether its slot is over, whether it is. -/
def Walk.afterRun (w : Walk) : Walk × Bool × Bool :=
  let p := w.pat
  if w.i1 + 1 < patCount p 1 then ({ w with i0 := 0, i1 := w.i1 + 1, mark := false }, false, false)
  else if w.i2 + 1 < patCount p 2 then ({ w with i0 := 0, i1 := 0, i2 := w.i2 + 1, mark := false }, false, false)
  else ({ w with i0 := 0, i1 := 0, i2 := 0, i3 := w.i3 + 1, mark := false, slot := none }, true,
        decide (patCount p 3 ≤ w.i3 + 1))

/-- What follows a token. -/
def Walk.afterToken (w : Walk) : Walk × Bool × Bool :=
  if w.i0 + 1 < patCount w.pat 0 then ({ w with i0 := w.i0 + 1 }, false, false)
  else if patMark w.pat then ({ w with mark := true }, false, false)
  else w.afterRun

/-- A walk has ended: the drains that wait for it wait for what it has sent to be delivered, and for its slots (09 R152). -/
def State.walkOver (s : State) (t g n : Nat) : State :=
  let c := ((s.tile t).gen g).sent
  { s with strands := s.strands.map (fun x => (x.1, { x.2 with pend := x.2.pend.map (fun p =>
      if p.walks.contains (t, g, n) then { p with walks := p.walks.erase (t, g, n), sends := p.sends ++ [(t, g, n, c)] }
      else p) })) }

/-- A transfer or marker is done: the walk moves on, and its slot is released or completed when it is over; `tok` says that a
token was transferred, which DONE counts (09 R143, R160). -/
def State.genAdvance (s : State) (t g : Nat) (w : Walk) (tok : Bool) (r : Walk × Bool × Bool) : State :=
  let x := s.tile t
  let y := x.gen g
  let s0 := s.setTile t (x.setGen g { y with walk := if r.2.2 then none else some r.1,
                                             tokens := if tok then y.tokens + 1 else y.tokens,
                                             waiting := false, celled := false, poked := 0 })
  let s1 := if r.2.2 then s0.walkOver t g y.walks else s0
  match w.slot with
  | some n => if r.2.1 then s1.slotOver t (patBuf w.pat) (patWrite w.pat) (.gen g y.walks) n else s1
  | none => s1

/-! ### Stalls of the fifo and line modes (09 R140) -/

/-- The row of the next address of a line generator; after a run whose marker is due it is that of the next run. -/
def Tile.nextRow (x : Tile) (g : Nat) : Option Nat :=
  match (x.gen g).walk with
  | some w =>
    let r := if w.mark then w.afterRun else (w, false, false)
    if r.2.2 then none else (r.1.addr x).map (fun a => a / Nat.max 1 x.lrow)
  | none => none

/-- The writer's current row: that of its next address, or the last one written when it has finished. -/
def Tile.writerRow (x : Tile) : Int :=
  match x.nextRow 0 with
  | some k => (k : Int)
  | none => (x.put : Int) - 1

/-- A line reader addresses a row that the ring no longer holds. -/
def Tile.overrun (x : Tile) (g : Nat) (w : Walk) : Bool :=
  x.mode == 2 && g != 0 && !w.mark && (match x.nextRow g with
    | some k => decide ((k : Int) ≤ x.writerRow - (x.qsize : Int))
    | none => false)

/-- The next transfer of a generator must wait for the area or the ring. -/
def Tile.ringStall (x : Tile) (g : Nat) (w : Walk) : Bool :=
  if x.mode = 1 then (if patWrite w.pat then x.fifoFree == 0 else x.fifoHeld == 0)
  else if x.mode = 2 then
    match x.nextRow g with
    | none => false
    | some k =>
      if g = 0 then
        x.put ≤ k && [1, 2, 3].any (fun j => match x.nextRow j with
          | some r => r + x.qsize ≤ k
          | none => false)
      else
        match x.nextRow 0 with
        | some r => r ≤ k
        | none => (x.gen 0).walks == 0
  else false

/-! ### Cell states (09 R144) -/

/-- The states that FEMODE waits for hold. -/
def Tile.statesOk (x : Tile) (w : Walk) (cells : List Nat) : Bool :=
  match patFe w.pat with
  | 1 | 2 => cells.all (fun a => (x.sram.sideAt a).fe == 2)
  | 3 => cells.all (fun a => (x.sram.sideAt a).fe == 1)
  | _ => true

/-- Note cells for a window's undo log; none when one of them does not fit. -/
def State.noteCells (s : State) (l : Launch) (t : Nat) : List Nat → Option State
  | [] => some s
  | a :: rest =>
    match s.noteTile ((s.launch? l.id).getD l) t (a / 32) with
    | some s1 => s1.noteCells l t rest
    | none => none

/-- The generator waits for cell states: a first examination, or a re-examination that has spent the last of its
budget. -/
def State.holdCells (s : State) (l : Launch) (t g : Nat) (exam : Bool) : State :=
  let x := s.tile t
  let y := x.gen g
  if exam && y.retry = 0 then s.elementFault (.tile t) l 0x09 0 0 0 0
  else s.setTile t (x.setGen g { y with waiting := true, celled := true, poked := if exam then y.poked else 0 })

/-! ### Transfers -/

/-- The token a reader makes of its cells (09 R142, R143). -/
def readToken (p : CellData) (ver : BitVec 4) (lo hi : Cell) : Token :=
  { data := (if patHalf p then 0 else hi.data) ++ lo.data, code0 := lo.code, code1 := if patHalf p then 0 else hi.code,
    tag := BitVec.ofNat 4 (patTag p), bank := BitVec.ofNat 2 (patBank p), fin := false, ver := ver, sw := false }

/-- A generator or engine meets a tile cell of invalid state: the element fault "machine check" (16 R232). -/
def State.tileFe (s : State) (u : UnitRef) (l : Launch) : State := s.elementFault u l 0x11 0 0 0 0

/-- Some of a tile's cells have an invalid state. -/
def Tile.badStates (x : Tile) (cells : List Nat) : Bool := cells.any (fun a => badFe (x.sram.sideAt a).fe)

/-- A reader sends a token on its fork. -/
def State.genSend (s : State) (l : Launch) (t g : Nat) (tok : Token) : State :=
  let x := s.tile t
  let y := x.gen g
  (s.setTile t (x.setGen g { y with sent := y.sent + 1 })).forkPush l (l.fork (l.relId (.tile t)) g) tok

/-- A reader's transfer. -/
def State.genRead (s : State) (l : Launch) (t g : Nat) (w : Walk) (cells : List Nat) : State :=
  let x := s.tile t
  let f := l.fork (l.relId (.tile t)) g
  let lo := x.sram.cell (cells.headD 0)
  let hi := x.sram.cell (cells.getLastD 0)
  if !s.forkRoom l f then s
  else if x.badStates cells then s.tileFe (.tile t) l
  else if !x.statesOk w cells then s.holdCells l t g false
  else
    let s1 := if patFe w.pat = 2 then
        s.putCells t (cells.map (fun a => (a, (x.sram.cell a).data, (x.sram.cell a).code))) (some 1) else s
    let s2 := s1.genSend l t g (readToken w.pat w.ver lo hi)
    let z := s2.tile t
    (s2.setTile t { z with take := if z.mode = 1 then z.take + 1 else z.take }).genAdvance t g w true w.afterToken

/-- A writer's transfer of token tok. -/
def State.genWrite (s : State) (l : Launch) (t g : Nat) (w : Walk) (cells : List Nat) (tok : Token) : State :=
  let x := s.tile t
  if tok.fin || tok.sw then s.elementFault (.tile t) l 0x08 0 0 0 0
  else if x.badStates cells then s.tileFe (.tile t) l
  else if !x.statesOk w cells then s.holdCells l t g false
  else
    match s.noteCells l t cells with
    | none => s.closeWindow l.id
    | some s0 =>
      let s1 := s0.setTile t (x.setGen g { x.gen g with wire := (x.gen g).wire.drop 1 })
      if cells.any (fun a => s.watchArea l t a) then s1.elementFault (.tile t) l 0x0E 0 0 0 0
      else
        let parts := [(tok.data.extractLsb' 0 256, tok.code0), (tok.data.extractLsb' 256 256, tok.code1)]
        let s2 := s1.putCells t ((cells.zip parts).map (fun q => (q.1, q.2.1, q.2.2)))
          (if patFe w.pat = 3 || patFe w.pat = 4 then some 2 else none)
        let z := s2.tile t
        let put := if z.mode = 1 then z.put + 1
          else if z.mode = 2 then Nat.max z.put ((((w.addr x).getD 0) / Nat.max 1 x.lrow) + 1) else z.put
        (s2.setTile t { z with put := put }).genAdvance t g w true w.afterToken

/-- The marker of a run: a reader emits it, a writer requires it and discards it (09 R143). -/
def State.genMarker (s : State) (l : Launch) (t g : Nat) (w : Walk) : State :=
  let x := s.tile t
  let y := x.gen g
  if patWrite w.pat then
    match y.wire with
    | [] => s
    | tok :: rest =>
      if tok.fin && !tok.sw then (s.setTile t (x.setGen g { y with wire := rest })).genAdvance t g w false w.afterRun
      else s.elementFault (.tile t) l 0x08 0 0 0 0
  else
    let f := l.fork (l.relId (.tile t)) g
    if s.forkRoom l f then
      (s.genSend l t g (markerToken (BitVec.ofNat 4 (patTag w.pat)) (BitVec.ofNat 2 (patBank w.pat)) w.ver)).genAdvance t g w
        false w.afterRun
    else s

/-- The next transfer of a walk whose slot, if it has one, is claimed. WAITING shows a stall on cell states, buffer or ring, and
not one on a missing token or credit (09 R160). -/
def State.genMove (s : State) (l : Launch) (t g : Nat) (w : Walk) : State :=
  let x := s.tile t
  let y := x.gen g
  if w.mark then s.genMarker l t g w
  else
    match x.walkCells w with
    | none => s.elementFault (.tile t) l 0x08 0 0 0 0
    | some cells =>
      if x.overrun g w then s.elementFault (.tile t) l 0x08 0 0 0 0
      else if x.ringStall g w then s.setTile t (x.setGen g { y with waiting := true })
      else
        let s1 := s.setTile t (x.setGen g { y with waiting := false })
        if patWrite w.pat then
          match y.wire with
          | [] => s1
          | tok :: _ => s1.genWrite l t g w cells tok
        else s1.genRead l t g w cells

/-- One step of a generator: a switch token it owes leaves first; a switch token that CONF.SWITCH sends it is discarded; a
walk under CBUF asks for its slot; else the walk transfers (09 R143, R153). -/
def State.genStep (s : State) (l : Launch) (t g : Nat) : State :=
  let x := s.tile t
  let y := x.gen g
  match y.swOut with
  | some v =>
    let f := l.fork (l.relId (.tile t)) g
    if s.forkRoom l f then (s.setTile t (x.setGen g { y with swOut := none })).genSend l t g (switchToken v) else s
  | none =>
    if (match y.wire with
        | tok :: _ => tok.sw
        | [] => false) && (s.switching l).isSome then
      s.setTile t (x.setGen g { y with wire := y.wire.drop 1, swIn := y.swIn + 1 })
    else
      match y.walk with
      | none => s
      | some w =>
        if patCbuf w.pat && w.slot.isNone then
          if w.asked then s
          else (s.setTile t (x.setGen g { y with walk := some { w with asked := true }, waiting := true })).ask t
            (patBuf w.pat) (patWrite w.pat) (.gen g y.walks)
        else if y.celled then s
        else s.genMove l t g w

/-- GENERATOR_TRANSFER. -/
def execGeneratorTransfer (t g : Nat) (s : State) : Out :=
  match s.liveAt (t / 6) with
  | none => .next s
  | some l => .next (if (s.tile t).failed then s else s.genStep l t g)

/-- GENERATOR_REEXAMINE: a generator that waits for cell states looks at them once for each change, and one unit of its budget is
spent each time (09 R144). -/
def execGeneratorReexamine (t g : Nat) (s : State) : Out :=
  match s.liveAt (t / 6) with
  | none => .next s
  | some l =>
    let x := s.tile t
    let y := x.gen g
    match y.walk with
    | none => .next s
    | some w =>
      let z := { y with retry := y.retry - (if y.retry = 0 then 0 else 1), poked := y.poked - 1 }
      let cells := (x.walkCells w).getD []
      if !(y.celled && 0 < y.poked) then .next s
      else if x.badStates cells then .next (s.tileFe (.tile t) l)
      else if x.statesOk w cells then
        .next ((s.setTile t (x.setGen g { z with celled := false, waiting := false })).genMove l t g w)
      else .next ((s.setTile t (x.setGen g z)).holdCells l t g true)

end Sys2Proof.Machine
end

