-- ==== Sys2Proof/Machine/Copy.lean ====
section
/-! DEFINITION. What copy engines, landing generators, history compressors and merging home slices do (09 R147–R150; 14
R221–R223; 16 R230–R233). -/

namespace Sys2Proof.Machine

/-! ### Commands in their queues -/

/-- Command id of port p. -/
def State.cmd? (s : State) (p id : Nat) : Option Cmd := (s.port p).cmds.find? (fun c => c.id == id)

/-- The state with command id of port p changed. -/
def State.modCmd (s : State) (p id : Nat) (f : Cmd → Cmd) : State :=
  let x := s.port p
  s.setPort p { x with cmds := x.cmds.map (fun c => if c.id == id then f c else c) }

/-- The tiles of a command. -/
def Cmd.tiles (c : Cmd) (l : Launch) (p : Nat) : List (Nat × Nat) := l.copyTiles p c.mcast c.mask.toNat c.record

/-- The commands of a port before command id. -/
def State.earlier (s : State) (p id : Nat) : List Cmd := (s.port p).cmds.takeWhile (fun c => c.id != id)

/-- Every earlier command of the engine has asked for its slots, if it needs one. -/
def State.earlierAsked (s : State) (p id : Nat) : Bool :=
  (s.earlier p id).all (fun c => c.ended || c.asked || !crCbuf c.record)

/-- Every earlier command of the engine has started (09 R148). -/
def State.earlierStarted (s : State) (p id : Nat) : Bool := (s.earlier p id).all (fun c => c.ended || 0 < c.next || c.fetch.isSome)

/-- The command has the slots it needs. -/
def Cmd.claimed (c : Cmd) (l : Launch) (p : Nat) : Bool := !crCbuf c.record || c.slots.length == (c.tiles l p).length

/-- The command asks for its slots: a free one of each tile it writes, or a filled one of the tile it reads (09 R141). -/
def State.askSlots (s : State) (l : Launch) (p : Nat) (c : Cmd) : State :=
  (c.tiles l p).foldl (fun t x => t.ask x.1 (crBuf c.record) (!crDir c.record) (.cmd p c.id))
    (s.modCmd p c.id (fun y => { y with asked := true }))

/-- The state a copied cell takes at its destination (16 R236). -/
def copyFe (mode : Nat) (fe : BitVec 2) : BitVec 2 := if mode = 0 then fe else if mode = 2 then 1 else 2

/-! ### Writes of one engine to one cell (18 R268) -/

/-- Multicasts with a GROUP may merge (09 R149). -/
def Cmd.grouped (c : Cmd) : Bool := c.mcast && crGroup c.record != 0

/-- Cells that a history record of n values may take at most (09 R150). -/
def histCellsMax (n : Nat) : Nat := 1 + (n + 255) / 256 + (n + 7) / 8

/-- The key of a cell of device memory that a command writes: its frame, or, without one, its virtual address. -/
def State.memKey (s : State) (l : Launch) (va : Nat) : Nat × Nat :=
  match s.cellIn l.xrec l.job va with
  | some pa => (0, pa / 32)
  | none => (1, va / 32)

/-- The cells that a command writes when it moves some of its cells. -/
def State.writesOf (s : State) (l : Launch) (p : Nat) (c : Cmd) (ns : List Nat) : List (Nat × Nat) :=
  let r := c.record
  let tiles := if c.claimed l p then c.tiles l p else []
  if crHist r then
    (List.range (histCellsMax (crValues r))).map (fun n => s.memKey l ((crVa r + 32 * n) % 2 ^ 64)) ++
      tiles.flatMap (fun d => (List.range ((4 * crValues r + 31) / 32)).map (fun n => (2 + d.1, crHref r / 32 + n)))
  else if crDir r then ns.map (fun n => s.memKey l (crMem r n))
  else tiles.flatMap (fun d => ns.map (fun n => (2 + d.1, crOff r (s.copyBase c d.1) n / 32)))

/-- The cells that a command has still to move. -/
def Cmd.todo (c : Cmd) : List Nat :=
  let n := crCells c.record
  if c.ended || n ≤ c.next then []
  else if c.grouped || crHist c.record then List.range n
  else (List.range n).drop c.next

/-- No earlier command of the engine has still to write a cell that this one would write now. -/
def State.inOrder (s : State) (l : Launch) (p : Nat) (c : Cmd) (ns : List Nat) : Bool :=
  let ks := s.writesOf l p c ns
  (s.earlier p c.id).all (fun e => (s.writesOf l p e e.todo).all (fun k => !ks.contains k))

/-! ### Reading device memory (09 R148; 14 R213) -/

/-- What reading a cell gives: the cell, or a state in which the command does not go on. -/
inductive ReadOut where
  | got (c : Cell) (s : State)
  | stop (s : State)

/-- A re-examination of a command's cell spends one unit of its budget (16 R232). -/
def State.spendCmd (s : State) (p id : Nat) (exam : Bool) : State :=
  if exam then s.modCmd p id (fun y => { y with budget := y.budget - (if y.budget = 0 then 0 else 1) }) else s

/-- An engine's consuming access must wait (16 R230–R234): in the wait table or parked; at the end of its budget the launch
takes the element fault. -/
def State.engWait (s : State) (l : Launch) (p id pa va : Nat) (discarded exam : Bool) : State :=
  let u := Waiter.engine p id
  let t := s.spendCmd p id exam
  if exam && ((t.cmd? p id).map (·.budget)).getD 0 = 0 then
    (t.dropWait u).elementFault (.port p) l 0x09 0 0 0 (faultInfo va)
  else if exam then t.reWait u pa va 3 else t.enterWait u pa va 3 discarded

/-- Take a full cell with a consuming access. -/
def State.copyConsume (s : State) (l : Launch) (p : Nat) (c : Cmd) (pa va : Nat) (exam : Bool) : ReadOut :=
  let u := Waiter.engine p c.id
  let x := s.mem.cell pa
  match s.gate (some u) l.job pa va true (some 1) with
  | .invalid t => .stop (t.engFe (.port p) l pa va)
  | .held t => .stop t
  | .damaged t => .stop (t.machineCheck (UnitRef.port p).abs l.job (BitVec.ofNat 64 va) (sliceTval pa))
  | .pass t =>
    let t1 := ((t.spendCmd p c.id exam).dropWait u).setFe l.job pa va 1
    .got (t1.carried (crComp c.record) pa x) t1

/-- Read cell n of a command's rows from device memory as a carrier. -/
def State.copyRead (s : State) (l : Launch) (p : Nat) (c : Cmd) (n : Nat) (exam : Bool) : ReadOut :=
  let va := crMem c.record n
  let consume := crFe c.record == 3
  let r := s.engAcc l p va false
  let u := UnitRef.port p
  match r.1 with
  | .ok pa =>
    let x := r.2.mem.cell pa
    if badFe x.fe then .stop (r.2.engFe u l pa va)
    else if consume then
      if x.fe = 2 then r.2.copyConsume l p c pa va exam
      else .stop (r.2.engWait l p c.id pa va false exam)
    else if (r.2.port p).l1.contains (l1Of pa) then .got x r.2
    else
      let t := (r.2.fillLine l.job pa va).l1Fill p pa
      .got (t.carried (crComp c.record) pa x) t
  | .disc pa entry _ =>
    if consume then .stop ((r.2.setWaiters l.job entry).engWait l p c.id pa va true exam)
    else .got { data := 0, fe := 1, w := false, code := 0 } r.2
  | .keg => .stop r.2
  | .wait => .stop r.2
  | .page noMap => .stop (r.2.pageFault p l va false noMap)
  | .fault cause => .stop (r.2.elementFault u l cause 0 0 0 (faultInfo va))

/-! ### Delivery to landing generators (09 R148, R149) -/

/-- Every landing generator of a command has room. -/
def State.landRoom (s : State) (ds : List (Nat × Nat)) : Bool :=
  ds.all (fun d => ((s.tile d.1).gen d.2).land.length < 4)

/-- Send a cell to the landing generators of a command. -/
def State.landPush (s : State) (p : Nat) (c : Cmd) (n : Nat) (x : Cell) (ds : List (Nat × Nat)) : State :=
  ds.foldl (fun t d =>
    let y := t.tile d.1
    let g := y.gen d.2
    let q : Landing := { p := p, id := c.id, addr := crOff c.record (t.copyBase c d.1) n,
                         cell := { x with fe := copyFe (crFe c.record) x.fe } }
    t.setTile d.1 (y.setGen d.2 { g with land := g.land ++ [q] })) s

/-- The cell a command fetches next: a multicast with a GROUP fetches only what no merge group gives it. -/
def Cmd.cellAt (c : Cmd) : Nat := (c.fetch.getD [c.next]).headD 0

/-- A cell of a command has been moved; `own` says that the command fetched it. -/
def State.moved (s : State) (p id : Nat) (own : Bool) : State :=
  s.modCmd p id (fun y => { y with next := y.next + 1, fetch := if own then y.fetch.map (·.drop 1) else y.fetch })

/-- Move the next cell from device memory to the tiles. -/
def State.copyIn (s : State) (l : Launch) (p : Nat) (c : Cmd) (exam : Bool) : State :=
  let ds := c.tiles l p
  if !s.landRoom ds || !s.inOrder l p c [c.cellAt] then s
  else
    match s.copyRead l p c c.cellAt exam with
    | .got x s1 => (s1.landPush p c c.cellAt x ds).moved p c.id true
    | .stop s1 => s1

/-- LANDING_WRITE: a landing generator writes the cell that reached it first (09 R148). A tile cell of invalid state takes
nothing (16 R232). -/
def execLandingWrite (t g : Nat) (s : State) : Out :=
  match s.landAt (t / 6) with
  | none => .next s
  | some l =>
    let x := s.tile t
    let y := x.gen g
    match y.land with
    | [] => .next s
    | q :: rest =>
      match s.noteTile l t (q.addr / 32) with
      | none => .next (s.closeWindow l.id)
      | some s0 =>
        let s1 := s0.setTile t (x.setGen g { y with land := rest })
        if x.badStates [q.addr] then .next (s1.tileFe (.tile t) l)
        else if s.watchArea l t q.addr then .next (s1.elementFault (.tile t) l 0x0E 0 0 0 0)
        else .next ((s1.putCells t [(q.addr, q.cell.data, q.cell.code)] (some q.cell.fe)).modCmd q.p q.id
          (fun c => { c with landed := c.landed + 1 }))

/-! ### Copies to device memory (09 R148, 18 R270) -/

/-- Hold an effect until the window commits. -/
def State.holdEffect (s : State) (l : Nat) (h : Held) : State :=
  s.modLaunch l (fun y => { y with window := y.window.map (fun w => { w with held := w.held ++ [h] }) })

/-- An engine's write of a cell: at once in a direct launch; held in a windowed one, after the checks that could void the
window, a page of kind 3 among them (22 R328). -/
def State.engStore (s : State) (l : Launch) (p va : Nat) (comp : Bool) (x : Cell) (fe : Option (BitVec 2)) : EngOut :=
  let r := s.engAcc l p va true
  let y := match r.1 with
    | .ok pa => r.2.carried comp pa x
    | .disc pa _ _ => r.2.carried comp pa x
    | _ => x
  match ((s.launch? l.id).bind (·.window)) with
  | none => r.2.engPut l p va y fe r.1
  | some _ =>
    match r.1 with
    | .wait => .wait r.2
    | .keg => .stop (r.2.pageFault p l va true false)
    | .page noMap => .stop (r.2.pageFault p l va true noMap)
    | .fault cause => .stop (r.2.elementFault (.port p) l cause 0 0 0 (faultInfo va))
    | _ => .done (r.2.holdEffect l.id (.write p va y fe))

/-- A command that waits for a cell of its tile to become full: it is looked at again at the next write to the cell. -/
def State.waitTile (s : State) (l : Launch) (p : Nat) (c : Cmd) (exam : Bool) : State :=
  let t := s.spendCmd p c.id exam
  if exam && ((t.cmd? p c.id).map (·.budget)).getD 0 = 0 then t.elementFault (.port p) l 0x09 0 0 0 0
  else t.setPlace (.engine p c.id) (.unlisted t.fc)

/-- Move the next cell from the tile to device memory. A consumed source cell becomes empty. -/
def State.copyOut (s : State) (l : Launch) (p t : Nat) (c : Cmd) (exam : Bool) : State :=
  let r := c.record
  let a := crOff r (s.copyBase c t) c.next
  let x := (s.tile t).sram.cell a
  let consume := crFe r == 3
  if badFe x.fe then s.tileFe (.port p) l
  else if consume && x.fe ≠ 2 then s.waitTile l p c exam
  else if !s.inOrder l p c [c.next] then s
  else
    match (if consume then s.noteTile l t (a / 32) else some s) with
    | none => s.closeWindow l.id
    | some s0 =>
      match s0.engStore l p (crMem r c.next) (crComp r) { x with w := false } (some (copyFe (crFe r) x.fe)) with
      | .wait s1 => s1
      | .stop s1 => s1
      | .done s1 =>
        let s2 := ((if consume then s1.putCells t [(a, x.data, x.code)] (some 1) else s1).spendCmd p c.id exam).setPlace
          (.engine p c.id) .none
        let s3 := s2.modCmd p c.id (fun y => { y with next := y.next + 1, landed := y.landed + 1 })
        if c.next + 1 = crCells r && crCbuf r then
          match c.slots with
          | q :: _ => s3.slotOver t (crBuf r) false (.cmd p c.id) q.2
          | [] => s3
        else s3

/-- One step of a copy or multicast command: it asks for its slots, then moves one cell. A multicast with a GROUP fetches cells of
its own only once its merge requests have gone. -/
def State.copyStep (s : State) (l : Launch) (p : Nat) (c : Cmd) (exam : Bool) : State :=
  if c.ended || crHist c.record || crCells c.record ≤ c.next then s
  else if crCbuf c.record && !c.asked then (if s.earlierAsked p c.id then s.askSlots l p c else s)
  else if !c.claimed l p || !s.earlierStarted p c.id then s
  else if c.grouped && (c.fetch.getD []).isEmpty then s
  else if crDir c.record then
    match c.tiles l p with
    | (t, _) :: _ => s.copyOut l p t c exam
    | [] => s
  else s.copyIn l p c exam

/-- COPY_TRANSFER. A command that waits for a cell moves nothing until it is re-examined. -/
def execCopyTransfer (p id : Nat) (s : State) : Out :=
  match s.liveAt (p / 3), s.cmd? p id with
  | some l, some c => if c.place == .none then .next (s.copyStep l p c false) else .next s
  | _, _ => .next s

/-! ### Finishing (09 R148) -/

/-- Every cell of a command has landed. -/
def Cmd.allLanded (c : Cmd) (l : Launch) (p : Nat) : Bool :=
  let n := crCells c.record
  !c.ended && c.next == n && c.landed == (if crDir c.record then n else n * (c.tiles l p).length)

/-- The slots of a command have completed, in claim order. -/
def State.slotsDone (s : State) (l : Launch) (p : Nat) (c : Cmd) : Bool :=
  (c.tiles l p).all (fun t => !((s.tile t.1).buf (crBuf c.record)).claims.any (fun q => q.who == .cmd p c.id))

/-- The command leaves its queue: at once in a direct launch, at the commit of its window in a windowed one. -/
def State.endCmd (s : State) (l : Launch) (p id : Nat) : State :=
  match ((s.launch? l.id).bind (·.window)) with
  | some _ => s.modCmd p id (fun y => { y with ended := true })
  | none => let x := s.port p; s.setPort p { x with cmds := x.cmds.filter (fun c => c.id != id) }

/-- Step 3: the cell at DONE is decremented, or the decrement is held, and the command ends. -/
def State.finishDone (s : State) (l : Launch) (p : Nat) (c : Cmd) : State :=
  let va := crDone c.record
  let u := UnitRef.port p
  if va = 0 then s.endCmd l p c.id
  else
    let r := s.engAcc l p va true
    let go (t : State) (pa : Nat) : State :=
      match t.gate none l.job pa va true (t.decrFe pa) with
      | .invalid t1 => t1.engFe u l pa va
      | .held t1 => t1
      | .damaged t1 => t1.machineCheck u.abs l.job (BitVec.ofNat 64 va) (sliceTval pa)
      | .pass t1 => (t1.decrementAt l.job va pa true 0).endCmd l p c.id
    let hold : State := (r.2.holdEffect l.id (.dec p va)).endCmd l p c.id
    let windowed := ((s.launch? l.id).bind (·.window)).isSome
    match r.1 with
    | .ok pa => if windowed then hold else go r.2 pa
    | .disc pa entry big => if windowed then hold else go (r.2.revive l.job va entry big) pa
    | .keg => r.2.pageFault p l va true false
    | .wait => r.2
    | .page noMap => r.2.pageFault p l va true noMap
    | .fault cause => r.2.elementFault u l cause 0 0 0 (faultInfo va)

/-- COPY_FINISH: after the last byte, the slot completes, then the start tokens, then the decrement of DONE. -/
def execCopyFinish (p id : Nat) (s : State) : Out :=
  match s.liveAt (p / 3), s.cmd? p id with
  | some l, some c =>
    if !c.allLanded l p then .next s
    else if crCbuf c.record && !crDir c.record && !c.drained then
      .next ((c.slots.foldl (fun t q => t.slotOver q.1 (crBuf c.record) true (.cmd p id) q.2) s).modCmd p id
        (fun y => { y with drained := true }))
    else if !s.slotsDone l p c || !c.follow.isEmpty then .next s
    else .next (s.finishDone l p c)
  | _, _ => .next s

/-- The start token of a command (09 R148). -/
def startToken (bank : Nat) (ver : BitVec 4) : Token :=
  { data := 0, code0 := 0, code1 := 0, tag := 11, bank := BitVec.ofNat 2 bank, fin := false, ver := ver, sw := false }

/-- FOLLOW_START_TOKEN: once the bytes have landed and the slots are complete, the next element gets its start token, if its
channel has room. -/
def execFollowStartToken (p id : Nat) (s : State) : Out :=
  match s.liveAt (p / 3), s.cmd? p id with
  | some l, some c =>
    let landed := c.allLanded l p && (!crCbuf c.record || crDir c.record || c.drained) && s.slotsDone l p c
    match c.follow with
    | [] => .next s
    | e :: rest =>
      let ch := crChan c.record
      if !landed || !s.inputRoom e ch then .next s
      else
        let x := s.element e
        let q := x.inp ch
        .next ((s.setElement e (x.setInp ch { q with wire := q.wire ++ [startToken (crBank c.record) l.ver] })).modCmd p id
          (fun y => { y with follow := rest }))
  | _, _ => .next s

/-! ### History compression (09 R150) -/

/-- Read n cells of a tile from an address step by step and check them as a consuming lane: the data, or the cause of the
fault of the first that fails. -/
def State.histCells (s : State) (p t : Nat) : List Nat → Except Nat (List CellData) × State
  | [] => (.ok [], s)
  | a :: rest =>
    let c := (s.tile t).sram.cell a
    let k := check c.data c.code
    let job := ((s.ownerOf (p / 3)).map (·.job)).getD 0
    let s1 := s.countCheck (.port p) job (BitVec.ofNat 64 a) k
    match k.data? with
    | none => (.error 0x03, s1)
    | some d =>
      let r := s1.histCells p t rest
      (match r.1 with
        | .ok l => .ok (d :: l)
        | .error n => .error n, r.2)

/-- One compressed value: N, d, the new reference, and whether SAT or NONFIN is set. -/
structure Hist where
  n      : Int
  d      : BitVec 32
  sat    : Bool
  nonfin : Bool
deriving DecidableEq, Repr

/-- The greatest magnitude of N. -/
def histMax : Int := 2 ^ 30 - 1

/-- Compress one value against its reference. -/
def histValue (beta x : Val) (ref : BitVec 32) : Hist :=
  let mk (n : Int) (sat nonfin : Bool) : Hist := { n := n, d := BitVec.ofInt 32 n - ref, sat := sat, nonfin := nonfin }
  match x with
  | .nan => mk 0 false true
  | .inf b => mk (if b then -histMax else histMax) true false
  | .num .. =>
    match x.div (Val.scale beta 1) with
    | .num b n d =>
      let q := roundQuot .ne b n d
      let m : Int := signed b q
      let c := satInt m (-histMax) histMax
      mk c (c != m) false
    | _ => mk 0 false false

/-- The lanes of cells at a width. -/
def cellLanes (w : Nat) (ds : List CellData) : List Nat :=
  ds.flatMap (fun d => (List.range (256 / w)).map (fun i => (d.toNat >>> (w * i)) % 2 ^ w))

/-- Cut a list of lanes into cells, padded with zeros; n bounds the cells. -/
def packCells (w per : Nat) : Nat → List Nat → List CellData
  | 0, _ => []
  | n + 1, xs =>
    if xs.isEmpty then []
    else BitVec.ofNat 256 ((xs.take per).foldr (fun x a => x % 2 ^ w + 2 ^ w * a) 0) :: packCells w per n (xs.drop per)

/-- The cells of a history record. -/
def histRecord (r : Line) (hs : List Hist) : List CellData :=
  let n := hs.length
  let nz := (hs.filter (fun h => h.d != 0)).map (fun h => h.d.toNat)
  let bits := packCells 1 256 n (hs.map (fun h => if h.d != 0 then 1 else 0))
  let vals := packCells 32 8 n nz
  let total := 1 + bits.length + vals.length
  let flags := (if hs.any (·.sat) then 1 else 0) + (if hs.any (·.nonfin) then 2 else 0)
  BitVec.ofNat 256 (n + 2 ^ 32 * nz.length + 2 ^ 64 * crBeta r + 2 ^ 96 * total + 2 ^ 128 * crHfmt r + 2 ^ 136 * flags) ::
    (bits ++ vals)

/-- Write the cells of a record contiguously from an address. -/
def State.histWrite (s : State) (l : Launch) (p : Nat) (comp : Bool) (fe : Option (BitVec 2)) (va : Nat) : List CellData → EngOut
  | [] => .done s
  | d :: rest =>
    match s.engStore l p (va % 2 ^ 64) comp { data := d, fe := 2, w := false, code := gen d } fe with
    | .done s1 => s1.histWrite l p comp fe (va + 32) rest
    | o => o

/-- The state that FE gives the cells of a record, which has no source states to copy. -/
def histFe (mode : Nat) : Option (BitVec 2) := if mode = 0 then none else if mode = 2 then some 1 else some 2

/-- The cells of the new references (09 R150). -/
def histNew (old : List CellData) (hs : List Hist) : List CellData :=
  packCells 32 8 old.length (hs.map (fun h => (BitVec.ofInt 32 h.n).toNat) ++ (cellLanes 32 old).drop hs.length)

/-- HISTORY_COMPRESS: the whole command in one step; an uncorrectable source or reference stops it with nothing written. The
tile cells that it writes are noted for the window's undo log, and a reference in a decoding area is a fault of the tile (11
R178). -/
def State.histStep (s : State) (l : Launch) (p t : Nat) (c : Cmd) (exam : Bool) : State :=
  let r := c.record
  let base := s.copyBase c t
  let src := (List.range (crCells r)).map (fun n => crOff r base n)
  let refs := (List.range ((4 * crValues r + 31) / 32)).map (fun n => crHref r + 32 * n)
  let consume := crFe r == 3
  let fmt := if crHfmt r = 1 then FloatFmt.f64 else FloatFmt.f32
  if (s.tile t).badStates (src ++ refs) then s.tileFe (.port p) l
  else if consume && !src.all (fun a => ((s.tile t).sram.sideAt a).fe == 2) then s.waitTile l p c exam
  else if refs.any (s.watchArea l t) then s.elementFault (.tile t) l 0x0E 0 0 0 0
  else
    match s.histCells p t src with
    | (.error n, s1) => s1.elementFault (.port p) l n 0 0 0 0
    | (.ok xs, s1) =>
      match s1.histCells p t refs with
      | (.error n, s2) => s2.elementFault (.port p) l n 0 0 0 0
      | (.ok old, s2) =>
        let beta := FloatFmt.f32.value (crBeta r)
        let hs := ((cellLanes fmt.width xs).zip (cellLanes 32 old)).map (fun q =>
          histValue beta (fmt.value q.1) (BitVec.ofNat 32 q.2))
        match s2.noteCells l t (refs ++ (if consume then src else [])) with
        | none => s.closeWindow l.id
        | some s3 =>
          match s3.histWrite l p (crComp r) (histFe (crFe r)) (crVa r) (histRecord r hs) with
          | .wait _ => s
          | .stop s4 => s4
          | .done s4 =>
            let s5 := s4.putCells t ((refs.zip (histNew old hs)).map (fun q => (q.1, q.2, gen q.2))) none
            let s6 := if consume then s5.putCells t (src.map (fun a =>
                (a, ((s5.tile t).sram.cell a).data, ((s5.tile t).sram.cell a).code))) (some 1) else s5
            let s7 := ((s6.spendCmd p c.id exam).setPlace (.engine p c.id) .none).modCmd p c.id
              (fun y => { y with next := crCells r, landed := crCells r })
            match c.slots with
            | q :: _ => s7.slotOver t (crBuf r) false (.cmd p c.id) q.2
            | [] => s7

/-- One step of a history command: it asks for its slot, then compresses. -/
def State.histMove (s : State) (l : Launch) (p : Nat) (c : Cmd) (exam : Bool) : State :=
  if c.ended || !crHist c.record || crCells c.record ≤ c.next then s
  else if crCbuf c.record && !c.asked then (if s.earlierAsked p c.id then s.askSlots l p c else s)
  else if !c.claimed l p || !s.earlierStarted p c.id || !s.inOrder l p c c.todo then s
  else
    match c.tiles l p with
    | (t, _) :: _ => s.histStep l p t c exam
    | [] => s

/-- HISTORY_COMPRESS. -/
def execHistoryCompress (p id : Nat) (s : State) : Out :=
  match s.liveAt (p / 3), s.cmd? p id with
  | some l, some c => if c.place == .none then .next (s.histMove l p c false) else .next s
  | _, _ => .next s

/-! ### Multicast merging (14 R221–R223) -/

/-- ROWS, ROWBYTES and MPITCH of a record, as the key of a merge group holds them. -/
def crShape (r : Line) : BitVec 80 :=
  BitVec.ofNat 80 (crRows r + 2 ^ 16 * crRowBytes r + 2 ^ 48 * lbytes r 24 4)

/-- The merge window of a group still runs: 64 sc. -/
def Merge.running (m : Merge) (fc : Nat) : Bool := m.isOpen && fc < m.opened + 128

/-- What locating the cells of a transfer gives: those at home slices, with their addresses, and those on discarded pages, which
no slice holds; or a state in which the transfer waits or has met a fault. -/
inductive Located where
  | found (cells : List (Nat × Nat)) (own : List Nat) (s : State)
  | stop (s : State)

/-- Translate the cells of a transfer. -/
def State.locate (s : State) (l : Launch) (p : Nat) (r : Line) : List Nat → Located
  | [] => .found [] [] s
  | n :: rest =>
    let va := crMem r n
    let q := s.engAcc l p va false
    match q.1 with
    | .ok pa => (match q.2.locate l p r rest with
      | .found cs own t => .found ((n, pa) :: cs) own t
      | o => o)
    | .disc .. => (match q.2.locate l p r rest with
      | .found cs own t => .found cs (n :: own) t
      | o => o)
    | .page noMap => .stop (q.2.pageFault p l va false noMap)
    | .fault cause => .stop (q.2.elementFault (.port p) l cause 0 0 0 (faultInfo va))
    | .keg | .wait => .stop q.2

/-- Put a cell in its place by address. -/
def insertCell (x : Nat × Nat) : List (Nat × Nat) → List (Nat × Nat)
  | [] => [x]
  | y :: t => if x.2 ≤ y.2 then x :: y :: t else y :: insertCell x t

/-- Cells in increasing address order. -/
def sortCells (cs : List (Nat × Nat)) : List (Nat × Nat) := cs.foldr insertCell []

/-- The first cell from number i on with which a line begins (14 R222). -/
def lineStart (cs : List (Nat × Nat)) (i : Nat) : Nat :=
  ((List.range cs.length).find? (fun j => i ≤ j && (j == 0 ||
    ((cs[j]?).map (·.2 / 256) != (cs[j - 1]?).map (·.2 / 256))))).getD cs.length

/-- A home slice takes the request of a multicast for the cells of one granule (14 R221, R222): it grafts onto a running group
with its key, opens a group, or leaves the cells to the command's own fetching. `first` is the physical address of the
transfer's first cell. -/
def State.mergeRequest (s : State) (l : Launch) (p : Nat) (c : Cmd) (first : Nat) (cells : List (Nat × Nat)) : State :=
  let h := homeOf ((cells.headD (0, 0)).2)
  let x := s.slice h
  let r := c.record
  let same (m : Merge) : Bool :=
    m.job == l.job && m.group.toNat == crGroup r && m.va == crVa r && m.pa == first && m.shape == crShape r &&
      m.cells == cells && m.running s.fc
  match x.merges.find? same with
  | some m =>
    let j : Joiner := { p := p, id := c.id, start := lineStart m.cells m.sent, got := 0 }
    s.setSlice h { x with merges := x.merges.map (fun y => if y == m then { y with who := y.who ++ [j] } else y) }
  | none =>
    if 16 ≤ x.merges.length then
      s.modCmd p c.id (fun y => { y with fetch := y.fetch.map (fun f => f ++ cells.map (·.1)) })
    else
      s.setSlice h { x with merges := x.merges ++
        [{ job := l.job, group := BitVec.ofNat 24 (crGroup r), va := crVa r, pa := first, shape := crShape r, cells := cells,
           opened := s.fc, isOpen := true, sent := 0, who := [{ p := p, id := c.id, start := 0, got := 0 }] }] }

/-- The requests of a multicast go to the home slices of its granules. A transfer whose rows overlap in the tile is served on
its own, so that its cells are written in their order. -/
def State.sendRequests (s : State) (l : Launch) (p : Nat) (c : Cmd) : State :=
  let r := c.record
  let ns := List.range (crCells r)
  match s.locate l p r ns with
  | .stop s1 => s1
  | .found cells own s1 =>
    if ((ns.map (crOff r 0)).eraseDups).length < ns.length then s1.modCmd p c.id (fun y => { y with fetch := some ns })
    else
      let s2 := s1.modCmd p c.id (fun y => { y with fetch := some own })
      let first := ((cells.find? (fun q => q.1 == 0)).map (·.2)).getD 0
      ((cells.map (·.2 / 8192)).eraseDups).foldl (fun t g =>
        t.mergeRequest l p c first (sortCells (cells.filter (fun q => q.2 / 8192 == g)))) s2

/-- MULTICAST_REQUEST: a multicast with a GROUP that has its slots sends its requests. -/
def execMulticastRequest (p id : Nat) (s : State) : Out :=
  match s.liveAt (p / 3), s.cmd? p id with
  | some l, some c =>
    if !c.grouped || c.fetch.isSome || c.ended then .next s
    else if crCbuf c.record && !c.asked then .next (if s.earlierAsked p id then s.askSlots l p c else s)
    else if !c.claimed l p || !s.earlierStarted p id || !s.inOrder l p c c.todo then .next s
    else .next (s.sendRequests l p c)
  | _, _ => .next s

/-- A member of a group with its launch and command. -/
def State.member (s : State) (j : Joiner) : Option (Joiner × Launch × Cmd) :=
  match s.liveAt (j.p / 3), s.cmd? j.p j.id with
  | some l, some c => some (j, l, c)
  | _, _ => none

/-- The cell that a group sends next, by its place in the group, and the members that take it: on the tree all that follow it
there; after it the first that still misses cells. -/
def Merge.turn (m : Merge) : Option (Nat × List Joiner) :=
  if m.sent < m.cells.length then some (m.sent, m.who.filter (fun j => j.start ≤ m.sent))
  else (m.who.find? (fun j => j.got < j.start)).map (fun j => (j.got, [j]))

/-- The group once that cell has gone. -/
def Merge.sentOne (m : Merge) : Merge :=
  if m.sent < m.cells.length then { m with sent := m.sent + 1 }
  else
    let i := m.who.findIdx (fun j => j.got < j.start)
    { m with who := ((List.range m.who.length).zip m.who).map (fun q =>
        if q.1 = i then { q.2 with got := q.2.got + 1 } else q.2) }

/-- A cell of a group goes to members: read at the home slice, which fills its line, and sent to every landing tile of each. -/
def State.lineSend (s : State) (m : Merge) (i : Nat) (ts : List (Joiner × Launch × Cmd)) : State :=
  let cell := (m.cells[i]?).getD (0, 0)
  let s1 := s.fillLine m.job cell.2 ((ts.head?.map (fun q => crMem q.2.2.record cell.1)).getD m.va)
  let x := s1.mem.cell cell.2
  if badFe x.fe then ts.foldl (fun t q => t.engFe (.port q.1.p) q.2.1 cell.2 (crMem q.2.2.record cell.1)) s1
  else ts.foldl (fun t q =>
    (t.landPush q.1.p q.2.2 cell.1 (s1.carried (crComp q.2.2.record) cell.2 x) (q.2.2.tiles q.2.1 q.1.p)).moved q.1.p q.1.id
      false) s1

/-- MULTICAST_LINE_SEND: merge group m of slice h sends its next cell to every member that takes it, when all have room and all
their regions move; a group that has nothing left to send and whose window is over goes. -/
def execMulticastLineSend (h m : Nat) (s : State) : Out :=
  let x := s.slice h
  match x.merges[m]? with
  | none => .next s
  | some g =>
    match g.turn with
    | none => if g.running s.fc then .next s else .next (s.setSlice h { x with merges := x.merges.eraseIdx m })
    | some (i, js) =>
      let ts := js.filterMap s.member
      if ts.length < js.length || !ts.all (fun q => s.landRoom (q.2.2.tiles q.2.1 q.1.p)) then .next s
      else
        let s1 := s.lineSend g i ts
        let y := s1.slice h
        .next (s1.setSlice h { y with merges := y.merges.map (fun z => if z == g then g.sentOne else z) })

/-- MERGE_WINDOW_EXPIRE: 64 sc after the first request the window of a group closes (14 R221). -/
def execMergeWindowExpire (h m : Nat) (s : State) : Out :=
  let x := s.slice h
  match x.merges[m]? with
  | none => .next s
  | some g =>
    if g.isOpen && g.opened + 128 ≤ s.fc then
      .next (s.setSlice h { x with merges := x.merges.set m { g with isOpen := false } })
    else .next s

end Sys2Proof.Machine
end

