-- ==== Sys2Proof/Machine/Portal.lean ====
section
/-! DEFINITION. Portals and the requests of peers (23 R349–R352). -/

namespace Sys2Proof.Machine

/-- OP of a portal. -/
def Portal.op (q : Portal) : Nat := bits q.word.toNat 0 4
/-- The portal of tile p, and the running launch that holds it. -/
def State.livePortal (s : State) (p : Nat) : Option (Launch × Portal) :=
  match s.liveAt (p / 3), (s.port p).portal with
  | some l, some q => some (l, q)
  | _, _ => none

/-- The state with the portal of tile p. -/
def State.setPortal (s : State) (p : Nat) (q : Portal) : State := s.setPort p { s.port p with portal := some q }

/-- Check the halves of a token that a portal consumes as numbers (16 R245). -/
def State.portalCheck (s : State) (p : Nat) (l : Launch) (t : Token) : Option Nat × State :=
  let lo := check (t.data.extractLsb' 0 256) t.code0
  let hi := check (t.data.extractLsb' 256 256) t.code1
  let u := UnitRef.port p
  let s1 := (s.countCheck u l.job 0 lo).countCheck u l.job 0 hi
  (if lo.data?.isNone then some lo.cause else if hi.data?.isNone then some hi.cause else none, s1)

/-- A reply token: two INT64 lanes with generated codes (23 R350). -/
def replyToken (ver : BitVec 4) (a : Word64) (st : BitVec 2) : Token :=
  let lo : CellData := BitVec.ofNat 256 (a.toNat + 2 ^ 64 * st.toNat)
  { data := lo.zeroExtend 512, code0 := gen lo, code1 := gen 0, tag := 12, bank := 0, fin := false, ver := ver, sw := false }

/-- The fork of a portal's reply output. -/
def Launch.replyFork (l : Launch) (p : Nat) : List Word64 := l.fork (l.relId (.port p)) 1

/-- The reply of the oldest request leaves, once it has come and every destination has room. -/
def State.replySend (s : State) (p : Nat) : State :=
  match s.livePortal p with
  | none => s
  | some (l, q) =>
    match q.reqs with
    | [] => s
    | r :: rest =>
      match r.reply with
      | none => s
      | some (v, st) =>
        let f := l.replyFork p
        if s.forkRoom l f then (s.setPortal p { q with reqs := rest }).forkPush l f (replyToken l.ver v st) else s

/-- PORTAL_REQUEST: the head token becomes a request; at most 64 are outstanding. Markers and switch tokens carry none. -/
def execPortalRequest (p : Nat) (s : State) : Out :=
  .next (match s.livePortal p with
    | none => s
    | some (l, q) =>
      match q.wire with
      | [] => s
      | t :: rest =>
        if q.op = 11 || 64 ≤ q.reqs.length then s
        else
          let s1 := s.setPortal p { q with wire := rest }
          if t.fin || t.sw then s1
          else if t.tag ≠ 12 then s1.elementFault (.port p) l 0x01 0 0 0 0
          else match s1.portalCheck p l t with
            | (some cause, s2) => s2.elementFault (.port p) l cause 0 0 0 0
            | (none, s2) =>
              s2.setPortal p { q with wire := rest, reqs := q.reqs ++ [{ tok := t, sent := s.fc, reply := none }] })

/-- A FADD that was performed sets FPUNSEQ in the launch of its portal (03 R56, 23 R350). -/
def State.faddDone (s : State) (l : Launch) (q : Portal) (performed : Bool) : State :=
  if q.op == 9 && performed then s.modLaunch l.id (fun y => { y with status := y.status ||| 8 }) else s

/-- The first request without a reply takes one. -/
def Portal.answer (q : Portal) (v : Word64) (st : BitVec 2) : Portal :=
  match q.reqs.findIdx? (fun r => r.reply.isNone) with
  | some i => { q with reqs := q.reqs.modify i (fun r => { r with reply := some (v, st) }) }
  | none => q

/-- A status that a reply carries; 2 stands for no reply at all. -/
def replyStatus (st : BitVec 2) : BitVec 2 := if st = 2 then 1 else st

/-- PORTAL_REPLY: the host's or peer's answer to a request comes, and the reply of the oldest request is emitted. -/
def execPortalReply (p : Nat) (s : State) : Out :=
  .next (match s.livePortal p with
    | none => s
    | some (l, q) =>
      if q.reqs.all (fun r => r.reply.isSome) then s.replySend p
      else
        let r := s.nextFree
        let a := Config.portalReply r.1
        let v : Word64 := if q.word.getLsbD 4 then a.1 else a.1 &&& 0xFFFFFFFF
        ((r.2.setPortal p (q.answer v (replyStatus a.2))).faddDone l q (replyStatus a.2 == 0)).replySend p)

/-- PORTAL_TIMEOUT: a request without a reply for 50 ms, 200,000,000 fc, takes status 2. The old value, and whether the peer
performed a FADD all the same, are not stated (log 10). -/
def execPortalTimeout (p : Nat) (s : State) : Out :=
  .next (match s.livePortal p with
    | none => s
    | some (l, q) =>
      match q.reqs.find? (fun r => r.reply.isNone) with
      | none => s
      | some r =>
        if s.fc < r.sent + 200000000 then s
        else
          let f := s.nextFree
          let g := f.2.nextFree
          ((g.2.setPortal p (q.answer (Config.freeWord f.1) 2)).faddDone l q ((Config.freeWord g.1).getLsbD 0)).replySend p)

/-- The worse of two statuses. -/
def worse (a b : BitVec 2) : BitVec 2 := if a.ult b then b else a

/-- PORTAL_PUT_DATA: the head data token is written at the peer; its status counts to the run. -/
def execPortalPutData (p : Nat) (s : State) : Out :=
  .next (match s.livePortal p with
    | none => s
    | some (_, q) =>
      match q.wire with
      | [] => s
      | t :: rest =>
        if q.op ≠ 11 then s
        else if t.sw then s.setPortal p { q with wire := rest }
        else if t.fin then s
        else
          let r := s.nextFree
          r.2.setPortal p { q with wire := rest, count := q.count + 1, worst := worse q.worst (Config.putStatus r.1) })

/-- PORTAL_PUT_MARKER: every write of the run has performed; one reply gives its count and its worst status. -/
def execPortalPutMarker (p : Nat) (s : State) : Out :=
  .next (match s.livePortal p with
    | none => s
    | some (l, q) =>
      match q.wire with
      | [] => s
      | t :: rest =>
        let f := l.replyFork p
        if q.op ≠ 11 || !t.fin || !s.forkRoom l f then s
        else (s.setPortal p { q with wire := rest, count := 0, worst := 0 }).forkPush l f
          (replyToken l.ver (BitVec.ofNat 64 q.count) q.worst))

/-! ### Requests of peers (23 R350, R351) -/

/-- The value that operator op of 17 R253, or CAS, leaves for an old one. -/
def peerOp (op n old b c : Nat) : Nat :=
  match op with
  | 0 => (old + b) % 2 ^ (8 * n)
  | 1 => old &&& b
  | 2 => old ||| b
  | 3 => old ^^^ b
  | 4 => amoMinOp n old b
  | 5 => amoMaxOp n old b
  | 6 => Nat.min old b
  | 7 => Nat.max old b
  | 8 => b
  | 9 => amoFaddOp n old b
  | _ => if old = c then b else old

/-- An atomic of the peer at UALink port u on a job's address; a refused one, or one at a bad cell, performs nothing. One that
must wait for a merged transfer or a page has not been taken (14 R223; log 27). -/
def State.peerAtomic (s : State) (u job op : Nat) (dbl : Bool) (va b c : Nat) : State :=
  let n := if dbl then 8 else 4
  let r := s.translate .bare job (s.xrecOf job) va
  let go (t : State) (pa : Nat) : State :=
    if t.access (targetSlice (homeOf pa)) (512 + u) < 3 then t
    else match t.gate none job pa va true none with
      | .invalid q => q.feNote pa va job
      | .held q => q
      | .damaged q => q
      | .pass q => (q.sliceRmw job pa va n (fun old => peerOp op n old (b % 2 ^ (8 * n)) (c % 2 ^ (8 * n)))).2
  if 2 ^ 52 ≤ va || va % n ≠ 0 || 10 < op then s
  else match r.1 with
    | .heap pa => go r.2 pa
    | .page pa w x => if w && !x then go r.2 pa else r.2
    | .discarded pa entry w x big =>
      if w && !x && 3 ≤ r.2.access (targetSlice (homeOf pa)) (512 + u) then go (r.2.revive job va entry big) pa else r.2
    | _ => r.2

/-- One cell of a peer's PUT: data and code as they came; a page that is not resident takes it in the keg (14 R224). A merge
group, a full keg or a page on its way makes it wait. -/
def State.peerPut (s : State) (u job va : Nat) (d : CellData) (code : BitVec 28) (fill : Bool) : EngOut :=
  let x := s.xrecOf job
  let r := s.translate .bare job x va
  let go (t : State) (pa : Nat) : EngOut :=
    if t.access (targetSlice (homeOf pa)) (512 + u) < 2 then .done t
    else match t.gate none job pa va true (if fill then some 2 else none) with
      | .invalid q => .done (q.feNote pa va job)
      | .held q => .wait q
      | .damaged q => .wait (q.machineCheck (UnitRef.slice (homeOf pa)).abs job (BitVec.ofNat 64 va) (sliceTval pa))
      | .pass q =>
        let t1 := q.wholeWrite job pa va d code
        .done (if fill then t1.setFe job pa va 2 else t1)
  if 2 ^ 52 ≤ va then .done s
  else match r.1 with
    | .heap pa => go r.2 pa
    | .page pa w y => if w && !y then go r.2 pa else .done r.2
    | .discarded pa entry w y big =>
      if w && !y && 2 ≤ r.2.access (targetSlice (homeOf pa)) (512 + u) then go (r.2.revive job va entry big) pa
      else .done r.2
    | .absent =>
      if r.2.kegFull x then .wait r.2
      else .done (r.2.kegAppend x job va 0 { data := d, fe := 2, w := false, code := code } 2)
    | .arriving => .wait r.2
    | .noMap | .machine => .done r.2

/-- A data token of a peer's PUT: both of its cells are taken together, or neither while one of them must wait; the request then
comes again (23 R351; log 27). -/
def State.peerToken (s : State) (u job va : Nat) (d0 d1 : CellData) (c0 c1 : BitVec 28) (fill : Bool) : State :=
  match s.peerPut u job va d0 c0 fill with
  | .wait t | .stop t => t
  | .done s1 =>
    match s1.peerPut u job (va + 32) d1 c1 fill with
    | .done s2 => s2
    | .wait _ | .stop _ =>
      match s.peerPut u job (va + 32) d1 c1 fill with
      | .wait t => t
      | _ => s

/-- PEER_REQUEST: a request that arrives at UALink port u. Its reply leaves the module (log 27). -/
def execPeerRequest (u : Nat) (r : PeerReq) (s : State) : Out :=
  .next (
    if 16 ≤ u then s
    else match r with
      | .atomic job op dbl va b c => if 1 ≤ job && job ≤ 192 then s.peerAtomic u job op dbl va.toNat b.toNat c.toNat else s
      | .put job va d0 d1 c0 c1 fill =>
        if 1 ≤ job && job ≤ 192 && va.toNat % 64 = 0 then
          s.peerToken u job va.toNat d0 d1 c0 c1 fill
        else s)

end Sys2Proof.Machine
end

