-- ==== Sys2Proof/Machine/Watch.lean ====
section
/-! DEFINITION. Watch groups: WOPEN, WSTEP, WCLOSE, WSTAT, and the rounds, events and decoders of a group (11 R163–R178; 12
R184–R194). -/

namespace Sys2Proof.Machine

/-! ### Groups and members -/

/-- Group n of a launch, by its place in the slot table. -/
def Launch.group (l : Launch) (n : Nat) : Option Group := l.groups[n]?
/-- Group of a given number. -/
def Launch.groupNo (l : Launch) (num : Nat) : Option Group := l.groups.find? (fun g => g.num.toNat == num)

/-- A member of a group: its rank, its tile and its entry. -/
structure Member where
  rank : Nat
  tile : Nat
  ent  : WEntry
deriving DecidableEq, Repr

/-- The members of a group that have an entry, in rank order. -/
def State.members (s : State) (l : Launch) (g : Group) : List Member :=
  (List.range g.k).filterMap (fun r => match l.unit? (g.members.getD r 0).toNat with
    | some (.tile t) => ((s.tile t).watch.find? (fun w => w.2.group == g.num)).map (fun w =>
        { rank := r, tile := t, ent := w.2 })
    | _ => none)

/-- The tile of a member works (02 R32). -/
def State.works (s : State) (m : Member) : Bool := s.present (.tile m.tile) && !(s.tile m.tile).failed

/-- The present members: their tiles work and they have not marked themselves absent (11 R173, R174). -/
def State.presentMembers (s : State) (l : Launch) (g : Group) : List Member :=
  (s.members l g).filter (fun m => s.works m && m.ent.isOpen && !m.ent.selfAbsent)

/-- The state with the entry of a group in a tile changed. -/
def State.modEntry (s : State) (t : Nat) (num : BitVec 14) (f : WEntry → WEntry) : State :=
  let x := s.tile t
  s.setTile t { x with watch := x.watch.map (fun w => if w.2.group == num then (w.1, f w.2) else w) }

/-- The state with the entries of some members changed. -/
def State.modMembers (s : State) (ms : List Member) (f : Member → WEntry → WEntry) : State :=
  ms.foldl (fun t m => t.modEntry m.tile m.ent.group (f m)) s

/-! ### Counts (11 R164) -/

/-- The present member whose unit is lowest, which enters what all of them detect once (22 R323, 11 R177). -/
def State.lowestMember (s : State) (l : Launch) (g : Group) : Option Member :=
  let id (m : Member) : Nat := l.relId (.tile m.tile)
  (s.presentMembers l g).foldl (fun o m => match o with
    | none => some m
    | some q => if id m < id q then some m else some q) none

/-- An element fault that every present member of a group detects (11 R168, R177; 22 R323). -/
def State.groupFault (s : State) (l : Launch) (g : Group) (cause info : Nat) : State :=
  (s.presentMembers l g).foldl (fun t m => t.elementFault (.tile m.tile) l cause 0 0 0 info) s

/-- Read and check cells of a tile from an address as a watch engine or tile decoder does (16 R245). -/
def State.watchCells (s : State) (job t a : Nat) : Nat → Option (List CellData) × State
  | 0 => (some [], s)
  | n + 1 =>
    let c := (s.tile t).sram.cell a
    let k := check c.data c.code
    let s1 := s.countCheck (.tile t) job (BitVec.ofNat 64 a) k
    match k.data? with
    | none => (none, s1)
    | some d =>
      let r := s1.watchCells job t (a + 32) n
      (r.1.map (fun l => d :: l), r.2)

/-- The lanes of 32 bits of cells. -/
def words32 (ds : List CellData) : List Nat :=
  ds.flatMap (fun d => (List.range 8).map (fun i => (d.toNat >>> (32 * i)) % 2 ^ 32))

/-- A cell of eight 32-bit words. -/
def cell32 (xs : List Nat) : CellData := BitVec.ofNat 256 (packLanes 32 xs)

/-- The 64 counts of a member. -/
def State.counts (s : State) (job : Nat) (m : Member) : Option (List Int) × State :=
  let r := s.watchCells job m.tile (256 * m.ent.coff.toNat) 8
  (r.1.map (fun ds => (words32 ds).map (fun v => sval 32 v)), r.2)

/-- Write 64 values of 32 bits at an address with generated codes, in a state if one is given. -/
def State.writeWords (s : State) (t a : Nat) (xs : List Nat) (fe : Option (BitVec 2)) : State :=
  s.putCells t ((List.range 8).map (fun j => let d := cell32 ((xs.drop (8 * j)).take 8); (a + 32 * j, d, gen d))) fe

/-- Write the counts of a member. -/
def State.writeCounts (s : State) (m : Member) (cs : List Int) (fe : Option (BitVec 2)) : State :=
  s.writeWords m.tile (256 * m.ent.coff.toNat) (cs.map (fun c => narrow 32 c)) fe

/-! ### Descriptors (09 R155) -/

/-- E of a descriptor. -/
def dE (d : Line) : Int := sval 16 (lbytes d 32 2)
/-- B of a descriptor. -/
def dB (d : Line) : Nat := lbytes d 34 1 % 16
/-- K of a descriptor. -/
def dK (d : Line) : Nat := lbytes d 35 1
/-- Wk of a descriptor. -/
def dW (d : Line) (k : Nat) : BitVec 16 := BitVec.ofNat 16 (lbytes d (36 + 2 * k) 2)
/-- ROUNDS of a descriptor. -/
def dRounds (d : Line) : Nat := lbytes d 52 1
/-- STRETCH of a descriptor. -/
def dStretch (d : Line) : Nat := lbytes d 53 1
/-- POLICY of a descriptor: fault the launch. -/
def dPolicy (d : Line) : Bool := lbytes d 54 1 == 1
/-- WATCH of a descriptor. -/
def dWatch (d : Line) : Bool := d.getLsbD 224

/-! ### The group operand (12 R184, R185) -/

/-- The groups that an operand names; none: access denied. -/
def Launch.range (l : Launch) (a : Nat) (one : Bool) : Option (List Group) :=
  let first := bits a 0 14
  let count := bits a 16 14
  if 2 ^ 30 ≤ a || bits a 14 2 ≠ 0 || 16384 ≤ first + count || (one && count ≠ 0) then none
  else (List.range (count + 1)).mapM (fun i => l.groupNo (first + i))

/-! ### WOPEN (12 R186) -/

/-- The first failing check of a weight. -/
def weightBad (d : Line) (k : Nat) : Option Nat :=
  (List.range 8).findSome? (fun i =>
    if i < k then
      (if dW d i == 0 || (List.range i).any (fun j => dW d j == dW d i) then some (36 + 2 * i) else none)
    else if dW d i == 0 then none else some (36 + 2 * i))

/-- Another strand's WCLOSE is closing the group: to other commands it is open no more, and it is opened again only after that
command has ended (12 R191). -/
def State.closing (s : State) (l : Launch) (g : Group) : Bool :=
  s.strands.any (fun x => x.1 != s.issue.k && l.holds (x.1 / 8) && !superStrand x.1 && (match x.2.pend with
    | some p => (match p.instr with
      | .wclose _ => p.left.contains g.num
      | _ => false)
    | none => false))

/-- The group is open to a command of the issuing strand. -/
def State.opened (s : State) (l : Launch) (g : Group) : Bool := s.groupOpen l g && !s.closing l g

/-- The first failing check of WOPEN for a group. -/
def State.openBad (s : State) (l : Launch) (g : Group) : Option Nat :=
  match (s.job l.job).tensors.find? (fun t => t.1 == g.tensor) with
  | none => some 8
  | some t =>
    let d := t.2
    if !dWatch d then some 28
    else if (tCount d + 63) / 64 ≤ g.block.toNat then some 12
    else if dK d ≠ g.k then some 35
    else match weightBad d g.k with
      | some o => some o
      | none => if s.groupOpen l g then some 64 else none

/-- A member entry as WOPEN leaves it (12 R186). -/
def openEntry (d : Line) (w : WEntry) : WEntry :=
  { w with
    isOpen := true, e := BitVec.ofInt 16 (dE d), b := dB d, w := (List.range w.k).map (fun k => dW d k), rounds := dRounds d,
    stretchMax := dStretch d, policy := dPolicy d, n := List.replicate 64 0, nanMask := 0, masks := [], heard := 0,
    emitted := 0, round := 0, step := 0, stretch := 0, absent := 0, lost := 0, stepping := false, stretching := false,
    degraded := false, nan := false, sat := false, breached := false, events := 0, steps := 0, breaches := 0 }

/-- Open a group: its members that work and have not marked themselves absent, for the rest of the launch, and its tile
decoders are set afresh (11 R174, 12 R186). -/
def State.openGroup (s : State) (l : Launch) (g : Group) : State :=
  let d := (((s.job l.job).tensors.find? (fun t => t.1 == g.tensor)).map (·.2)).getD 0
  let ms := (s.members l g).filter (fun m => s.works m && !m.ent.selfAbsent)
  let s1 := s.modMembers ms (fun _ w => openEntry d w)
  let s2 := ms.foldl (fun t m => t.writeCounts m (List.replicate 64 0) (some 2)) s1
  let s3 := g.decs.foldl (fun t q => match l.unit? q.unit.toNat with
    | some (.tile u) => if q.tile then t.writeWords u q.off (List.replicate 64 0) (some 2) else t
    | _ => t) s2
  s3.modGroup l.id g.num (fun y =>
    { y with desc := d, phase := .idle, rounds := 0, total := 0, sub := 0, breach := false, flight := [], sent := [],
             stopReq := false, everOpen := true })

/-- WOPEN. -/
def execWopen (ga : GReg) (s : State) : Out :=
  let i := Instr.wopen ga
  let a := s.reg ga
  .next (s.command i (fun l =>
    match l.range a.toNat false with
    | none => s.denied a
    | some gs =>
      if gs.any (fun g => s.closing l g) then s.waitFor i
      else match gs.findSome? (fun g => s.openBad l g) with
      | some o => s.rejected o
      | none => s.atBoundary i (fun t => (gs.foldl (fun u g => u.openGroup l g) t).retire)))

/-! ### WSTEP (11 R168, R169; 12 R188) -/

/-- Read n cells of memory from an address as the strand's own reads, unchecked, and go on with them. -/
def State.readRaw (s : State) (i : Instr) (a : Word64) : Nat → (State → List Cell → State) → State
  | 0, f => f s []
  | n + 1, f =>
    s.withAccess i a 0 false 1 (fun s1 pa va disc _ =>
      if disc then
        s1.readRaw i (a + 32) n (fun s2 cs => f s2 ({ data := 0, fe := 1, w := false, code := 0 } :: cs))
      else if badFe (s1.mem.sideAt pa).fe then s1.feCheck pa va
      else (s1.fillLine (s1.strandJob s1.issue.k) pa va).readRaw i (a + 32) n (fun s2 cs => f s2 (s1.mem.cell pa :: cs)))

/-- The lanes of a group's block that the tensor has. -/
def Group.valid (g : Group) : Nat := Nat.min 64 (tCount g.desc - 64 * g.block.toNat)

/-- The address and the number of the cells of a group's block. -/
def Group.blockCells (g : Group) : Word64 × Nat :=
  let w := tagWidth (tFmt g.desc)
  (BitVec.ofNat 64 (tBase g.desc + 8 * w * g.block.toNat), (g.valid * w + 255) / 256)

/-- Read the blocks of some groups, one after the other. -/
def State.readBlocks (s : State) (i : Instr) : List Group → (State → List (List Cell) → State) → State
  | [], f => f s []
  | g :: rest, f =>
    s.readRaw i g.blockCells.1 g.blockCells.2 (fun s1 cs => s1.readBlocks i rest (fun s2 ls => f s2 (cs :: ls)))

/-- The greatest target count. -/
def targetMax : Int := 2 ^ 30

/-- The target count of a lane: none for NaN, and whether it saturated (11 R169). -/
def target (fmt : Nat) (e : Int) (code : Nat) : Option Int × Bool :=
  match laneValue fmt code with
  | .nan => (none, false)
  | .inf b => (some (if b then -targetMax else targetMax), true)
  | x =>
    match Val.scale x (-e) with
    | .num b n d =>
      let m := signed b (roundQuot .ne b n d)
      let c := satInt m (-targetMax) targetMax
      (some c, c != m)
    | _ => (some 0, false)

/-- The targets of a block from its delivered cells; lanes past the tensor are 0. -/
def Group.targets (g : Group) (ds : List CellData) : List (Option Int × Bool) :=
  let w := tagWidth (tFmt g.desc)
  let x := (ds.foldr (fun d a => d.toNat + 2 ^ 256 * a) 0)
  (List.range 64).map (fun i =>
    if i < g.valid then target (tFmt g.desc) (dE g.desc) ((x >>> (w * i)) % 2 ^ w) else (some 0, false))

/-- The entry of a member whose step begins. -/
def startEntry (ts : List (Option Int × Bool)) (cs : List Int) (w : WEntry) : WEntry :=
  { w with
    n := (ts.zip cs).map (fun q => q.1.1.getD q.2),
    nanMask := BitVec.ofNat 64 (packLanes 1 (ts.map (fun q => if q.1.isNone then 1 else 0))),
    nan := w.nan || ts.any (fun q => q.1.isNone), sat := w.sat || ts.any (·.2), stretch := 0, stepping := true,
    stretching := false, masks := [], heard := 0, emitted := 0 }

/-- The cycle at which the first round begins: the next one in a direct launch, the next of the grid in a windowed one
(11 R168, 22 R325). -/
def State.firstRound (s : State) (l : Launch) (g : Group) : Nat :=
  let r := Nat.max 1 (roundLen g.k l.slotLen)
  if l.record.direct || s.fc < g.t0 then (if l.record.direct then s.fc + 1 else g.t0)
  else g.t0 + ((s.fc - g.t0) / r + 1) * r

/-- The address of cell n of a group's block. -/
def Group.blockCell (g : Group) (n : Nat) : Word64 := g.blockCells.1 + BitVec.ofNat 64 (32 * n)

/-- Deliver the cells of a block to the members of a group: each checks them as a consuming lane, reports the first bad one, and
forms its targets (11 R168). -/
def State.deliver (s : State) (l : Launch) (g : Group) (cs : List Cell) : State :=
  let ms := s.presentMembers l g
  let ks := cs.map (fun c => check c.data c.code)
  let s1 := ms.foldl (fun t m => ((List.range ks.length).zip ks).foldl (fun u q =>
    u.countCheck (.tile m.tile) l.job (g.blockCell q.1) q.2) t) s
  match ks.mapM (·.data?) with
  | none => s1.groupFault l g 0x03 (faultInfo (g.blockCell (ks.findIdx (fun k => k.data?.isNone))).toNat)
  | some ds =>
    let ts := g.targets ds
    let s2 := ms.foldl (fun t m =>
      match t.counts l.job m with
      | (some cs, u) => u.modEntry m.tile g.num (startEntry ts cs)
      | (none, u) => u.elementFault (.tile m.tile) l 0x03 0 0 0 0) s1
    s2.modGroup l.id g.num (fun y =>
      { y with phase := .between, t0 := s.firstRound l g, sub := 0, rounds := 0, total := 0, breach := false, flight := [],
               sent := [], stopReq := false })

/-- What a WSTEP whose steps have begun does when it is looked at again: each step that it began has been counted as it ended, so
that no later step of a group adds to it (12 R188, R191). -/
def State.wstepEnd (s : State) (i : Instr) (gd : GReg) (l : Launch) : State :=
  match s.cur.pend with
  | none => s
  | some p =>
    if !p.left.isEmpty then s.waitFor i
    else if l.cancelled then s.cancelTrap
    else if l.hasHalted then s.retireReg gd (BitVec.allOnes 64)
    else s.retireReg gd (BitVec.ofNat 64 p.sum)

/-- The refusal of WSTEP for a group: it is not open, or in a step (12 R185). -/
def State.stepBad (s : State) (l : Launch) (g : Group) : Option Nat :=
  if !s.opened l g then some 65 else if g.phase != .idle then some 66 else none

/-- WSTEP. -/
def execWstep (gd ga : GReg) (s : State) : Out :=
  let i := Instr.wstep gd ga
  let a := s.reg ga
  .next (
    if s.stage = 1 then
      match s.launchOf s.issue.k with
      | none => s
      | some l => s.wstepEnd i gd l
    else
      s.command i (fun l =>
        match l.range a.toNat false with
        | none => s.denied a
        | some gs =>
          match gs.findSome? (fun g => s.stepBad l g) with
          | some o => s.rejected o
          | none => s.afterStores i (s.atBoundary i (fun t =>
            t.readBlocks i gs (fun t1 cs =>
              let t2 := t1.hold i false (fun p => { p with stage := 1, left := gs.map (·.num), sum := 0 })
              (gs.zip cs).foldl (fun u q => u.deliver l q.1 q.2) t2)))))

/-! ### WCLOSE and WSTAT (12 R189, R190) -/

/-- Close a group: its entries close, and a closing marker is due to each element decoder. -/
def State.closeGroup (s : State) (l : Launch) (g : Group) : State :=
  (s.modMembers (s.members l g) (fun _ w => { w with isOpen := false })).modGroup l.id g.num (fun y =>
    { y with decs := y.decs.map (fun d => if d.tile then d else { d with due := d.due ++ [none] }) })

/-- Every event and marker of a group has been accepted. -/
def Group.accepted (g : Group) : Bool := g.decs.all (fun d => d.due.isEmpty)

/-- A closed group of a WCLOSE whose markers have been enqueued. -/
def State.closeOver (s : State) (l : Launch) (g : Group) : Bool :=
  !s.groupOpen l g && ((((s.launch? l.id).getD l).groupNo g.num.toNat).getD g).accepted

/-- Close groups one after the other in increasing number, each once the markers of the one before are enqueued (12 R189). -/
def State.closeOn (s : State) (i : Instr) (l : Launch) : List Group → State
  | [] => s.retire
  | g :: rest =>
    let t := if s.groupOpen l g then s.closeGroup l g else s
    if t.closeOver l g then t.closeOn i l rest
    else t.hold i false (fun p => { p with stage := 1, left := (g :: rest).map (·.num) })

/-- The groups that a WCLOSE has still to close, and of which the first may wait for its markers. -/
def State.closeLeft (s : State) (l : Launch) : List Group :=
  ((s.cur.pend.map (fun p => p.left.filterMap (fun n => l.groupNo n.toNat))).getD []).dropWhile (fun g => s.closeOver l g)

/-- WCLOSE. -/
def execWclose (ga : GReg) (s : State) : Out :=
  let i := Instr.wclose ga
  let a := s.reg ga
  .next (s.command i (fun l =>
    if s.stage = 1 then
      match s.closeLeft l with
      | [] => s.retire
      | g :: rest =>
        if s.groupOpen l g then s.atBoundary i (fun t => t.closeOn i l (g :: rest)) else s.waitFor i
    else
      match l.range a.toNat false with
      | none => s.denied a
      | some gs =>
        if gs.any (fun g => !s.opened l g) then s.rejected 65
        else if gs.any (fun g => g.phase != .idle) then s.waitFor i
        else s.atBoundary i (fun t => t.closeOn i l gs)))

/-- The status word of a group (12 R190). -/
def State.groupStat (s : State) (l : Launch) (g : Group) : Nat :=
  if !g.everOpen then 0
  else match (s.members l g).filter (fun m => s.works m && !m.ent.selfAbsent) with
    | [] => 1
    | m :: _ =>
      let w := m.ent
      w.steps.toNat * 2 ^ 48 + w.absent.toNat * 2 ^ 40 + w.lost.toNat * 2 ^ 32 + w.stretch.toNat * 2 ^ 24 +
        w.breaches.toNat * 256 + (if w.isOpen then 128 else 0) + w.flags

/-- WSTAT. -/
def execWstat (gd ga : GReg) (s : State) : Out :=
  let a := s.reg ga
  .next (
    match s.launchOf s.issue.k with
    | none => s.denied (tvalWord (.wstat gd ga))
    | some l =>
      if s.refusesCommand then s.cancelTrap
      else match l.range a.toNat true with
        | some (g :: _) => s.retireReg gd (BitVec.ofNat 64 (s.groupStat l g))
        | _ => s.denied a)

/-! ### Rounds (11 R170, R171) -/

/-- The launch of a group that may move: it runs, or its group only ends a round that a halt or cancel found begun (12
R188). -/
def State.watchLive (s : State) (l n : Nat) : Option (Launch × Group) :=
  match s.launch? l with
  | none => none
  | some x =>
    match x.group n with
    | none => none
    | some g =>
      if s.dv.frozen || x.stage != .placed then none
      else if x.live s.fc || (g.stopReq && g.phase == .round) then some (x, g) else none

/-- The mask of each weight index, from N and c (11 R170). -/
def decide64 (k b : Nat) (w : List (BitVec 16)) (lost : BitVec 8) (n c : List Int) : List (BitVec 64) :=
  let best (e : Int) : Option Nat :=
    if e.natAbs ≤ b then none
    else (List.range k).foldl (fun o j =>
      let r := (e - (w.getD j 0).toInt).natAbs
      if !lost.getLsbD j && r < e.natAbs && (match o with
          | none => true
          | some q => r < (e - (w.getD q 0).toInt).natAbs) then some j else o) none
  let picks := (n.zip c).map (fun q => best (q.1 - q.2))
  (List.range k).map (fun j => BitVec.ofNat 64 (packLanes 1 (picks.map (fun p => if p == some j then 1 else 0))))

/-- Every lane of a member is within the bound, or is NaN. -/
def WEntry.inbound (w : WEntry) (c : List Int) : Bool :=
  ((List.range 64).zip (w.n.zip c)).all (fun q => (q.2.1 - q.2.2).natAbs ≤ w.b || w.nanMask.getLsbD q.1)

/-- Whether the lanes of a group are within the bound, as its lowest-ranked present member has them. -/
def State.groupInbound (s : State) (l : Launch) (g : Group) : Bool :=
  match s.presentMembers l g with
  | [] => true
  | m :: _ => match (s.counts l.job m).1 with
    | some c => m.ent.inbound c
    | none => false

/-- The step may end now: its budget of rounds is over, every lane is within the bound and every decoder has accepted its
events (11 R177). -/
def State.stepOver (s : State) (l : Launch) (g : Group) : Bool :=
  dRounds g.desc ≤ g.rounds && g.accepted && (g.phase == .ending || (g.phase == .between && s.groupInbound l g))

/-- ROUND_START: round b + 1 begins; every present member forms its masks. -/
def execRoundStart (l g : Nat) (s : State) : Out :=
  match s.watchLive l g with
  | none => .next s
  | some (x, y) =>
    if y.phase != .between || y.stopReq || s.fc < y.t0 || s.stepOver x y then .next s
    else
      let stretch := dRounds y.desc ≤ y.rounds
      let s1 := (s.presentMembers x y).foldl (fun t m =>
        match t.counts x.job m with
        | (none, u) => u.elementFault (.tile m.tile) x 0x03 0 0 0 0
        | (some c, u) => u.modEntry m.tile y.num (fun w =>
          { w with masks := decide64 w.k w.b w.w w.lost w.n c, heard := 0, emitted := 0,
                   stretch := if stretch then w.stretch + 1 else w.stretch, stretching := w.stretching || stretch })) s
      .next (s1.modGroup l y.num (fun z => { z with phase := .round, sub := 0, flight := [], sent := [] }))

/-- A member is due to emit in the subslot: its mask is not empty, and, as a partner, it judged the owner's subslot
empty. -/
def WEntry.mustEmit (w : WEntry) (sub : Nat) : Bool :=
  w.masks.getD (sub / 2) 0 != 0 && (sub % 2 == 0 || !w.heard.getLsbD (sub - 1))

/-- The packet of a member for weight index k (11 R175). -/
def WEntry.packet (w : WEntry) (k : Nat) (proxy : Bool) : BitVec 128 :=
  let hi := (w.masks.getD k 0).toNat * 2 ^ 64 + w.group.toNat * 2 ^ 50 + w.round % 1024 * 2 ^ 40 + k * 2 ^ 37 +
    (if proxy then 2 ^ 36 else 0) + w.step % 16 * 2 ^ 32
  let p : BitVec 128 := BitVec.ofNat 128 hi
  p ||| (packetCrc p).zeroExtend 128

/-- SUBSLOT_EMIT: in the first cycle of the subslot, and in no other, its sender emits. -/
def execSubslotEmit (l g : Nat) (s : State) : Out :=
  match s.watchLive l g with
  | none => .next s
  | some (x, y) =>
    let ms := s.presentMembers x y
    match ms.find? (fun m => m.rank == y.sender y.sub) with
    | none => .next s
    | some m =>
      if y.phase != .round || 2 * y.k ≤ y.sub || s.fc ≠ y.t0 + y.sub * x.slotLen || !m.ent.mustEmit y.sub ||
          m.ent.emitted.getLsbD y.sub then .next s
      else
        let p := m.ent.packet (y.sub / 2) (y.sub % 2 == 1)
        let bit : BitVec 16 := BitVec.ofNat 16 (2 ^ y.sub)
        let s1 := s.modEntry m.tile y.num (fun w => { w with emitted := w.emitted ||| bit, heard := w.heard ||| bit })
        let v : Event := { packet := p, sub := y.sub, round := m.ent.round, step := m.ent.step }
        .next (s1.modGroup l y.num (fun z =>
          { z with flight := z.flight ++ ((ms.filter (fun q => q.rank != m.rank)).map (fun q => (q.rank, p))),
                   sent := z.sent ++ [v] }))

/-- A packet passes the checks of a receiver that counts group, round, step and subslot itself (11 R176). -/
def packetFits (p : BitVec 128) (num : BitVec 14) (round step sub : Nat) : Bool :=
  packetOk p && bits p.toNat 8 24 == 0 && bits p.toNat 50 14 == num.toNat && bits p.toNat 40 10 == round % 1024 &&
  bits p.toNat 32 4 == step % 16 && bits p.toNat 37 3 == sub / 2 && p.getLsbD 36 == (sub % 2 == 1)

/-- A member takes the packet: it is the one its own masks give for the subslot (11 R176). -/
def WEntry.packetFits (w : WEntry) (sub : Nat) (p : BitVec 128) : Bool :=
  Machine.packetFits p w.group w.round w.step sub && p.extractLsb' 64 64 == w.masks.getD (sub / 2) 0

/-- A packet reaches the member of rank r. -/
def State.receive (s : State) (x : Launch) (y : Group) (r : Nat) (p : BitVec 128) : State :=
  match (s.presentMembers x y).find? (fun m => m.rank == r) with
  | none => s
  | some m =>
    if m.ent.packetFits y.sub p then
      s.modEntry m.tile y.num (fun w => { w with heard := w.heard ||| BitVec.ofNat 16 (2 ^ y.sub) })
    else s.elementFault (.tile m.tile) x 0x0C 0 0 0 0

/-- EVENT_PACKET_RECEIVE: the packet on its way to the member of rank r arrives and is checked. -/
def execEventPacketReceive (l g r : Nat) (s : State) : Out :=
  match s.watchLive l g with
  | none => .next s
  | some (x, y) =>
    match y.flight.find? (fun q => q.1 == r) with
    | none => .next s
    | some q => .next ((s.modGroup l y.num (fun z => { z with flight := z.flight.erase q })).receive x y r q.2)

/-- What a present member concludes from subslot `sub` for itself: it was to emit and has not (11 R174). -/
def WEntry.judge (w : WEntry) (rank sender sub : Nat) : WEntry :=
  { w with selfAbsent := w.selfAbsent || (rank == sender && w.mustEmit sub && !w.emitted.getLsbD sub) }

/-- The marks of a round, from its judgements: an owner that was silent with a mask to send is absent; when its partner was
silent too, the partner is absent and the weight is lost (11 R173). -/
def WEntry.marked (w : WEntry) : WEntry :=
  (List.range w.k).foldl (fun v k =>
    if w.masks.getD k 0 == 0 || w.heard.getLsbD (2 * k) then v
    else
      let v1 := { v with absent := v.absent ||| BitVec.ofNat 8 (2 ^ k) }
      if w.heard.getLsbD (2 * k + 1) then v1
      else { v1 with absent := v1.absent ||| BitVec.ofNat 8 (2 ^ ((k + 1) % Nat.max 1 w.k)),
                     lost := v1.lost ||| BitVec.ofNat 8 (2 ^ k), degraded := true }) w

/-- SUBSLOT_JUDGE: in the last cycle of the subslot every present member judges it. Every packet has arrived by then (11
R171). -/
def execSubslotJudge (l g : Nat) (s : State) : Out :=
  match s.watchLive l g with
  | none => .next s
  | some (x, y) =>
    if y.phase != .round || 2 * y.k ≤ y.sub || s.fc + 1 < y.t0 + (y.sub + 1) * x.slotLen then .next s
    else
      let s1 := y.flight.foldl (fun t q => t.receive x y q.1 q.2) (s.modGroup l y.num (fun z => { z with flight := [] }))
      let ms := s1.presentMembers x y
      let s2 := s1.modMembers ms (fun m w => w.judge m.rank (y.sender y.sub) y.sub)
      .next (s2.modGroup l y.num (fun z => { z with sub := z.sub + 1 }))

/-! ### The end of a round and of a step (11 R172, R177) -/

/-- Weight index k carried an event. -/
def WEntry.carried (w : WEntry) (k : Nat) : Bool := w.heard.getLsbD (2 * k) || w.heard.getLsbD (2 * k + 1)

/-- The counts of a member after a round. -/
def WEntry.applied (w : WEntry) (c : List Int) : List Int :=
  (List.range w.k).foldl (fun cs k =>
    if w.carried k then
      ((List.range 64).zip cs).map (fun q =>
        if (w.masks.getD k 0).getLsbD q.1 then q.2 + (w.w.getD k 0).toInt else q.2)
    else cs) c

/-- The events a member applies in a round. -/
def WEntry.eventCount (w : WEntry) : Nat := ((List.range w.k).filter (fun k => w.carried k)).length

/-- Every present member applies the round and takes its marks, so that a register read between two round ends shows the
state of the last one (12 R190, R195). -/
def State.applyRound (s : State) (x : Launch) (y : Group) : State :=
  (s.presentMembers x y).foldl (fun t m =>
    match t.counts x.job m with
    | (none, u) => u.elementFault (.tile m.tile) x 0x03 0 0 0 0
    | (some c, u) =>
      (u.writeCounts m (m.ent.applied c) none).modEntry m.tile y.num (fun w =>
        { w.marked with round := w.round + 1, events := w.events + BitVec.ofNat 32 m.ent.eventCount })) s

/-- The lanes of a group that are out of bound. -/
def State.outLanes (s : State) (x : Launch) (y : Group) : Nat :=
  match s.presentMembers x y with
  | [] => 0
  | m :: _ => match (s.counts x.job m).1 with
    | some c => (((List.range 64).zip (m.ent.n.zip c)).filter (fun q =>
        !((q.2.1 - q.2.2).natAbs ≤ m.ent.b || m.ent.nanMask.getLsbD q.1))).length
    | none => 0

/-- Lanes still out of bound at the end of the last round breach: they are counted, and recorded once for the step, by the lowest
of the units that detect it (11 R177, 22 R323; log 49). -/
def State.breach (s : State) (x : Launch) (y : Group) : State :=
  let n := s.outLanes x y
  if n = 0 then s
  else
    let ms := s.presentMembers x y
    let s1 := s.modMembers ms (fun _ w => { w with breaches := satAdd w.breaches n })
    let u := UnitRef.tile (((s1.lowestMember x y).map (·.tile)).getD 0)
    let s2 := s1.trubAdd u.die 7 u.abs x.job 0x0D (BitVec.ofNat 64 y.num.toNat)
    let s3 := s2.modGroup x.id y.num (fun z => { z with breach := true })
    if dPolicy y.desc then s3 else s3.modLaunch x.id (fun z => { z with status := z.status ||| 64 })

/-- ROUND_APPLY: after the last judgement the round's events are applied and become due to the decoders, and the group
decides how its step goes on. -/
def execRoundApply (l g : Nat) (s : State) : Out :=
  match s.watchLive l g with
  | none => .next s
  | some (x, y) =>
    if y.phase != .round || y.sub < 2 * y.k then .next s
    else
      let n := ((s.presentMembers x y).map (fun m => m.ent.eventCount)).headD 0
      let last := dRounds y.desc + dStretch y.desc ≤ y.rounds + 1
      let s0 := s.applyRound x y
      let s2 := if (s0.members x y).any (fun m => m.ent.degraded) then
          s0.modLaunch l (fun z => { z with status := z.status ||| 4 }) else s0
      let s1 := s2.modGroup l y.num (fun z =>
        { z with rounds := z.rounds + 1, total := z.total + n, t0 := z.t0 + roundLen z.k x.slotLen, sub := 0, flight := [],
                 sent := [], decs := z.decs.map (fun d => { d with due := d.due ++ y.sent.map some }),
                 phase := if z.stopReq then .idle else if last then .ending else .between })
      .next (
        if y.stopReq then (s1.unstep x y.num).stepEnded x y.num (y.total + n)
        else if last then s1.breach x y else s1)

/-- STEP_END: the step ends once its decoders have accepted its events; under POLICY 1 a breach faults the launch. -/
def execStepEnd (l g : Nat) (s : State) : Out :=
  match s.watchLive l g with
  | none => .next s
  | some (x, y) =>
    if !s.stepOver x y || y.stopReq then .next s
    else
      let ms := s.presentMembers x y
      let s0 := (s.modMembers ms (fun _ w =>
        { w with step := w.step + 1, steps := w.steps + 1, stepping := false, stretching := false,
                 breached := y.breach })).modGroup l y.num (fun z => { z with phase := .idle })
      let s1 := s0.stepEnded x y.num y.total
      .next (if y.breach && dPolicy y.desc then s1.groupFault x y 0x0D 0 else s1)

/-! ### Decoders (11 R176, R178) -/

/-- The token of an event or of the closing marker at an element decoder. -/
def eventToken (d : Dec) (ver : BitVec 4) (p : Option Event) : Token :=
  match p with
  | some q => { data := q.packet.zeroExtend 512, code0 := 0, code1 := 0, tag := 13, bank := d.bank, fin := false, ver := ver,
                sw := false }
  | none => markerToken 13 d.bank ver

/-- A decoding area after an event: W[k]·q is added to every lane of the mask (11 R178). -/
def decodeLanes (desc : Line) (p : BitVec 128) (xs : List Nat) : List Nat :=
  let w := Val.scale (Val.ofInt (dW desc (bits p.toNat 37 3)).toInt) (dE desc)
  ((List.range 64).zip xs).map (fun q =>
    if p.getLsbD (64 + q.1) then FloatFmt.f32.ne ((FloatFmt.f32.value q.2).add w) else q.2)

/-- The next thing due to decoder d has been accepted. -/
def State.dueDone (s : State) (l : Nat) (num : BitVec 14) (d : Nat) : State :=
  s.modGroup l num (fun z => { z with decs := z.decs.modify d (fun q => { q with due := q.due.drop 1 }) })

/-- What the window of a launch holds for the area of a tile decoder: its latest write. -/
def Launch.heldArea (x : Launch) (t off : Nat) : Option (List CellData) :=
  match x.window with
  | none => none
  | some w => w.held.foldl (fun o h => match h with
      | .area u a ds => if u == t && a == off then some ds else o
      | _ => o) none

/-- The cells of a tile decoder's area: those it wrote in the open window, or those of the tile, whose codes it checks (11 R178,
R182). -/
def State.areaCells (s : State) (x : Launch) (t off : Nat) : Option (List CellData) × State :=
  match x.heldArea t off with
  | some ds => (some ds, s)
  | none => s.watchCells x.job t off 8

/-- A tile decoder takes an event: it updates its area at once, or in a windowed launch holds the write with the window's other
effects (11 R178, R182). -/
def State.tileDecode (s : State) (x : Launch) (y : Group) (d t : Nat) (q : Dec) (p : BitVec 128) : State :=
  match s.areaCells x t q.off with
  | (none, s1) => s1.elementFault (.tile t) x 0x03 0 0 0 0
  | (some ds, s1) =>
    let xs := decodeLanes y.desc p (words32 ds)
    let s2 := if x.window.isNone then s1.writeWords t q.off xs (some 2)
      else s1.holdEffect x.id (.area t q.off ((List.range 8).map (fun j => cell32 ((xs.drop (8 * j)).take 8))))
    s2.dueDone x.id y.num d

/-- A decoder port takes the event: it is one of its group, at the round, step and subslot that the port counts (11 R176). -/
def Event.fits (v : Event) (num : BitVec 14) : Bool := packetFits v.packet num v.round v.step v.sub

/-- DECODER_ENQUEUE: decoder d of the group takes what is due to it first: a packet is checked; an element's port enqueues its
token when the channel has room, a tile decoder updates its values. -/
def execDecoderEnqueue (l g d : Nat) (s : State) : Out :=
  match s.launch? l with
  | none => .next s
  | some x =>
    match x.group g with
    | none => .next s
    | some y =>
      if s.dv.frozen || !x.live s.fc then .next s
      else
        match y.decs[d]? with
        | none => .next s
        | some q =>
          match q.due, x.unit? q.unit.toNat with
          | [], _ => .next s
          | p :: _, some (.element e) =>
            if (match p with
                | some b => !b.fits y.num
                | none => false) then .next (s.elementFault (.element e) x 0x0C 0 0 0 0)
            else if !s.inputRoom e q.port then .next s
            else
              let v := s.element e
              let c := v.inp q.port
              .next ((s.setElement e (v.setInp q.port { c with wire := c.wire ++ [eventToken q x.ver p] })).dueDone l y.num d)
          | some b :: _, some (.tile t) =>
            if !b.fits y.num then .next (s.elementFault (.tile t) x 0x0C 0 0 0 0)
            else .next (s.tileDecode x y d t q b.packet)
          | _ :: _, _ => .next (s.dueDone l y.num d)

end Sys2Proof.Machine
end

