-- ==== Sys2Proof/Machine/Sequencer.lean ====
section
/-! DEFINITION. A strand's instruction run again: pairs (04 R62, R63), the end of a wait (06 R86), and the re-examination of
an access that was woken or stands unlisted (16 R232, R234). -/

namespace Sys2Proof.Machine

/-- The meaning of a sequencer word that is no prefix. -/
def runWord (i : Instr) (s : State) : Out :=
  match i with
  | .add gd ga gb => execAdd gd ga gb s
  | .sub gd ga gb => execSub gd ga gb s
  | .mul gd ga gb => execMul gd ga gb s
  | .mulh gd ga gb => execMulh gd ga gb s
  | .mulhu gd ga gb => execMulhu gd ga gb s
  | .div gd ga gb => execDiv gd ga gb s
  | .divu gd ga gb => execDivu gd ga gb s
  | .rem gd ga gb => execRem gd ga gb s
  | .remu gd ga gb => execRemu gd ga gb s
  | .and gd ga gb => execAnd gd ga gb s
  | .or gd ga gb => execOr gd ga gb s
  | .xor gd ga gb => execXor gd ga gb s
  | .shl gd ga gb => execShl gd ga gb s
  | .shr gd ga gb => execShr gd ga gb s
  | .sar gd ga gb => execSar gd ga gb s
  | .clz gd ga => execClz gd ga s
  | .ctz gd ga => execCtz gd ga s
  | .popc gd ga => execPopc gd ga s
  | .min gd ga gb => execMin gd ga gb s
  | .max gd ga gb => execMax gd ga gb s
  | .minu gd ga gb => execMinu gd ga gb s
  | .maxu gd ga gb => execMaxu gd ga gb s
  | .slt gd ga gb => execSlt gd ga gb s
  | .sltu gd ga gb => execSltu gd ga gb s
  | .addI gd ga imm => execAddI gd ga imm s
  | .mulI gd ga imm => execMulI gd ga imm s
  | .andI gd ga imm => execAndI gd ga imm s
  | .orI gd ga imm => execOrI gd ga imm s
  | .xorI gd ga imm => execXorI gd ga imm s
  | .shlI gd ga c => execShlI gd ga c s
  | .shrI gd ga c => execShrI gd ga c s
  | .sarI gd ga c => execSarI gd ga c s
  | .minI gd ga imm => execMinI gd ga imm s
  | .maxI gd ga imm => execMaxI gd ga imm s
  | .sltI gd ga imm => execSltI gd ga imm s
  | .sltuI gd ga imm => execSltuI gd ga imm s
  | .lih gd ga imm => execLih gd ga imm s
  | .jalr gd ga imm => execJalr gd ga imm s
  | .mfc gd num => execMfc gd num s
  | .mtc ga num => execMtc ga num s
  | .j off => execJ off s
  | .jal off => execJal off s
  | .beq ga gb off => execBeq ga gb off s
  | .bne ga gb off => execBne ga gb off s
  | .blt ga gb off => execBlt ga gb off s
  | .bge ga gb off => execBge ga gb off s
  | .bltu ga gb off => execBltu ga gb off s
  | .bgeu ga gb off => execBgeu ga gb off s
  | .trap code => execTrap code s
  | .svc code => execSvc code s
  | .ld size gd ga disp => execLd size gd ga disp s
  | .ldW size gd ga disp => execLdW size gd ga disp s
  | .ldC size gd ga disp => execLdC size gd ga disp s
  | .st size gd ga disp => execSt size gd ga disp s
  | .stF size gd ga disp => execStF size gd ga disp s
  | .stX size gd ga disp => execStX size gd ga disp s
  | .feget gd ga disp => execFeget gd ga disp s
  | .feset gd ga disp => execFeset gd ga disp s
  | .prefL2 ga disp => execPrefL2 ga disp s
  | .prefL1 ga disp => execPrefL1 ga disp s
  | .amoAdd dbl gd ga gb => execAmoAdd dbl gd ga gb s
  | .amoAnd dbl gd ga gb => execAmoAnd dbl gd ga gb s
  | .amoOr dbl gd ga gb => execAmoOr dbl gd ga gb s
  | .amoXor dbl gd ga gb => execAmoXor dbl gd ga gb s
  | .amoMin dbl gd ga gb => execAmoMin dbl gd ga gb s
  | .amoMax dbl gd ga gb => execAmoMax dbl gd ga gb s
  | .amoMinu dbl gd ga gb => execAmoMinu dbl gd ga gb s
  | .amoMaxu dbl gd ga gb => execAmoMaxu dbl gd ga gb s
  | .amoSwap dbl gd ga gb => execAmoSwap dbl gd ga gb s
  | .amoFadd dbl gd ga gb => execAmoFadd dbl gd ga gb s
  | .cas dbl gd ga gb gc => execCas dbl gd ga gb gc s
  | .samoF32 ga gb gc => execSamoF32 ga gb gc s
  | .samoF64 ga gb gc => execSamoF64 ga gb gc s
  | .samoI64 ga gb gc => execSamoI64 ga gb gc s
  | .fence => execFence s
  | .fenceEng => execFenceEng s
  | .flush ga gb => execFlush ga gb s
  | .discard ga => execDiscard ga s
  | .bcopy gd ga gb gc => execBcopy gd ga gb gc s
  | .confLoad ga => execConfLoad ga s
  | .confSwitch ga => execConfSwitch ga s
  | .confWait gd => execConfWait gd s
  | .sparge => execSparge s
  | .sbind ga gb => execSbind ga gb s
  | .scopy ga gb => execScopy ga gb s
  | .smcast ga gb gc => execSmcast ga gb gc s
  | .permLoad ga gb => execPermLoad ga gb s
  | .tdesc ga => execTdesc ga s
  | .wopen ga => execWopen ga s
  | .wstep gd ga => execWstep gd ga s
  | .wclose ga => execWclose ga s
  | .wstat gd ga => execWstat gd ga s
  | .launch ga => execLaunch ga s
  | .graphReplay gd ga gb => execGraphReplay gd ga gb s
  | .cancel ga => execCancel ga s
  | .cancelE ga => execCancelE ga s
  | .fork ga gb gc => execFork ga gb gc s
  | .join gd ga => execJoin gd ga s
  | .steal gd => execSteal gd s
  | .yield => execYield s
  | .exit => execExit s
  | .rett => execRett s
  | .ctxsave gd ga gb => execCtxsave gd ga gb s
  | .ctxload ga gb => execCtxload ga gb s
  | .tlbinv ga gb => execTlbinv ga gb s
  | _ => .next s

/-! ### Pairs (04 R62, R63) -/

/-- XI_PREFIX and the word after it: the pair is legal, and its word runs with the prefix's bits, or the trap records the
word after the prefix. -/
def execXiPrefix (hi : BitVec 26) (w : Word32) (s : State) : Out :=
  let s1 := s.setIssue { s.issue with hi := some hi }
  match (if pairOk hi w then (decodeWord w).toOption else none) with
  | some i => runWord i s1
  | none => .next (s1.illegal (w.zeroExtend 64))

/-! ### Waits -/

/-- Run the instruction in flight of strand k again. -/
def State.rerun (s : State) (k : Nat) (p : Pend) (exam : Bool) : Out :=
  runWord p.instr (s.setIssue { k := k, hi := p.hi, exam := exam })

/-- The access stands in a wait table or a park record, or has not been looked at again in 256 sc. -/
def Place.held : Place → Bool
  | .table _ | .listed _ | .unlisted _ => true
  | _ => false

/-- STRAND_INSTRUCTION_COMPLETE: the instruction in flight of a waiting strand is looked at again; it completes when its
condition holds, and waits on when it does not. -/
def execStrandInstructionComplete (k : Nat) (s : State) : Out :=
  let x := s.strand k
  match x.pend with
  | none => .next s
  | some p =>
    if (x.mode == .waiting || (x.mode == .parked && p.place == .none)) && !p.place.held then s.rerun k p (p.place != .none)
    else .next s

/-- One unit of a strand's budget is spent. -/
def State.spendRetry (s : State) (k : Nat) : State :=
  let x := s.strand k
  s.setStrand k { x with retry := x.retry - (if x.retry = 0 then 0 else 1) }

/-- The access of strand k is examined again. -/
def State.examStrand (s : State) (k : Nat) : Out :=
  match (s.strand k).pend with
  | none => .next s
  | some p => (s.spendRetry k).rerun k p true

/-- The cell of engine command id of port p is examined again, and the command goes on if it performs. -/
def State.examEngine (s : State) (p id : Nat) : State :=
  match s.liveAt (p / 3), s.cmd? p id with
  | some l, some c => if crHist c.record then s.histMove l p c true else s.copyStep l p c true
  | _, _ => s

/-- ACCESS_REEXAMINE: a woken access is reissued and examined at its slice (16 R231, R232); and a host write that waits for its
page or for a merged transfer is looked at again (18 R271, 23 R336). -/
def execAccessReexamine (u : Waiter) (s : State) : Out :=
  match s.placeOf u with
  | .woken _ =>
    match u with
    | .strand k => if (s.strand k).mode == .parked then s.examStrand k else .next s
    | .engine p id => .next (s.examEngine p id)
    | .host f n => .next (s.waitExamine f n)
    | .fill f => .next (s.hostRetry f)
  | .none => match u with
    | .fill f => .next (s.hostRetry f)
    | _ => .next s
  | _ => .next s

/-- UNLISTED_REEXAMINE: an access without a record is examined again by its slice, 256 sc after the last time (16 R234). A
command that waits on its tile waits for a write there. -/
def execUnlistedReexamine (u : Waiter) (s : State) : Out :=
  match s.placeOf u with
  | .unlisted t =>
    if s.fc < t + 512 then .next s
    else match u with
      | .strand k => s.examStrand k
      | .engine p id =>
        match s.cmd? p id with
        | some c => .next (if crDir c.record then s else s.examEngine p id)
        | none => .next s
      | .host f n => .next (s.waitExamine f n)
      | .fill f => .next (s.hostRetry f)
  | _ => .next s

/-- The instruction is a SAMO. -/
def isSamo : Instr → Bool
  | .samoF32 _ _ _ | .samoF64 _ _ _ | .samoI64 _ _ _ => true
  | _ => false

/-- SAMO_CONTRIBUTION: a contribution that waits for a table entry, for buffer room or for another condition is taken by
its slice as soon as it can be (17 R256, R257). -/
def execSamoContribution (k : Nat) (s : State) : Out :=
  match (s.strand k).pend with
  | none => .next s
  | some p =>
    if !isSamo p.instr then .next s
    else match p.place with
      | .none => s.rerun k p false
      | .woken _ => s.examStrand k
      | _ => .next s

end Sys2Proof.Machine
end

