-- ==== Sys2Proof/Machine/Dispatch.lean ====
section
/-! DEFINITION. The dispatch: one arm per instruction, one direct call of its meaning. -/

namespace Sys2Proof.Machine

/-- The meaning of an instruction. -/
def exec (i : Instr) (s : State) : Host.Outcome State Fault Refusal :=
  match i with
  | .add gd ga gb => Sys2Proof.Machine.execAdd gd ga gb s
  | .sub gd ga gb => Sys2Proof.Machine.execSub gd ga gb s
  | .mul gd ga gb => Sys2Proof.Machine.execMul gd ga gb s
  | .mulh gd ga gb => Sys2Proof.Machine.execMulh gd ga gb s
  | .mulhu gd ga gb => Sys2Proof.Machine.execMulhu gd ga gb s
  | .div gd ga gb => Sys2Proof.Machine.execDiv gd ga gb s
  | .divu gd ga gb => Sys2Proof.Machine.execDivu gd ga gb s
  | .rem gd ga gb => Sys2Proof.Machine.execRem gd ga gb s
  | .remu gd ga gb => Sys2Proof.Machine.execRemu gd ga gb s
  | .and gd ga gb => Sys2Proof.Machine.execAnd gd ga gb s
  | .or gd ga gb => Sys2Proof.Machine.execOr gd ga gb s
  | .xor gd ga gb => Sys2Proof.Machine.execXor gd ga gb s
  | .shl gd ga gb => Sys2Proof.Machine.execShl gd ga gb s
  | .shr gd ga gb => Sys2Proof.Machine.execShr gd ga gb s
  | .sar gd ga gb => Sys2Proof.Machine.execSar gd ga gb s
  | .clz gd ga => Sys2Proof.Machine.execClz gd ga s
  | .ctz gd ga => Sys2Proof.Machine.execCtz gd ga s
  | .popc gd ga => Sys2Proof.Machine.execPopc gd ga s
  | .min gd ga gb => Sys2Proof.Machine.execMin gd ga gb s
  | .max gd ga gb => Sys2Proof.Machine.execMax gd ga gb s
  | .minu gd ga gb => Sys2Proof.Machine.execMinu gd ga gb s
  | .maxu gd ga gb => Sys2Proof.Machine.execMaxu gd ga gb s
  | .slt gd ga gb => Sys2Proof.Machine.execSlt gd ga gb s
  | .sltu gd ga gb => Sys2Proof.Machine.execSltu gd ga gb s
  | .addI gd ga imm => Sys2Proof.Machine.execAddI gd ga imm s
  | .mulI gd ga imm => Sys2Proof.Machine.execMulI gd ga imm s
  | .andI gd ga imm => Sys2Proof.Machine.execAndI gd ga imm s
  | .orI gd ga imm => Sys2Proof.Machine.execOrI gd ga imm s
  | .xorI gd ga imm => Sys2Proof.Machine.execXorI gd ga imm s
  | .shlI gd ga c => Sys2Proof.Machine.execShlI gd ga c s
  | .shrI gd ga c => Sys2Proof.Machine.execShrI gd ga c s
  | .sarI gd ga c => Sys2Proof.Machine.execSarI gd ga c s
  | .minI gd ga imm => Sys2Proof.Machine.execMinI gd ga imm s
  | .maxI gd ga imm => Sys2Proof.Machine.execMaxI gd ga imm s
  | .sltI gd ga imm => Sys2Proof.Machine.execSltI gd ga imm s
  | .sltuI gd ga imm => Sys2Proof.Machine.execSltuI gd ga imm s
  | .lih gd ga imm => Sys2Proof.Machine.execLih gd ga imm s
  | .jalr gd ga imm => Sys2Proof.Machine.execJalr gd ga imm s
  | .mfc gd num => Sys2Proof.Machine.execMfc gd num s
  | .mtc ga num => Sys2Proof.Machine.execMtc ga num s
  | .j off => Sys2Proof.Machine.execJ off s
  | .jal off => Sys2Proof.Machine.execJal off s
  | .beq ga gb off => Sys2Proof.Machine.execBeq ga gb off s
  | .bne ga gb off => Sys2Proof.Machine.execBne ga gb off s
  | .blt ga gb off => Sys2Proof.Machine.execBlt ga gb off s
  | .bge ga gb off => Sys2Proof.Machine.execBge ga gb off s
  | .bltu ga gb off => Sys2Proof.Machine.execBltu ga gb off s
  | .bgeu ga gb off => Sys2Proof.Machine.execBgeu ga gb off s
  | .trap code => Sys2Proof.Machine.execTrap code s
  | .svc code => Sys2Proof.Machine.execSvc code s
  | .xiPrefix hi w => Sys2Proof.Machine.execXiPrefix hi w s
  | .ld size gd ga disp => Sys2Proof.Machine.execLd size gd ga disp s
  | .ldW size gd ga disp => Sys2Proof.Machine.execLdW size gd ga disp s
  | .ldC size gd ga disp => Sys2Proof.Machine.execLdC size gd ga disp s
  | .st size gd ga disp => Sys2Proof.Machine.execSt size gd ga disp s
  | .stF size gd ga disp => Sys2Proof.Machine.execStF size gd ga disp s
  | .stX size gd ga disp => Sys2Proof.Machine.execStX size gd ga disp s
  | .feget gd ga disp => Sys2Proof.Machine.execFeget gd ga disp s
  | .feset gd ga disp => Sys2Proof.Machine.execFeset gd ga disp s
  | .prefL2 ga disp => Sys2Proof.Machine.execPrefL2 ga disp s
  | .prefL1 ga disp => Sys2Proof.Machine.execPrefL1 ga disp s
  | .amoAdd dbl gd ga gb => Sys2Proof.Machine.execAmoAdd dbl gd ga gb s
  | .amoAnd dbl gd ga gb => Sys2Proof.Machine.execAmoAnd dbl gd ga gb s
  | .amoOr dbl gd ga gb => Sys2Proof.Machine.execAmoOr dbl gd ga gb s
  | .amoXor dbl gd ga gb => Sys2Proof.Machine.execAmoXor dbl gd ga gb s
  | .amoMin dbl gd ga gb => Sys2Proof.Machine.execAmoMin dbl gd ga gb s
  | .amoMax dbl gd ga gb => Sys2Proof.Machine.execAmoMax dbl gd ga gb s
  | .amoMinu dbl gd ga gb => Sys2Proof.Machine.execAmoMinu dbl gd ga gb s
  | .amoMaxu dbl gd ga gb => Sys2Proof.Machine.execAmoMaxu dbl gd ga gb s
  | .amoSwap dbl gd ga gb => Sys2Proof.Machine.execAmoSwap dbl gd ga gb s
  | .amoFadd dbl gd ga gb => Sys2Proof.Machine.execAmoFadd dbl gd ga gb s
  | .cas dbl gd ga gb gc => Sys2Proof.Machine.execCas dbl gd ga gb gc s
  | .samoF32 ga gb gc => Sys2Proof.Machine.execSamoF32 ga gb gc s
  | .samoF64 ga gb gc => Sys2Proof.Machine.execSamoF64 ga gb gc s
  | .samoI64 ga gb gc => Sys2Proof.Machine.execSamoI64 ga gb gc s
  | .fence => Sys2Proof.Machine.execFence s
  | .fenceEng => Sys2Proof.Machine.execFenceEng s
  | .flush ga gb => Sys2Proof.Machine.execFlush ga gb s
  | .discard ga => Sys2Proof.Machine.execDiscard ga s
  | .bcopy gd ga gb gc => Sys2Proof.Machine.execBcopy gd ga gb gc s
  | .confLoad ga => Sys2Proof.Machine.execConfLoad ga s
  | .confSwitch ga => Sys2Proof.Machine.execConfSwitch ga s
  | .confWait gd => Sys2Proof.Machine.execConfWait gd s
  | .sparge => Sys2Proof.Machine.execSparge s
  | .sbind ga gb => Sys2Proof.Machine.execSbind ga gb s
  | .scopy ga gb => Sys2Proof.Machine.execScopy ga gb s
  | .smcast ga gb gc => Sys2Proof.Machine.execSmcast ga gb gc s
  | .permLoad ga gb => Sys2Proof.Machine.execPermLoad ga gb s
  | .tdesc ga => Sys2Proof.Machine.execTdesc ga s
  | .wopen ga => Sys2Proof.Machine.execWopen ga s
  | .wstep gd ga => Sys2Proof.Machine.execWstep gd ga s
  | .wclose ga => Sys2Proof.Machine.execWclose ga s
  | .wstat gd ga => Sys2Proof.Machine.execWstat gd ga s
  | .launch ga => Sys2Proof.Machine.execLaunch ga s
  | .graphReplay gd ga gb => Sys2Proof.Machine.execGraphReplay gd ga gb s
  | .cancel ga => Sys2Proof.Machine.execCancel ga s
  | .cancelE ga => Sys2Proof.Machine.execCancelE ga s
  | .fork ga gb gc => Sys2Proof.Machine.execFork ga gb gc s
  | .join gd ga => Sys2Proof.Machine.execJoin gd ga s
  | .steal gd => Sys2Proof.Machine.execSteal gd s
  | .yield => Sys2Proof.Machine.execYield s
  | .exit => Sys2Proof.Machine.execExit s
  | .rett => Sys2Proof.Machine.execRett s
  | .ctxsave gd ga gb => Sys2Proof.Machine.execCtxsave gd ga gb s
  | .ctxload ga gb => Sys2Proof.Machine.execCtxload ga gb s
  | .tlbinv ga gb => Sys2Proof.Machine.execTlbinv ga gb s
  | .strandInstructionComplete k => Sys2Proof.Machine.execStrandInstructionComplete k s
  | .vadd f x => Sys2Proof.Machine.execVadd f x s
  | .vsub f x => Sys2Proof.Machine.execVsub f x s
  | .vmul f x => Sys2Proof.Machine.execVmul f x s
  | .vmin f x => Sys2Proof.Machine.execVmin f x s
  | .vmax f x => Sys2Proof.Machine.execVmax f x s
  | .vabs f x => Sys2Proof.Machine.execVabs f x s
  | .vneg f x => Sys2Proof.Machine.execVneg f x s
  | .fma f x => Sys2Proof.Machine.execFma f x s
  | .fms f x => Sys2Proof.Machine.execFms f x s
  | .radd f x => Sys2Proof.Machine.execRadd f x s
  | .rmax f x => Sys2Proof.Machine.execRmax f x s
  | .rmin f x => Sys2Proof.Machine.execRmin f x s
  | .rmaxabs f x => Sys2Proof.Machine.execRmaxabs f x s
  | .vand f x => Sys2Proof.Machine.execVand f x s
  | .vor f x => Sys2Proof.Machine.execVor f x s
  | .vxor f x => Sys2Proof.Machine.execVxor f x s
  | .cvtNamedSource src mode x => Sys2Proof.Machine.execCvtNamedSource src mode x s
  | .cvt mode x => Sys2Proof.Machine.execCvt mode x s
  | .qnt dst x => Sys2Proof.Machine.execQnt dst x s
  | .scalex f x => Sys2Proof.Machine.execScalex f x s
  | .vshl x => Sys2Proof.Machine.execVshl x s
  | .vshr x => Sys2Proof.Machine.execVshr x s
  | .vsar x => Sys2Proof.Machine.execVsar x s
  | .fdiv dbl x => Sys2Proof.Machine.execFdiv dbl x s
  | .fsqrt dbl x => Sys2Proof.Machine.execFsqrt dbl x s
  | .rcp x => Sys2Proof.Machine.execRcp x s
  | .rsq x => Sys2Proof.Machine.execRsq x s
  | .exp2 x => Sys2Proof.Machine.execExp2 x s
  | .log2 x => Sys2Proof.Machine.execLog2 x s
  | .sinpi x => Sys2Proof.Machine.execSinpi x s
  | .cospi x => Sys2Proof.Machine.execCospi x s
  | .tanh x => Sys2Proof.Machine.execTanh x s
  | .mov x => Sys2Proof.Machine.execMov x s
  | .retag x => Sys2Proof.Machine.execRetag x s
  | .vbcast x => Sys2Proof.Machine.execVbcast x s
  | .vshuf x => Sys2Proof.Machine.execVshuf x s
  | .vsel x => Sys2Proof.Machine.execVsel x s
  | .pset x => Sys2Proof.Machine.execPset x s
  | .pcmpeq x => Sys2Proof.Machine.execPcmpeq x s
  | .pcmplt x => Sys2Proof.Machine.execPcmplt x s
  | .pcmple x => Sys2Proof.Machine.execPcmple x s
  | .ldl x => Sys2Proof.Machine.execLdl x s
  | .stl x => Sys2Proof.Machine.execStl x s
  | .nop x => Sys2Proof.Machine.execNop x s
  | .efault x => Sys2Proof.Machine.execEfault x s
  | .lateFiringFault e => Sys2Proof.Machine.execLateFiringFault e s
  | .evdec x => Sys2Proof.Machine.execEvdec x s
  | .evmac x => Sys2Proof.Machine.execEvmac x s
  | .mcfg x => Sys2Proof.Machine.execMcfg x s
  | .mzero x => Sys2Proof.Machine.execMzero x s
  | .mma x => Sys2Proof.Machine.execMma x s
  | .mmas x => Sys2Proof.Machine.execMmas x s
  | .mread x => Sys2Proof.Machine.execMread x s
  | .mrel x => Sys2Proof.Machine.execMrel x s
  | .mwrite x => Sys2Proof.Machine.execMwrite x s
  | .slotAgeLift e n => Sys2Proof.Machine.execSlotAgeLift e n s
  | .tokenArrive e ch => Sys2Proof.Machine.execTokenArrive e ch s
  | .outputTokenSend e ch => Sys2Proof.Machine.execOutputTokenSend e ch s
  | .planeFlip e => Sys2Proof.Machine.execPlaneFlip e s
  | .elementComplete e => Sys2Proof.Machine.execElementComplete e s
  | .generatorTransfer t g => Sys2Proof.Machine.execGeneratorTransfer t g s
  | .generatorReexamine t g => Sys2Proof.Machine.execGeneratorReexamine t g s
  | .bufferProducerClaim t b => Sys2Proof.Machine.execBufferProducerClaim t b s
  | .bufferProducerComplete t b => Sys2Proof.Machine.execBufferProducerComplete t b s
  | .bufferConsumerClaim t b => Sys2Proof.Machine.execBufferConsumerClaim t b s
  | .bufferConsumerRelease t b => Sys2Proof.Machine.execBufferConsumerRelease t b s
  | .landingWrite t g => Sys2Proof.Machine.execLandingWrite t g s
  | .copyTransfer p id => Sys2Proof.Machine.execCopyTransfer p id s
  | .copyFinish p id => Sys2Proof.Machine.execCopyFinish p id s
  | .followStartToken p id => Sys2Proof.Machine.execFollowStartToken p id s
  | .historyCompress p id => Sys2Proof.Machine.execHistoryCompress p id s
  | .homeSliceAccess k n => Sys2Proof.Machine.execHomeSliceAccess k n s
  | .accessReexamine u => Sys2Proof.Machine.execAccessReexamine u s
  | .unlistedReexamine u => Sys2Proof.Machine.execUnlistedReexamine u s
  | .l1WriteAck k n => Sys2Proof.Machine.execL1WriteAck k n s
  | .l2LineEvict h line => Sys2Proof.Machine.execL2LineEvict h line s
  | .samoContribution k => Sys2Proof.Machine.execSamoContribution k s
  | .completionDecrement => Sys2Proof.Machine.execCompletionDecrement s
  | .multicastRequest p id => Sys2Proof.Machine.execMulticastRequest p id s
  | .multicastLineSend h m => Sys2Proof.Machine.execMulticastLineSend h m s
  | .mergeWindowExpire h m => Sys2Proof.Machine.execMergeWindowExpire h m s
  | .phaseStart j => Sys2Proof.Machine.execPhaseStart j s
  | .dispatchPass => Sys2Proof.Machine.execDispatchPass s
  | .classTargetTimeout l => Sys2Proof.Machine.execClassTargetTimeout l s
  | .preempt l => Sys2Proof.Machine.execPreempt l s
  | .launchComplete l => Sys2Proof.Machine.execLaunchComplete l s
  | .taskPop k => Sys2Proof.Machine.execTaskPop k s
  | .trapRecordPost => Sys2Proof.Machine.execTrapRecordPost s
  | .windowCommit l => Sys2Proof.Machine.execWindowCommit l s
  | .windowVoid l => Sys2Proof.Machine.execWindowVoid l s
  | .windowRerun l => Sys2Proof.Machine.execWindowRerun l s
  | .governorWindow c => Sys2Proof.Machine.execGovernorWindow c s
  | .roundStart l g => Sys2Proof.Machine.execRoundStart l g s
  | .subslotEmit l g => Sys2Proof.Machine.execSubslotEmit l g s
  | .eventPacketReceive l g r => Sys2Proof.Machine.execEventPacketReceive l g r s
  | .subslotJudge l g => Sys2Proof.Machine.execSubslotJudge l g s
  | .roundApply l g => Sys2Proof.Machine.execRoundApply l g s
  | .stepEnd l g => Sys2Proof.Machine.execStepEnd l g s
  | .decoderEnqueue l g d => Sys2Proof.Machine.execDecoderEnqueue l g d s
  | .sqResumeResume k v => Sys2Proof.Machine.execSqResumeResume k v s
  | .sqResumeEnd k v => Sys2Proof.Machine.execSqResumeEnd k v s
  | .sqResumeDeliver k v => Sys2Proof.Machine.execSqResumeDeliver k v s
  | .clPresentWrite c v => Sys2Proof.Machine.execClPresentWrite c v s
  | .clIssuebudgetWrite c v => Sys2Proof.Machine.execClIssuebudgetWrite c v s
  | .dvAccgenWrite v => Sys2Proof.Machine.execDvAccgenWrite v s
  | .controlRegisterWrite r v => Sys2Proof.Machine.execControlRegisterWrite r v s
  | .hostMemoryWrite f o d => Sys2Proof.Machine.execHostMemoryWrite f o d s
  | .hostMemoryRead f o n => Sys2Proof.Machine.execHostMemoryRead f o n s
  | .hostFillWrite f o d => Sys2Proof.Machine.execHostFillWrite f o d s
  | .hostFillRead f o n => Sys2Proof.Machine.execHostFillRead f o n s
  | .cwWaitArm f n v => Sys2Proof.Machine.execCwWaitArm f n v s
  | .cwWaitComplete f n => Sys2Proof.Machine.execCwWaitComplete f n s
  | .cwControlWarmReset f key => Sys2Proof.Machine.execCwControlWarmReset f key s
  | .cwControlFreeze f key => Sys2Proof.Machine.execCwControlFreeze f key s
  | .cwControlBoot f key img => Sys2Proof.Machine.execCwControlBoot f key img s
  | .cwPowercapWrite f cap => Sys2Proof.Machine.execCwPowercapWrite f cap s
  | .cwAttnonceWrite f nonce => Sys2Proof.Machine.execCwAttnonceWrite f nonce s
  | .coldReset => Sys2Proof.Machine.execColdReset s
  | .pfHotReset => Sys2Proof.Machine.execPfHotReset s
  | .vfFlr f => Sys2Proof.Machine.execVfFlr f s
  | .powerGovernorTick => Sys2Proof.Machine.execPowerGovernorTick s
  | .unitFailure u => Sys2Proof.Machine.execUnitFailure u s
  | .portalRequest p => Sys2Proof.Machine.execPortalRequest p s
  | .portalReply p => Sys2Proof.Machine.execPortalReply p s
  | .portalTimeout p => Sys2Proof.Machine.execPortalTimeout p s
  | .portalPutData p => Sys2Proof.Machine.execPortalPutData p s
  | .portalPutMarker p => Sys2Proof.Machine.execPortalPutMarker p s
  | .peerRequest u r => Sys2Proof.Machine.execPeerRequest u r s
  | .illegalInstruction w => Sys2Proof.Machine.execIllegalInstruction w s
  | .instructionFetchFault cause tval => Sys2Proof.Machine.execInstructionFetchFault cause tval s

end Sys2Proof.Machine
end

