-- ==== Sys2Proof/Machine/Issue.lean ====
section
/-! DEFINITION. A sequencer's issue cycle: which strand issues, fetching its word or pair, and running what it decodes to
(06 R87, R88; 04 R61–R63, R77; 14 R210). -/

namespace Sys2Proof.Machine

/-! ### Fetch (06 R88) -/

/-- What a fetch of one word gives: the word, a trap, or a wait for an arriving page or the strand's own store. -/
inductive FetchOut where
  | word (w : Word32)
  | trap (code : BitVec 8) (tval : Word64)
  | wait
deriving DecidableEq, Repr

/-- Fetch the word at an address for the issuing strand. -/
def State.fetchWord (s : State) (a : Word64) : FetchOut × State :=
  let k := s.issue.k
  let va := a.toNat
  if 2 ^ 52 ≤ va then (.trap 0x05 a, s)
  else
    let r := s.translate (.seq (k / 8)) (s.strandJob k) (s.strandX k) va
    let allowed (pa : Nat) : Bool := 1 ≤ r.2.access (targetSlice (homeOf pa)) (r.2.masterOf k)
    match r.1 with
    | .heap _ => (.trap 0x02 a, r.2)
    | .page pa _ x =>
      if !x || !allowed pa then (.trap 0x02 a, r.2)
      else if r.2.ownStore pa then (.wait, r.2)
      else if badFe (r.2.mem.sideAt pa).fe then
        (.trap 0x1F ((UnitRef.slice (homeOf pa)).abs.zeroExtend 64), r.2.feNote pa va (r.2.strandJob k))
      else
        let c := r.2.mem.cell pa
        let q := check c.data c.code
        let s1 := r.2.countCheck (.strand k) (r.2.strandJob k) (BitVec.ofNat 64 (va / 32 * 32)) q
        match q.data? with
        | some d => (.word (BitVec.ofNat 32 (cbytes d (va % 32) 4)), s1.cacheRead k pa va)
        | none => (.trap 0x07 (BitVec.ofNat 64 (va / 32 * 32)), s1)
    | .discarded pa _ _ x _ => if !x || !allowed pa then (.trap 0x02 a, r.2) else (.word 0, r.2)
    | .noMap => (.trap 0x05 a, r.2)
    | .absent => (.trap 0x06 a, r.2)
    | .arriving => (.wait, r.2)
    | .machine => (.trap 0x1F ((UnitRef.strand k).abs.zeroExtend 64), r.2)

/-- Run a word that is no prefix: its instruction, or the illegal-instruction trap (04 R77). -/
def State.runFirst (s : State) (w : Word32) : Out :=
  match decodeSeq w none with
  | .ok i => exec i s
  | .error _ => exec (.illegalInstruction w) s

/-- Run a pair whose first word is the prefix w: the second word is fetched, and a fault there is taken at the prefix
with the address of the second word (04 R63). -/
def State.runPair (s : State) (w : Word32) : Out :=
  let a := s.cur.pc + 4
  match s.fetchWord a with
  | (.word w2, s1) =>
    match decodeSeq w (some w2) with
    | .ok i => exec i s1
    | .error _ => exec (.illegalInstruction w2) s1
  | (.trap code tval, s1) =>
    exec (.instructionFetchFault code (if code = 0x1F then tval else a)) (s1.setIssue { s1.issue with hi := some (fld w 0 26) })
  | (.wait, s1) => .next s1

/-- Strand k issues its next instruction or pair. While a fetch waits, for an arriving page or the strand's own posted store,
the strand stays ready and its issue cycle is used (log 86). -/
def State.issueStrand (s : State) (k : Nat) : Out :=
  let s0 := s.setIssue { k := k, hi := none, exam := false }
  match s0.fetchWord (s0.cur.pc) with
  | (.word w, s1) => if isPrefix w then s1.runPair w else s1.runFirst w
  | (.trap code tval, s1) => exec (.instructionFetchFault code tval) s1
  | (.wait, s1) => .next s1

/-! ### Choice (06 R87) -/

/-- What a YIELD still waits for is over: every strand it waits for has issued or is ready no longer, and its cycles have
passed (21 R315). -/
def State.yieldOver (s : State) (x : Strand) : Bool :=
  match x.yield with
  | none => true
  | some (ks, t) => ks.all (fun j => (s.strand j).mode != .ready) && t ≤ s.fc

/-- Strand k can issue. -/
def State.ready (s : State) (k : Nat) : Bool :=
  let x := s.strand k
  x.mode == .ready && s.yieldOver x

/-- The first index after rr, round the ring, that a test accepts; n bounds the search. -/
def ringFirst (p : Nat → Bool) (rr : Nat) : Nat → Option Nat
  | 0 => none
  | n + 1 => let i := (rr + (8 - n)) % 8; if p i then some i else ringFirst p rr n

/-- The strand index that issues in this cycle, and whether it is the home strand. -/
def State.pick (s : State) (c : Nat) : Option (Nat × Bool) :=
  let h := s.cycle % 8
  if s.ready (8 * c + h) then some (h, true)
  else
    let rr := (s.cluster c).rr
    match ringFirst (fun i => s.ready (8 * c + i) && (s.strand (8 * c + i)).prio) rr 8 with
    | some i => some (i, false)
    | none => (ringFirst (fun i => s.ready (8 * c + i)) rr 8).map (fun i => (i, false))

/-- Strand k issues: the YIELDs of its sequencer no longer wait for it. -/
def State.noteIssue (s : State) (k : Nat) : State :=
  (List.range 8).foldl (fun t i =>
    let j := 8 * (k / 8) + i
    let x := t.strand j
    match x.yield with
    | none => t
    | some (ks, n) => t.setStrand j { x with yield := if j = k then none else some (ks.filter (· != k), n) }) s

/-- One issue cycle of the sequencer of cluster c: at most one in each fabric cycle. -/
def State.issueTurn (s : State) (c : Nat) : Out :=
  let cl := s.cluster c
  if s.dv.frozen || cl.issuedAt == some s.fc || !cl.present.getLsbD 21 then .next s
  else
    match s.pick c with
    | none => .next s
    | some (i, home) =>
      let s1 := s.setCluster c { cl with issuedAt := some s.fc, rr := if home then cl.rr else i }
      (s1.noteIssue (8 * c + i)).issueStrand (8 * c + i)

end Sys2Proof.Machine
end

