-- ==== Sys2Proof/Machine/Scan.lean ====
section
/-! DEFINITION. The host's reads of a control window (23 R337, R339) and the read-out of a frozen module through CW_SCAN (23
R346, R347). -/

namespace Sys2Proof.Machine

/-! ### The sections of the read-out (23 R346, R347) -/

/-- The side band of a cell (16 R228). -/
def Cell.sideWord (c : Cell) : Nat := c.fe.toNat * 2 ^ 30 + (if c.w then 2 ^ 29 else 0) + c.code.toNat

/-- The first n cells of a memory as they stand: nothing is checked or corrected on read-out. -/
def Memory.asIs (m : Memory) (n : Nat) : List Cell := (List.range n).map (fun i => m.cell (32 * i))

/-- An entry of the trub record as a number of 32 bytes (23 R347). -/
def Trub.word (t : Trub) : Nat :=
  t.time.toNat + 2 ^ 48 * t.kind.toNat + 2 ^ 64 * t.unit.toNat + 2 ^ 80 * t.job.toNat + 2 ^ 88 * t.code.toNat +
    2 ^ 96 * t.detail.toNat

/-- The sections of cluster c, with absolute identifiers. -/
def State.clusterSections (s : State) (c : Nat) : List Section :=
  let id (u : UnitRef) : Nat := u.abs.toNat
  let es := (List.range 12).map (fun i => 12 * c + i)
  let ts := (List.range 6).map (fun i => 6 * c + i)
  let groups (t : Nat) : List (Nat × Group) := match s.ownerOf c with
    | some l => l.groupsAt t
    | none => []
  (List.range 8).map (fun i => { kind := 0x0102, unit := id (.strand (8 * c + i)),
                                 cells := Codec.strand.put (s.strand (8 * c + i)) }) ++
  [{ kind := 0x0103, unit := 256 * c, cells := Codec.task.list.put (s.cluster c).deque }] ++
  es.map (fun e => { kind := 0x0104, unit := id (.element e), cells := Codec.element.put (s.element e) }) ++
  es.map (fun e => { kind := 0x0105, unit := id (.element e), cells := (s.element e).lmem.asIs 1536 }) ++
  es.map (fun e => { kind := 0x0106, unit := id (.element e), cells := Codec.arr.put (s.element e).arr }) ++
  ts.map (fun t => { kind := 0x0107, unit := id (.tile t),
                     cells := Codec.tile.put (s.tile t) ++ (s.tile t).sram.asIs 32768 }) ++
  ts.map (fun t => { kind := 0x0108, unit := id (.tile t), cells := Codec.watch.put ((s.tile t).watch, groups t) }) ++
  (List.range 3).map (fun i => { kind := 0x0109, unit := id (.port (3 * c + i)), cells := Codec.port.put (s.port (3 * c + i)) })

/-- The section of a launch that holds clusters: its record, route plane and opcode planes, under the identifier of its first
cluster (log 95). -/
def State.launchSection (s : State) (l : Launch) : Section :=
  { kind := 0x0101, unit := 256 * l.clusters.headD 0,
    cells := Codec.region.put (s.fc, l, (l.needed 12 .element).map (fun e => (e, (s.element e).plane, (s.element e).standby))) }

/-- A valid line of a slice: its tag and dirty bits, and its eight cells. -/
def State.lineCells (s : State) (x : L2Line) : List Cell :=
  ownCell (x.addr + 2 ^ 64 * x.job + 2 ^ 80 * x.id.toNat + 2 ^ 96 * x.dirty.toNat) ::
    (List.range 8).map (fun i => s.mem.cell (x.addr + 32 * i))

/-- The section of cache slice h. -/
def State.sliceSection (s : State) (h : Nat) : Section :=
  { kind := 0x0201, unit := (UnitRef.slice h).abs.toNat, cells := (s.slice h).lines.flatMap s.lineCells }

/-- The section of a die's trub record. -/
def State.trubSection (s : State) (die : Nat) : Section :=
  { kind := 0x0202, unit := 4096 * die, cells := (s.ring die).entries.map (fun t => ownCell t.word) }

/-- The sections of the read-out: in kind order, and within a kind in unit order. -/
def State.scanSections (s : State) : List Section :=
  let cs := (List.range Config.clusters).flatMap s.clusterSections
  (s.launches.filter (fun l => l.stage == .placed)).map s.launchSection ++
  [0x0102, 0x0103, 0x0104, 0x0105, 0x0106, 0x0107, 0x0108, 0x0109].flatMap (fun k => cs.filter (fun x => x.kind == k)) ++
  (List.range Config.slices).map s.sliceSection ++ (List.range 9).map s.trubSection

/-- A cell in the stream: its 32 bytes of data, then its side band in four. -/
def Cell.bytes (c : Cell) : List Byte := cellBytes c.data 0 32 ++ (List.range 4).map (fun i => BitVec.ofNat 8 (c.sideWord / 256 ^ i))

/-- The stream that CW_SCAN gives. -/
def State.scanBytes (s : State) : List Byte := (s.scanSections.flatMap Section.whole).flatMap Cell.bytes

/-! ### The control window (23 R337, R339) -/

/-- The register at an offset of the control window of function f that may read it; none where no register lies. -/
def State.windowReg (s : State) (f off : Nat) : Option Word64 :=
  let x := s.func f
  if off = 0 then some (BitVec.ofNat 64 (f + 256 * f))
  else if off = 0x0008 then some (BitVec.ofNat 64
    ((if x.werr then 4 else 0) + (if s.dv.frozen then 2 else 0) + (if s.dv.readyBit then 1 else 0)))
  else if off = 0x0010 then some (x.membase.zeroExtend 64)
  else if 0x0100 ≤ off ∧ off < 0x0200 then
    let w := x.slot ((off - 0x0100) / 16)
    some (if off % 16 = 0 then w.va.zeroExtend 64 ||| (if w.armed then 1 else 0) else w.value)
  else if off = 0x1008 then some (if f = 0 then s.dv.hostCap.zeroExtend 64 else 0)
  else if 0x4000 ≤ off ∧ off < 0x8000 then some (BitVec.ofNat 64 (bytesNat ((x.report.drop (off - 0x4000)).take 8)))
  else none

/-- A read of eight bytes of the control window of function f: a barred function reads 0 (23 R339), and so does a register
that has no read access, lies nowhere, or is the PF's. While the module is frozen every read of CW_SCAN gives the PF the
next eight bytes of the stream (23 R346; log 95). -/
def State.readCw (s : State) (f off : Nat) : Word64 × State :=
  if s.access (targetWindow f) (256 + f) < 1 then (0, s)
  else if 0x8000 ≤ off then
    if f = 0 && s.dv.frozen then
      (BitVec.ofNat 64 (bytesNat ((s.scanBytes.drop s.dv.scanPos).take 8)), s.setDv { s.dv with scanPos := s.dv.scanPos + 8 })
    else (0, s)
  else ((s.windowReg f off).getD 0, s)

/-- The host reads eight bytes of a control window: the completion returns to the function. -/
def State.readWindow (s : State) (f off : Nat) : State :=
  if funcOk f && off % 8 = 0 && off < 2 ^ 16 then
    let r := s.readCw f off
    r.2.complete f (.data (natBytes r.1.toNat 8) false)
  else s

end Sys2Proof.Machine
end

