-- ==== Sys2Proof/Machine/Arbitrate.lean ====
section
/-! DEFINITION. An element's arbitration cycle (07 R108–R113; 20 R293; 22 R325), and what one turn of the machine does. -/

namespace Sys2Proof.Machine

/-! ### What a slot names -/

/-- The fields of slot n of an element's active plane. -/
def Element.slotWord (x : Element) (n : Nat) : Word32 :=
  match x.plane with
  | some p => p.slots.getD n 0
  | none => 0

/-- The opcode of a slot word. -/
def slotOp (w : Word32) : Nat := (fld w 18 8).toNat
/-- The slot is of matrix class (05 R84). -/
def slotMatrix (w : Word32) : Bool := 0xF0 ≤ slotOp w && slotOp w ≤ 0xF6
/-- Source select B is a format field (05 R83). -/
def slotFormatB (w : Word32) : Bool := (0x80 ≤ slotOp w && slotOp w < 0xC4) || slotOp w == 0xE1 || slotOp w == 0xE9
/-- The destination field is a predicate index (08 R126). -/
def slotPred (w : Word32) : Bool := 0xE5 ≤ slotOp w && slotOp w ≤ 0xE8
/-- The destination field is an operand destination. -/
def slotHasDst (w : Word32) : Bool := !slotPred w && slotOp w != 0xEB && slotOp w != 0xEC

/-- The input channels a slot names as sources. -/
def slotChannels (w : Word32) : List Nat :=
  let x := slotFields w
  (if x.srcA.isIn then [x.srcA.toNat - 8] else []) ++
    (if !slotFormatB w && x.srcB.isIn then [x.srcB.toNat - 8] else [])

/-! ### Eligibility (07 R108, R109) -/

/-- The head token of input ch. -/
def Element.head (x : Element) (ch : Nat) : Option Token := (x.inp ch).buf.head?

/-- The firing bank of a trigger entry (07 R108). -/
def Element.bankOf (x : Element) (t : Word64) : BitVec 2 :=
  if trigCondA t = 0 then x.bank
  else match x.head (trigChanA t) with
    | some h => h.bank
    | none => x.bank

/-- A channel condition holds. -/
def Element.condHolds (x : Element) (ch : Nat) (c : BitVec 2) (b : BitVec 2) : Bool :=
  match c.toNat with
  | 0 => true
  | 1 => (match x.head ch with
    | some h => !h.fin && !h.sw
    | none => false)
  | 2 => (match x.head ch with
    | some h => !h.fin && !h.sw && h.bank == b
    | none => false)
  | _ => (match x.head ch with
    | some h => h.fin
    | none => false)

/-- Slot n is eligible (07 R109); the firing bank is `bankOf` of its trigger entry. -/
def State.eligible (s : State) (l : Launch) (e n : Nat) : Bool :=
  let x := s.element e
  match x.plane with
  | none => false
  | some p =>
    let w := p.slots.getD n 0
    let f := slotFields w
    let t := p.trigs.getD f.trig.toNat 0
    let b := x.bankOf t
    p.valid.getLsbD n && predHolds t (vget x.q b.toNat 0) &&
    x.condHolds (trigChanA t) (trigCondA t) b && x.condHolds (trigChanB t) (trigCondB t) b &&
    (!trigRoom t || s.outRoom l e (trigOut t)) &&
    (slotChannels w).all (fun ch => match x.head ch with
      | some h => !h.sw
      | none => false) &&
    (!(slotHasDst w && f.dst.isOut) || s.outRoom l e (f.dst.toNat - 16))

/-- The eligible slots of a port, in increasing index. -/
def State.eligibles (s : State) (l : Launch) (e : Nat) (matrix : Bool) : List Nat :=
  (List.range 32).filter (fun n => slotMatrix ((s.element e).slotWord n) == matrix && s.eligible l e n)

/-- The winner among eligible slots: the lowest lifted, else the lowest (07 R110). -/
def Element.winner (x : Element) (es : List Nat) : Option Nat :=
  match es.filter (fun n => vget x.ages n 0 == 64) with
  | n :: _ => some n
  | [] => es.head?

/-! ### Conflicts (07 R110) -/

/-- The bank of slot n now. -/
def Element.slotBank (x : Element) (n : Nat) : BitVec 2 := x.bankOf (x.trigger (slotFields (x.slotWord n)).trig.toNat)

/-- A port's winner with its firing bank. -/
abbrev Win := Nat × BitVec 2

/-- The predicate bits that a slot's firing touches. -/
def Element.touches (x : Element) (n : Nat) : BitVec 16 :=
  let w := x.slotWord n
  let t := x.trigger (slotFields w).trig.toNat
  let q := (trigSet t ||| trigClear t).zeroExtend 16
  if slotPred w then q ||| BitVec.ofNat 16 (2 ^ (slotFields w).dst.toNat) else q

/-- The channels a slot dequeues. -/
def Element.slotDeq (x : Element) (n : Nat) : List Nat := slotDequeues (slotFields (x.slotWord n))

/-- Two winners conflict (07 R110). -/
def Element.conflict (x : Element) (a b : Win) : Bool :=
  let wa := x.slotWord a.1
  let wb := x.slotWord b.1
  let da := (slotFields wa).dst
  let db := (slotFields wb).dst
  let sameBank := a.2 == b.2
  (slotChannels wa).any (fun c =>
    (slotChannels wb).contains c && ((x.slotDeq a.1).contains c || (x.slotDeq b.1).contains c)) ||
  (slotHasDst wa && slotHasDst wb &&
    ((da == db && (da.isOut || (da.isV && sameBank))) || (da.isLp && db.isLp))) ||
  (sameBank && (x.touches a.1 &&& x.touches b.1) != 0)

/-! ### Which elements arbitrate (07 R109, R117, R118) -/

/-- A head token of the wrong version stands at an unblocked input (07 R117 rule 2). -/
def State.wrongVersion (s : State) (l : Launch) (e : Nat) : Bool :=
  let x := s.element e
  (List.range 8).any (fun ch => !l.isDelay e ch && (match x.head ch with
    | some h => !h.sw && h.ver != x.ver
    | none => false))

/-- Element e may arbitrate in this cycle: it has a plane and no pending fault, has not arbitrated yet, and no token has
reached it in the cycle, which its triggers would see too early (07 R106, R109). -/
def State.canFire (s : State) (e : Nat) : Bool :=
  let x := s.element e
  !(x.arbAt == some s.fc || x.arrAt == some s.fc || x.complete || x.faulted || x.cancelled || x.stopped || x.late.isSome ||
    x.plane.isNone) && s.present (.element e)

/-- No flip, version fault or completion takes the cycle of element e. -/
def State.plainCycle (s : State) (l : Launch) (e : Nat) : Bool :=
  !s.flipDue l e && !s.wrongVersion l e && !s.completeDue l e

/-! ### The governor (20 R293) -/

/-- The element that had been granted last when this cycle began. -/
def State.grantBase (s : State) (c : Nat) : Nat :=
  let cl := s.cluster c
  if cl.grantAt = s.fc then cl.grantFrom else cl.lastGrant

/-- The place of an element in a cycle's round of grants, which starts after the element last granted. -/
def State.grantRank (s : State) (c i : Nat) : Nat := (i + 11 - s.grantBase c) % 12

/-- The matrix port of element e has a winner: one that it holds, or an eligible slot. -/
def State.wantsGrant (s : State) (l : Launch) (e : Nat) : Bool :=
  (s.element e).heldM.isSome || !(s.eligibles l e true).isEmpty

/-- Elements of the cluster that can still take a grant before element e in this cycle: those that have yet to arbitrate in
it and have a matrix winner, in the order of the round. -/
def State.ahead (s : State) (l : Launch) (c e : Nat) : Nat :=
  ((List.range 12).filter (fun i =>
    s.grantRank c i < s.grantRank c (e % 12) && s.canFire (12 * c + i) && s.plainCycle l (12 * c + i) &&
      s.wantsGrant l (12 * c + i))).length

/-- The governor grants element e's matrix port a firing. -/
def State.granted (s : State) (l : Launch) (e : Nat) : Bool :=
  let cl := s.cluster (e / 12)
  s.ahead l (e / 12) e < Nat.min cl.budget.toNat 3072 - cl.spent

/-- One firing is granted to element e; the last of the cycle's round is the element last granted, whatever the order of
turns. -/
def State.spend (s : State) (e : Nat) : State :=
  let c := e / 12
  let cl := s.cluster c
  let later := cl.grantAt = s.fc ∧ s.grantRank c (e % 12) < s.grantRank c cl.lastGrant
  s.setCluster c { cl with spent := cl.spent + 1, lastGrant := if later then cl.lastGrant else e % 12,
                           grantAt := s.fc, grantFrom := s.grantBase c }

/-- One element-cycle is withheld. -/
def State.withhold (s : State) (e : Nat) : State :=
  let cl := s.cluster (e / 12)
  s.setCluster (e / 12) { cl with govStall := satAdd cl.govStall 1 }

/-! ### Firing (07 R113) -/

/-- A winner of element e fires: the instruction its slot holds runs, with the element as it stood when the cycle began. -/
def State.fireSlot (s : State) (e : Nat) (w : Win) (before : Element) : Out :=
  match decodeSlot (before.slotWord w.1) with
  | .ok i => exec i { s with firing := { e := e, slot := w.1, bank := w.2, before := before } }
  | .error _ => .next s

/-- The element has taken a fault. -/
def State.elemFaulted (s : State) (e : Nat) : Bool := (s.element e).faulted

/-- Both winners of one cycle fire: if one faults before it has any effect the other does nothing, and of two such
faults the lower slot's is recorded (07 R113, 22 R323). -/
def State.fireBoth (s : State) (e : Nat) (m v : Win) (before : Element) : Out :=
  match s.fireSlot e m before, s.fireSlot e v before with
  | .next sm, .next sv =>
    if sm.elemFaulted e && sv.elemFaulted e then .next (if m.1 < v.1 then sm else sv)
    else if sm.elemFaulted e then .next sm
    else if sv.elemFaulted e then .next sv
    else
      match sm.fireSlot e v before with
      | .next r =>
        if m.1 < v.1 && (sm.element e).late.isSome then
          .next (r.setElement e { r.element e with late := (sm.element e).late })
        else .next r
      | o => o
  | o, _ => o

/-- The ages after a cycle: 0 for a slot that fired or was not eligible; else one more, and at the 64th loss the slot is
due to be lifted (07 R110, R112). -/
def Element.ageSlots (x : Element) (arbV arbM : Bool) (fired es : List Nat) : Element :=
  (List.range 32).foldl (fun y n =>
    if (if slotMatrix (x.slotWord n) then arbM else arbV) then
      if fired.contains n || !es.contains n then
        { y with ages := vset y.ages n 0, lifting := y.lifting &&& ~~~(BitVec.ofNat 32 (2 ^ n)) }
      else
        let a := vget y.ages n 0
        if a < 63 then { y with ages := vset y.ages n (a + 1) }
        else if a = 63 then { y with lifting := y.lifting ||| BitVec.ofNat 32 (2 ^ n) }
        else y
    else y) x

/-- The winner writes local memory and needs an undo entry that the window's log cannot give (22 R325). -/
def State.undoHeld (s : State) (l : Launch) (e : Nat) (w : Win) : Bool :=
  let x := s.element e
  let f := slotFields (x.slotWord w.1)
  slotHasDst (x.slotWord w.1) && f.dst.isLp &&
    (s.noteLocal l e (blocksOf (lpAddr (x.ptr w.2 (f.dst.toNat - 24))))).isNone

/-- The winner of a port with its bank: the slot that it holds, else one of its eligible slots (07 R110, R111). -/
def Element.portWinner (x : Element) (held : Option Win) (es : List Nat) : Option Win :=
  match held with
  | some w => some w
  | none => (x.winner es).map (fun n => (n, x.slotBank n))

/-- Which of two conflicting winners fires no slot in this cycle, matrix or vector: one that conflicts with a slot held from an
earlier cycle, else the one of lower age, the vector winner where they are equal (07 R110, R111). -/
def Element.loser (x : Element) (m v : Option Win) : Bool × Bool :=
  match m, v with
  | some a, some b =>
    if !x.conflict a b then (false, false)
    else if x.heldM.isSome && x.heldV.isNone then (false, true)
    else if x.heldV.isSome && x.heldM.isNone then (true, false)
    else if vget x.ages a.1 0 < vget x.ages b.1 0 then (true, false)
    else (false, true)
  | _, _ => (false, false)

/-- What a port does with its winner: whether it lost its conflict, whether it must be held for want of an undo entry, and
whether it may fire at all. The answer is the slot that fires, the slot that is held, and whether the cycle is an arbitration
cycle of the port (07 R111). -/
def portOutcome (w held : Option Win) (lost undo may : Bool) : Option Win × Option Win × Bool :=
  if lost then (none, held, held.isNone && may)
  else if w.isNone then (none, none, may)
  else if undo then (none, w, false)
  else if may then (w, none, true)
  else (none, held, false)

/-- The two ports of element e arbitrate and their winners fire (07 R110). A winner that needs an undo entry which the window's
log cannot give is held until the commit and fires then; the other port loses every conflict with it (07 R111, 22 R325). A
matrix port that the governor withholds does not arbitrate (20 R293). -/
def State.arbitrate (s : State) (l : Launch) (e : Nat) : Out :=
  let x := s.element e
  let ev := s.eligibles l e false
  let em := s.eligibles l e true
  let grant := s.granted l e
  let v0 := x.portWinner x.heldV ev
  let m0 := x.portWinner x.heldM (if grant then em else [])
  let loses := x.loser m0 v0
  let undoV := v0.any (fun w => s.undoHeld l e w)
  let undoM := m0.any (fun w => s.undoHeld l e w)
  let rv := portOutcome v0 x.heldV loses.2 undoV true
  let rm := portOutcome m0 x.heldM loses.1 undoM grant
  let s1 := if !grant && s.wantsGrant l e then s.withhold e else s
  let s2 := if rv.2.1.isSome || rm.2.1.isSome then s1.closeWindow l.id else s1
  let fired := rm.1.toList.map (·.1) ++ rv.1.toList.map (·.1)
  let s3 := s2.setElement e { x.ageSlots rv.2.2 rm.2.2 fired (ev ++ em) with heldV := rv.2.1, heldM := rm.2.1 }
  let s4 := if rm.1.isSome then s3.spend e else s3
  match rm.1, rv.1 with
  | some a, some b => s4.fireBoth e a b x
  | some a, none => s4.fireSlot e a x
  | none, some b => s4.fireSlot e b x
  | none, none => .next s4

/-- One cycle of element e: at most one in each fabric cycle. Lifts that are due happen first; a completion, a flip or a
version mismatch takes the cycle (07 R112, R117, R118). -/
def State.fireTurn (s : State) (e : Nat) : Out :=
  match s.liveAt (e / 12) with
  | none => .next s
  | some l =>
    if !s.canFire e then .next s
    else
      let x := s.element e
      let x1 := (List.range 32).foldl (fun y n => y.lift n) x
      let s1 := (s.setElement e { x1 with arbAt := some s.fc }).govRoll (e / 12)
      if s1.flipDue l e then exec (.planeFlip e) s1
      else if s1.wrongVersion l e then .next (s1.elementFault (.element e) l 0x07 0 0 0 0)
      else if s1.completeDue l e then exec (.elementComplete e) s1
      else s1.arbitrate l e

/-! ### Turns -/

/-- The event comes from outside the module, or puts it back: it can happen while the module is frozen (23 R346). -/
def outsideEvent : Instr → Bool
  | .cwControlWarmReset _ _ | .cwControlFreeze _ _ | .coldReset | .pfHotReset | .hostMemoryRead _ _ _
  | .hostFillRead _ _ _ | .controlRegisterWrite (.host _ _) _ => true
  | _ => false

/-- An event may be a turn of its own: it has no word, and is not the meaning of a word an issue refuses. -/
def turnEvent (i : Instr) : Bool :=
  match i with
  | .illegalInstruction _ => false
  | .instructionFetchFault _ _ => false
  | j => j.isEvent

/-- A fabric cycle passes: the launches that met an element fault in it halt (22 R323; log 90). -/
def State.pass (s : State) : State := if s.dv.frozen then s else { s.settle with fc := s.settle.fc + 1 }

/-- What a turn does. -/
def State.takeTurn (s : State) (t : Turn) : Out :=
  match t with
  | .issue c => s.issueTurn c
  | .fire e => s.fireTurn e
  | .tick => .next s.pass
  | .cwRead f off => .next (s.readWindow f off)
  | .event i => if turnEvent i && (!s.dv.frozen || outsideEvent i) then exec i s else .next s

/-- The turn that comes next and the state without it: the head of `turns`, or a free value (log 3). -/
def State.nextTurn (s : State) : Turn × State :=
  match s.turns with
  | t :: ts => (t, { s with turns := ts })
  | [] => (Config.freeTurn s.nextFree.1, s.nextFree.2)

end Sys2Proof.Machine
end

