-- ==== Sys2Proof/Machine/Step.lean ====
section
/-! DEFINITION. One step of the machine: the agent that `turns` names, or a free value names, moves (log 3). -/

namespace Sys2Proof.Machine

/-- One step. -/
def step (s : State) : Host.Outcome State Fault Refusal := s.nextTurn.2.takeTurn s.nextTurn.1

/-- The strand whose next instruction `withFetchWord` places: S7 of die 4's first cluster, the supervisor's strand
(23 R345). -/
def fetchStrand : Nat := 519

/-- A resident, executable page at frame 0. -/
def fetchEntry : Word64 := 0x12

/-- The state with the instruction of nbits bits of w placed where the next step fetches it: a word of a sequencer at the
supervisor strand's program counter, with its code; a slot word in slot 0 of element 0 of a launch that holds cluster 0,
its trigger without conditions and a token at each input (log 4). -/
def State.withFetchWord (s : State) (nbits w : Nat) : State :=
  let w0 : Word32 := BitVec.ofNat 32 (w % 2 ^ min nbits 32)
  let w1 : Word32 := BitVec.ofNat 32 ((w % 2 ^ nbits) / 2 ^ 32)
  let slot := match decodeTableWord nbits w with
    | some i => (encode i == [w0]) && (decodeSlot w0).toOption == some i
    | none => false
  if slot then
    let l : Launch := placeLaunch s.launchNo
    let t := makeToken 0 0 0 1
    let p : Plane := { ver := 1, valid := 1, initQ := 0, done := 0, bank := 0, slots := [w0],
                       trigs := List.replicate 64 0, preloads := [] }
    let x : Element := { s.element 0 with plane := some p, ins := Vector.replicate 8 { wire := [], buf := [t], part := [] } }
    ({ (s.setCluster 0 { s.cluster 0 with owner := some s.launchNo }).setElement 0 x with
        launches := s.launches ++ [l], launchNo := s.launchNo + 1, turns := [.fire 0] })
  else
    let d : CellData := BitVec.ofNat 256 (w0.toNat + 2 ^ 32 * w1.toNat)
    let c := fetchStrand / 8
    let e : TlbEntry := { job := 0, vpn := 0, big := false, entry := fetchEntry }
    let x : Strand := { s.strand fetchStrand with mode := .ready, priv := true, pc := 0 }
    { ((s.setMem (s.mem.setCell 0 (freshCell d 2))).setStrand fetchStrand x).setCluster c
        { s.cluster c with tlb := [e] } with turns := [.issue c] }
where
  /-- A direct launch of one cluster, placed at cluster 0. -/
  placeLaunch (n : Nat) : Launch :=
    { Launch.blank with
      id := n, job := 1, record := { Launch.blank.record with direct := true, needs := [0x3FFFFF] }, stage := .placed,
      installed := true, named := [0], ver := 1, rver := 1 }

end Sys2Proof.Machine
end

