-- ==== Sys2Proof/Laws/Encoding.lean ====
section
/-! SUPPORT. The fields of an encoded word are the fields it was made of, and a word is its four bytes. -/

namespace Sys2Proof

/-- A field above the low part of a concatenation lies in the high part. -/
theorem take_hi {n m : Nat} (a : BitVec n) (b : BitVec m) (lo k : Nat) (h : m ≤ lo) :
    (a ++ b).extractLsb' lo k = a.extractLsb' (lo - m) k := by
  ext i hi
  have : ¬ lo + i < m := by omega
  simp [BitVec.getElem_extractLsb', BitVec.getLsbD_append, this, Nat.sub_add_comm h]

/-- A field within the low part of a concatenation. -/
theorem take_lo {n m : Nat} (a : BitVec n) (b : BitVec m) (lo k : Nat) (h : lo + k ≤ m) :
    (a ++ b).extractLsb' lo k = b.extractLsb' lo k := by
  ext i hi
  simp [BitVec.getElem_extractLsb', BitVec.getLsbD_append]
  omega

/-- The field that is the whole word. -/
theorem take_all {n : Nat} (a : BitVec n) : a.extractLsb' 0 n = a := by
  ext i hi
  simp

@[simp] theorem eWord_major (m : BitVec 6) (gd : GReg) (ga : GReg) (gb : GReg) (gc : GReg) (sub : BitVec 6) :
    fld (eWord m gd ga gb gc sub) 26 6 = m :=
  (take_hi (m ++ gd ++ ga ++ gb ++ gc) (sub) 26 6 (by decide)).trans ((take_hi (m ++ gd ++ ga ++ gb) (gc) 20 6 (by decide)).trans ((take_hi (m ++ gd ++ ga) (gb) 15 6 (by decide)).trans ((take_hi (m ++ gd) (ga) 10 6 (by decide)).trans ((take_hi (m) (gd) 5 6 (by decide)).trans (take_all (m))))))
@[simp] theorem eWord_gd (m : BitVec 6) (gd : GReg) (ga : GReg) (gb : GReg) (gc : GReg) (sub : BitVec 6) :
    fld (eWord m gd ga gb gc sub) 21 5 = gd :=
  (take_hi (m ++ gd ++ ga ++ gb ++ gc) (sub) 21 5 (by decide)).trans ((take_hi (m ++ gd ++ ga ++ gb) (gc) 15 5 (by decide)).trans ((take_hi (m ++ gd ++ ga) (gb) 10 5 (by decide)).trans ((take_hi (m ++ gd) (ga) 5 5 (by decide)).trans ((take_lo (m) (gd) 0 5 (by decide)).trans (take_all (gd))))))
@[simp] theorem eWord_ga (m : BitVec 6) (gd : GReg) (ga : GReg) (gb : GReg) (gc : GReg) (sub : BitVec 6) :
    fld (eWord m gd ga gb gc sub) 16 5 = ga :=
  (take_hi (m ++ gd ++ ga ++ gb ++ gc) (sub) 16 5 (by decide)).trans ((take_hi (m ++ gd ++ ga ++ gb) (gc) 10 5 (by decide)).trans ((take_hi (m ++ gd ++ ga) (gb) 5 5 (by decide)).trans ((take_lo (m ++ gd) (ga) 0 5 (by decide)).trans (take_all (ga)))))
@[simp] theorem eWord_gb (m : BitVec 6) (gd : GReg) (ga : GReg) (gb : GReg) (gc : GReg) (sub : BitVec 6) :
    fld (eWord m gd ga gb gc sub) 11 5 = gb :=
  (take_hi (m ++ gd ++ ga ++ gb ++ gc) (sub) 11 5 (by decide)).trans ((take_hi (m ++ gd ++ ga ++ gb) (gc) 5 5 (by decide)).trans ((take_lo (m ++ gd ++ ga) (gb) 0 5 (by decide)).trans (take_all (gb))))
@[simp] theorem eWord_gc (m : BitVec 6) (gd : GReg) (ga : GReg) (gb : GReg) (gc : GReg) (sub : BitVec 6) :
    fld (eWord m gd ga gb gc sub) 6 5 = gc :=
  (take_hi (m ++ gd ++ ga ++ gb ++ gc) (sub) 6 5 (by decide)).trans ((take_lo (m ++ gd ++ ga ++ gb) (gc) 0 5 (by decide)).trans (take_all (gc)))
@[simp] theorem eWord_sub (m : BitVec 6) (gd : GReg) (ga : GReg) (gb : GReg) (gc : GReg) (sub : BitVec 6) :
    fld (eWord m gd ga gb gc sub) 0 6 = sub :=
  (take_lo (m ++ gd ++ ga ++ gb ++ gc) (sub) 0 6 (by decide)).trans (take_all (sub))
@[simp] theorem iWord_major (m : BitVec 6) (r1 : GReg) (r2 : GReg) (imm : BitVec 16) :
    fld (iWord m r1 r2 imm) 26 6 = m :=
  (take_hi (m ++ r1 ++ r2) (imm) 26 6 (by decide)).trans ((take_hi (m ++ r1) (r2) 10 6 (by decide)).trans ((take_hi (m) (r1) 5 6 (by decide)).trans (take_all (m))))
@[simp] theorem iWord_r1 (m : BitVec 6) (r1 : GReg) (r2 : GReg) (imm : BitVec 16) :
    fld (iWord m r1 r2 imm) 21 5 = r1 :=
  (take_hi (m ++ r1 ++ r2) (imm) 21 5 (by decide)).trans ((take_hi (m ++ r1) (r2) 5 5 (by decide)).trans ((take_lo (m) (r1) 0 5 (by decide)).trans (take_all (r1))))
@[simp] theorem iWord_r2 (m : BitVec 6) (r1 : GReg) (r2 : GReg) (imm : BitVec 16) :
    fld (iWord m r1 r2 imm) 16 5 = r2 :=
  (take_hi (m ++ r1 ++ r2) (imm) 16 5 (by decide)).trans ((take_lo (m ++ r1) (r2) 0 5 (by decide)).trans (take_all (r2)))
@[simp] theorem iWord_imm (m : BitVec 6) (r1 : GReg) (r2 : GReg) (imm : BitVec 16) :
    fld (iWord m r1 r2 imm) 0 16 = imm :=
  (take_lo (m ++ r1 ++ r2) (imm) 0 16 (by decide)).trans (take_all (imm))
@[simp] theorem mWord_major (m : BitVec 6) (gd : GReg) (ga : GReg) (size : BitVec 2) (mode : BitVec 3) (disp : BitVec 11) :
    fld (mWord m gd ga size mode disp) 26 6 = m :=
  (take_hi (m ++ gd ++ ga ++ size ++ mode) (disp) 26 6 (by decide)).trans ((take_hi (m ++ gd ++ ga ++ size) (mode) 15 6 (by decide)).trans ((take_hi (m ++ gd ++ ga) (size) 12 6 (by decide)).trans ((take_hi (m ++ gd) (ga) 10 6 (by decide)).trans ((take_hi (m) (gd) 5 6 (by decide)).trans (take_all (m))))))
@[simp] theorem mWord_gd (m : BitVec 6) (gd : GReg) (ga : GReg) (size : BitVec 2) (mode : BitVec 3) (disp : BitVec 11) :
    fld (mWord m gd ga size mode disp) 21 5 = gd :=
  (take_hi (m ++ gd ++ ga ++ size ++ mode) (disp) 21 5 (by decide)).trans ((take_hi (m ++ gd ++ ga ++ size) (mode) 10 5 (by decide)).trans ((take_hi (m ++ gd ++ ga) (size) 7 5 (by decide)).trans ((take_hi (m ++ gd) (ga) 5 5 (by decide)).trans ((take_lo (m) (gd) 0 5 (by decide)).trans (take_all (gd))))))
@[simp] theorem mWord_ga (m : BitVec 6) (gd : GReg) (ga : GReg) (size : BitVec 2) (mode : BitVec 3) (disp : BitVec 11) :
    fld (mWord m gd ga size mode disp) 16 5 = ga :=
  (take_hi (m ++ gd ++ ga ++ size ++ mode) (disp) 16 5 (by decide)).trans ((take_hi (m ++ gd ++ ga ++ size) (mode) 5 5 (by decide)).trans ((take_hi (m ++ gd ++ ga) (size) 2 5 (by decide)).trans ((take_lo (m ++ gd) (ga) 0 5 (by decide)).trans (take_all (ga)))))
@[simp] theorem mWord_size (m : BitVec 6) (gd : GReg) (ga : GReg) (size : BitVec 2) (mode : BitVec 3) (disp : BitVec 11) :
    fld (mWord m gd ga size mode disp) 14 2 = size :=
  (take_hi (m ++ gd ++ ga ++ size ++ mode) (disp) 14 2 (by decide)).trans ((take_hi (m ++ gd ++ ga ++ size) (mode) 3 2 (by decide)).trans ((take_lo (m ++ gd ++ ga) (size) 0 2 (by decide)).trans (take_all (size))))
@[simp] theorem mWord_mode (m : BitVec 6) (gd : GReg) (ga : GReg) (size : BitVec 2) (mode : BitVec 3) (disp : BitVec 11) :
    fld (mWord m gd ga size mode disp) 11 3 = mode :=
  (take_hi (m ++ gd ++ ga ++ size ++ mode) (disp) 11 3 (by decide)).trans ((take_lo (m ++ gd ++ ga ++ size) (mode) 0 3 (by decide)).trans (take_all (mode)))
@[simp] theorem mWord_disp (m : BitVec 6) (gd : GReg) (ga : GReg) (size : BitVec 2) (mode : BitVec 3) (disp : BitVec 11) :
    fld (mWord m gd ga size mode disp) 0 11 = disp :=
  (take_lo (m ++ gd ++ ga ++ size ++ mode) (disp) 0 11 (by decide)).trans (take_all (disp))
@[simp] theorem jWord_major (m : BitVec 6) (off : BitVec 26) :
    fld (jWord m off) 26 6 = m :=
  (take_hi (m) (off) 26 6 (by decide)).trans (take_all (m))
@[simp] theorem jWord_off (m : BitVec 6) (off : BitVec 26) :
    fld (jWord m off) 0 26 = off :=
  (take_lo (m) (off) 0 26 (by decide)).trans (take_all (off))
@[simp] theorem rWord_major (gd : GReg) (ga : GReg) (gb : GReg) (fn : BitVec 11) :
    fld (rWord gd ga gb fn) 26 6 = (0 : BitVec 6) :=
  (take_hi ((0 : BitVec 6) ++ gd ++ ga ++ gb) (fn) 26 6 (by decide)).trans ((take_hi ((0 : BitVec 6) ++ gd ++ ga) (gb) 15 6 (by decide)).trans ((take_hi ((0 : BitVec 6) ++ gd) (ga) 10 6 (by decide)).trans ((take_hi ((0 : BitVec 6)) (gd) 5 6 (by decide)).trans (take_all ((0 : BitVec 6))))))
@[simp] theorem rWord_gd (gd : GReg) (ga : GReg) (gb : GReg) (fn : BitVec 11) :
    fld (rWord gd ga gb fn) 21 5 = gd :=
  (take_hi ((0 : BitVec 6) ++ gd ++ ga ++ gb) (fn) 21 5 (by decide)).trans ((take_hi ((0 : BitVec 6) ++ gd ++ ga) (gb) 10 5 (by decide)).trans ((take_hi ((0 : BitVec 6) ++ gd) (ga) 5 5 (by decide)).trans ((take_lo ((0 : BitVec 6)) (gd) 0 5 (by decide)).trans (take_all (gd)))))
@[simp] theorem rWord_ga (gd : GReg) (ga : GReg) (gb : GReg) (fn : BitVec 11) :
    fld (rWord gd ga gb fn) 16 5 = ga :=
  (take_hi ((0 : BitVec 6) ++ gd ++ ga ++ gb) (fn) 16 5 (by decide)).trans ((take_hi ((0 : BitVec 6) ++ gd ++ ga) (gb) 5 5 (by decide)).trans ((take_lo ((0 : BitVec 6) ++ gd) (ga) 0 5 (by decide)).trans (take_all (ga))))
@[simp] theorem rWord_gb (gd : GReg) (ga : GReg) (gb : GReg) (fn : BitVec 11) :
    fld (rWord gd ga gb fn) 11 5 = gb :=
  (take_hi ((0 : BitVec 6) ++ gd ++ ga ++ gb) (fn) 11 5 (by decide)).trans ((take_lo ((0 : BitVec 6) ++ gd ++ ga) (gb) 0 5 (by decide)).trans (take_all (gb)))
@[simp] theorem rWord_fn (gd : GReg) (ga : GReg) (gb : GReg) (fn : BitVec 11) :
    fld (rWord gd ga gb fn) 0 11 = fn :=
  (take_lo ((0 : BitVec 6) ++ gd ++ ga ++ gb) (fn) 0 11 (by decide)).trans (take_all (fn))
@[simp] theorem tWord_trig (op : BitVec 8) (x : Slot) :
    fld (tWord op x) 26 6 = x.trig :=
  (take_hi (x.trig ++ op ++ x.dst ++ x.srcA ++ x.srcB ++ BitVec.ofBool x.deqA ++ BitVec.ofBool x.deqB) (BitVec.ofBool x.bit0) 26 6 (by decide)).trans ((take_hi (x.trig ++ op ++ x.dst ++ x.srcA ++ x.srcB ++ BitVec.ofBool x.deqA) (BitVec.ofBool x.deqB) 25 6 (by decide)).trans ((take_hi (x.trig ++ op ++ x.dst ++ x.srcA ++ x.srcB) (BitVec.ofBool x.deqA) 24 6 (by decide)).trans ((take_hi (x.trig ++ op ++ x.dst ++ x.srcA) (x.srcB) 23 6 (by decide)).trans ((take_hi (x.trig ++ op ++ x.dst) (x.srcA) 18 6 (by decide)).trans ((take_hi (x.trig ++ op) (x.dst) 13 6 (by decide)).trans ((take_hi (x.trig) (op) 8 6 (by decide)).trans (take_all (x.trig))))))))
@[simp] theorem tWord_op (op : BitVec 8) (x : Slot) :
    fld (tWord op x) 18 8 = op :=
  (take_hi (x.trig ++ op ++ x.dst ++ x.srcA ++ x.srcB ++ BitVec.ofBool x.deqA ++ BitVec.ofBool x.deqB) (BitVec.ofBool x.bit0) 18 8 (by decide)).trans ((take_hi (x.trig ++ op ++ x.dst ++ x.srcA ++ x.srcB ++ BitVec.ofBool x.deqA) (BitVec.ofBool x.deqB) 17 8 (by decide)).trans ((take_hi (x.trig ++ op ++ x.dst ++ x.srcA ++ x.srcB) (BitVec.ofBool x.deqA) 16 8 (by decide)).trans ((take_hi (x.trig ++ op ++ x.dst ++ x.srcA) (x.srcB) 15 8 (by decide)).trans ((take_hi (x.trig ++ op ++ x.dst) (x.srcA) 10 8 (by decide)).trans ((take_hi (x.trig ++ op) (x.dst) 5 8 (by decide)).trans ((take_lo (x.trig) (op) 0 8 (by decide)).trans (take_all (op))))))))
@[simp] theorem tWord_dst (op : BitVec 8) (x : Slot) :
    fld (tWord op x) 13 5 = x.dst :=
  (take_hi (x.trig ++ op ++ x.dst ++ x.srcA ++ x.srcB ++ BitVec.ofBool x.deqA ++ BitVec.ofBool x.deqB) (BitVec.ofBool x.bit0) 13 5 (by decide)).trans ((take_hi (x.trig ++ op ++ x.dst ++ x.srcA ++ x.srcB ++ BitVec.ofBool x.deqA) (BitVec.ofBool x.deqB) 12 5 (by decide)).trans ((take_hi (x.trig ++ op ++ x.dst ++ x.srcA ++ x.srcB) (BitVec.ofBool x.deqA) 11 5 (by decide)).trans ((take_hi (x.trig ++ op ++ x.dst ++ x.srcA) (x.srcB) 10 5 (by decide)).trans ((take_hi (x.trig ++ op ++ x.dst) (x.srcA) 5 5 (by decide)).trans ((take_lo (x.trig ++ op) (x.dst) 0 5 (by decide)).trans (take_all (x.dst)))))))
@[simp] theorem tWord_srcA (op : BitVec 8) (x : Slot) :
    fld (tWord op x) 8 5 = x.srcA :=
  (take_hi (x.trig ++ op ++ x.dst ++ x.srcA ++ x.srcB ++ BitVec.ofBool x.deqA ++ BitVec.ofBool x.deqB) (BitVec.ofBool x.bit0) 8 5 (by decide)).trans ((take_hi (x.trig ++ op ++ x.dst ++ x.srcA ++ x.srcB ++ BitVec.ofBool x.deqA) (BitVec.ofBool x.deqB) 7 5 (by decide)).trans ((take_hi (x.trig ++ op ++ x.dst ++ x.srcA ++ x.srcB) (BitVec.ofBool x.deqA) 6 5 (by decide)).trans ((take_hi (x.trig ++ op ++ x.dst ++ x.srcA) (x.srcB) 5 5 (by decide)).trans ((take_lo (x.trig ++ op ++ x.dst) (x.srcA) 0 5 (by decide)).trans (take_all (x.srcA))))))
@[simp] theorem tWord_srcB (op : BitVec 8) (x : Slot) :
    fld (tWord op x) 3 5 = x.srcB :=
  (take_hi (x.trig ++ op ++ x.dst ++ x.srcA ++ x.srcB ++ BitVec.ofBool x.deqA ++ BitVec.ofBool x.deqB) (BitVec.ofBool x.bit0) 3 5 (by decide)).trans ((take_hi (x.trig ++ op ++ x.dst ++ x.srcA ++ x.srcB ++ BitVec.ofBool x.deqA) (BitVec.ofBool x.deqB) 2 5 (by decide)).trans ((take_hi (x.trig ++ op ++ x.dst ++ x.srcA ++ x.srcB) (BitVec.ofBool x.deqA) 1 5 (by decide)).trans ((take_lo (x.trig ++ op ++ x.dst ++ x.srcA) (x.srcB) 0 5 (by decide)).trans (take_all (x.srcB)))))
@[simp] theorem tWord_deqA (op : BitVec 8) (x : Slot) :
    fld (tWord op x) 2 1 = BitVec.ofBool x.deqA :=
  (take_hi (x.trig ++ op ++ x.dst ++ x.srcA ++ x.srcB ++ BitVec.ofBool x.deqA ++ BitVec.ofBool x.deqB) (BitVec.ofBool x.bit0) 2 1 (by decide)).trans ((take_hi (x.trig ++ op ++ x.dst ++ x.srcA ++ x.srcB ++ BitVec.ofBool x.deqA) (BitVec.ofBool x.deqB) 1 1 (by decide)).trans ((take_lo (x.trig ++ op ++ x.dst ++ x.srcA ++ x.srcB) (BitVec.ofBool x.deqA) 0 1 (by decide)).trans (take_all (BitVec.ofBool x.deqA))))
@[simp] theorem tWord_deqB (op : BitVec 8) (x : Slot) :
    fld (tWord op x) 1 1 = BitVec.ofBool x.deqB :=
  (take_hi (x.trig ++ op ++ x.dst ++ x.srcA ++ x.srcB ++ BitVec.ofBool x.deqA ++ BitVec.ofBool x.deqB) (BitVec.ofBool x.bit0) 1 1 (by decide)).trans ((take_lo (x.trig ++ op ++ x.dst ++ x.srcA ++ x.srcB ++ BitVec.ofBool x.deqA) (BitVec.ofBool x.deqB) 0 1 (by decide)).trans (take_all (BitVec.ofBool x.deqB)))
@[simp] theorem tWord_bit0 (op : BitVec 8) (x : Slot) :
    fld (tWord op x) 0 1 = BitVec.ofBool x.bit0 :=
  (take_lo (x.trig ++ op ++ x.dst ++ x.srcA ++ x.srcB ++ BitVec.ofBool x.deqA ++ BitVec.ofBool x.deqB) (BitVec.ofBool x.bit0) 0 1 (by decide)).trans (take_all (BitVec.ofBool x.bit0))
/-- A bit is the one-bit field at its place. -/
theorem bit_of_fld (w : Word32) (n : Nat) (b : Bool) (h : fld w n 1 = BitVec.ofBool b) : w.getLsbD n = b := by
  have g := congrArg (fun v : BitVec 1 => v.getLsbD 0) h
  simpa [fld] using g

@[simp] theorem slotFields_tWord (op : BitVec 8) (x : Slot) : slotFields (tWord op x) = x := by
  have h2 := bit_of_fld _ 2 _ (tWord_deqA op x)
  have h1 := bit_of_fld _ 1 _ (tWord_deqB op x)
  have h0 := bit_of_fld _ 0 _ (tWord_bit0 op x)
  cases x
  simp only [slotFields, tWord_trig, tWord_dst, tWord_srcA, tWord_srcB, h2, h1, h0]

/-- Two fields side by side are one field. -/
theorem fields_join {n : Nat} (w : BitVec n) (lo a b : Nat) :
    w.extractLsb' (lo + b) a ++ w.extractLsb' lo b = w.extractLsb' lo (a + b) := by
  ext i hi
  simp only [BitVec.getElem_append, BitVec.getElem_extractLsb']
  split
  · rfl
  · congr 1; omega

/-- The bits above a shift count of an I form. -/
theorem shift_rest (m : BitVec 6) (r1 r2 : GReg) (c : BitVec 6) : fld (iWord m r1 r2 ((0 : BitVec 10) ++ c)) 6 10 = 0 :=
  (take_lo (m ++ r1 ++ r2) ((0 : BitVec 10) ++ c) 6 10 (by decide)).trans
    ((take_hi (0 : BitVec 10) c 6 10 (by decide)).trans (take_all (0 : BitVec 10)))

/-- The shift count of an I form. -/
theorem shift_count (m : BitVec 6) (r1 r2 : GReg) (c : BitVec 6) : fld (iWord m r1 r2 ((0 : BitVec 10) ++ c)) 0 6 = c :=
  (take_lo (m ++ r1 ++ r2) ((0 : BitVec 10) ++ c) 0 6 (by decide)).trans
    ((take_lo (0 : BitVec 10) c 0 6 (by decide)).trans (take_all c))

theorem bv2_cases : ∀ m : BitVec 2, m = 0 ∨ m = 1 ∨ m = 2 ∨ m = 3 := by decide
theorem bv3_cases : ∀ m : BitVec 3, m = 0 ∨ m = 1 ∨ m = 2 ∨ m = 3 ∨ m = 4 ∨ m = 5 ∨ m = 6 ∨ m = 7 := by decide
theorem bv4_cases : ∀ m : BitVec 4, m = 0 ∨ m = 1 ∨ m = 2 ∨ m = 3 ∨ m = 4 ∨ m = 5 ∨ m = 6 ∨ m = 7 ∨ m = 8 ∨ m = 9 ∨
    m = 10 ∨ m = 11 ∨ m = 12 ∨ m = 13 ∨ m = 14 ∨ m = 15 := by decide

/-- A word is the concatenation of its bytes. -/
theorem word_of_bytes (w : Word32) :
    (w.extractLsb' 24 8 ++ w.extractLsb' 16 8 ++ w.extractLsb' 8 8 ++ w.extractLsb' 0 8 : Word32) = w := by
  have h1 := fields_join w 16 8 8
  have h2 := fields_join w 8 16 8
  have h3 := fields_join w 0 24 8
  change (w.extractLsb' (16 + 8) 8 ++ w.extractLsb' 16 8 ++ w.extractLsb' 8 8 ++ w.extractLsb' 0 8 : BitVec (8 + 8 + 8 + 8)) = w
  rw [h1]
  exact (congrArg (fun v : BitVec 24 => (v ++ w.extractLsb' 0 8 : BitVec (24 + 8))) h2).trans (h3.trans (take_all w))

/-- A word that is no prefix decodes from its bytes to what it decodes to as a word. -/
theorem decode_word (w : Word32) (rest : List Byte) (h : isPrefix w = false) :
    decode (wordBytes w ++ rest) = (decodeWord w).map (·, rest) := by
  have hw := word_of_bytes w
  simp only [wordBytes, List.cons_append, List.nil_append, decode, hw, h, decodeSeq]
  rfl

/-- A prefix and the word after it decode from their bytes to the pair. -/
theorem decode_pair (p w : Word32) (rest : List Byte) (h : isPrefix p = true) :
    decode (wordBytes p ++ wordBytes w ++ rest) = .ok (.xiPrefix (fld p 0 26) w, rest) := by
  have hp := word_of_bytes p
  have hw := word_of_bytes w
  simp only [wordBytes, List.cons_append, List.nil_append, decode, hw, hp, h, decodeSeq]
  rfl

end Sys2Proof
end

