-- ==== Sys2Proof/Laws/PerInstr.lean ====
section
/-! SUPPORT. The family Enc: every well-formed instruction that has a word is read back from its own words, with every
operand at every value; one lemma per instruction. -/

set_option linter.unusedSimpArgs false

namespace Sys2Proof.Laws.Enc

/-- What the family says of an instruction: if it is well formed, a slot word decodes back to it as CONF.LOAD reads it, and a
sequencer instruction decodes back to it from its bytes, leaving what follows; an event has no word. -/
def Statement (i : Instr) : Prop :=
  i.wf = true →
  match i.isSlot, i.isEvent with
  | true, _ => ∃ w, encode i = [w] ∧ decodeSlot w = .ok i
  | false, true => encode i = []
  | false, false => ∀ rest, decode ((encode i).flatMap wordBytes ++ rest) = .ok (i, rest)

/-- A sequencer instruction of one word: its word is no prefix and decodes to it. -/
theorem one_word {i : Instr} {w : Word32} (hs : i.isSlot = false) (he : encode i = [w]) (hp : isPrefix w = false)
    (hd : decodeWord w = .ok i) : Statement i := by
  intro _
  have hev : i.isEvent = false := by simp [Instr.isEvent, he]
  simp only [hs, hev, he, List.flatMap_cons, List.flatMap_nil, List.append_nil]
  intro rest
  rw [decode_word w rest hp, hd]
  rfl

/-- A slot instruction: its opcode selects it. -/
theorem slot_word {i : Instr} {op : BitVec 8} {x : Slot} (hs : i.isSlot = true) (he : encode i = [tWord op x])
    (ho : slotOf op x = .ok i) : Statement i := by
  intro hw
  simp only [hs]
  refine ⟨tWord op x, he, ?_⟩
  simp only [decodeSlot, tWord_op, slotFields_tWord, ho, need, hw, if_true]

/-- An event. -/
theorem no_word {i : Instr} (hs : i.isSlot = false) (he : encode i = []) : Statement i := by
  intro _
  have hev : i.isEvent = true := by simp [Instr.isEvent, he]
  simp only [hs, hev, he]


theorem add (gd : GReg) (ga : GReg) (gb : GReg) : Statement (.add gd ga gb) := by
  refine one_word rfl rfl ?_ ?_
  · simp [isPrefix]
  · simp [decodeWord, decodeAlu, need]
theorem sub (gd : GReg) (ga : GReg) (gb : GReg) : Statement (.sub gd ga gb) := by
  refine one_word rfl rfl ?_ ?_
  · simp [isPrefix]
  · simp [decodeWord, decodeAlu, need]
theorem mul (gd : GReg) (ga : GReg) (gb : GReg) : Statement (.mul gd ga gb) := by
  refine one_word rfl rfl ?_ ?_
  · simp [isPrefix]
  · simp [decodeWord, decodeAlu, need]
theorem mulh (gd : GReg) (ga : GReg) (gb : GReg) : Statement (.mulh gd ga gb) := by
  refine one_word rfl rfl ?_ ?_
  · simp [isPrefix]
  · simp [decodeWord, decodeAlu, need]
theorem mulhu (gd : GReg) (ga : GReg) (gb : GReg) : Statement (.mulhu gd ga gb) := by
  refine one_word rfl rfl ?_ ?_
  · simp [isPrefix]
  · simp [decodeWord, decodeAlu, need]
theorem div (gd : GReg) (ga : GReg) (gb : GReg) : Statement (.div gd ga gb) := by
  refine one_word rfl rfl ?_ ?_
  · simp [isPrefix]
  · simp [decodeWord, decodeAlu, need]
theorem divu (gd : GReg) (ga : GReg) (gb : GReg) : Statement (.divu gd ga gb) := by
  refine one_word rfl rfl ?_ ?_
  · simp [isPrefix]
  · simp [decodeWord, decodeAlu, need]
theorem rem (gd : GReg) (ga : GReg) (gb : GReg) : Statement (.rem gd ga gb) := by
  refine one_word rfl rfl ?_ ?_
  · simp [isPrefix]
  · simp [decodeWord, decodeAlu, need]
theorem remu (gd : GReg) (ga : GReg) (gb : GReg) : Statement (.remu gd ga gb) := by
  refine one_word rfl rfl ?_ ?_
  · simp [isPrefix]
  · simp [decodeWord, decodeAlu, need]
theorem and (gd : GReg) (ga : GReg) (gb : GReg) : Statement (.and gd ga gb) := by
  refine one_word rfl rfl ?_ ?_
  · simp [isPrefix]
  · simp [decodeWord, decodeAlu, need]
theorem or (gd : GReg) (ga : GReg) (gb : GReg) : Statement (.or gd ga gb) := by
  refine one_word rfl rfl ?_ ?_
  · simp [isPrefix]
  · simp [decodeWord, decodeAlu, need]
theorem xor (gd : GReg) (ga : GReg) (gb : GReg) : Statement (.xor gd ga gb) := by
  refine one_word rfl rfl ?_ ?_
  · simp [isPrefix]
  · simp [decodeWord, decodeAlu, need]
theorem shl (gd : GReg) (ga : GReg) (gb : GReg) : Statement (.shl gd ga gb) := by
  refine one_word rfl rfl ?_ ?_
  · simp [isPrefix]
  · simp [decodeWord, decodeAlu, need]
theorem shr (gd : GReg) (ga : GReg) (gb : GReg) : Statement (.shr gd ga gb) := by
  refine one_word rfl rfl ?_ ?_
  · simp [isPrefix]
  · simp [decodeWord, decodeAlu, need]
theorem sar (gd : GReg) (ga : GReg) (gb : GReg) : Statement (.sar gd ga gb) := by
  refine one_word rfl rfl ?_ ?_
  · simp [isPrefix]
  · simp [decodeWord, decodeAlu, need]
theorem clz (gd : GReg) (ga : GReg) : Statement (.clz gd ga) := by
  refine one_word rfl rfl ?_ ?_
  · simp [isPrefix]
  · simp [decodeWord, decodeAlu, need]
theorem ctz (gd : GReg) (ga : GReg) : Statement (.ctz gd ga) := by
  refine one_word rfl rfl ?_ ?_
  · simp [isPrefix]
  · simp [decodeWord, decodeAlu, need]
theorem popc (gd : GReg) (ga : GReg) : Statement (.popc gd ga) := by
  refine one_word rfl rfl ?_ ?_
  · simp [isPrefix]
  · simp [decodeWord, decodeAlu, need]
theorem min (gd : GReg) (ga : GReg) (gb : GReg) : Statement (.min gd ga gb) := by
  refine one_word rfl rfl ?_ ?_
  · simp [isPrefix]
  · simp [decodeWord, decodeAlu, need]
theorem max (gd : GReg) (ga : GReg) (gb : GReg) : Statement (.max gd ga gb) := by
  refine one_word rfl rfl ?_ ?_
  · simp [isPrefix]
  · simp [decodeWord, decodeAlu, need]
theorem minu (gd : GReg) (ga : GReg) (gb : GReg) : Statement (.minu gd ga gb) := by
  refine one_word rfl rfl ?_ ?_
  · simp [isPrefix]
  · simp [decodeWord, decodeAlu, need]
theorem maxu (gd : GReg) (ga : GReg) (gb : GReg) : Statement (.maxu gd ga gb) := by
  refine one_word rfl rfl ?_ ?_
  · simp [isPrefix]
  · simp [decodeWord, decodeAlu, need]
theorem slt (gd : GReg) (ga : GReg) (gb : GReg) : Statement (.slt gd ga gb) := by
  refine one_word rfl rfl ?_ ?_
  · simp [isPrefix]
  · simp [decodeWord, decodeAlu, need]
theorem sltu (gd : GReg) (ga : GReg) (gb : GReg) : Statement (.sltu gd ga gb) := by
  refine one_word rfl rfl ?_ ?_
  · simp [isPrefix]
  · simp [decodeWord, decodeAlu, need]
theorem addI (gd : GReg) (ga : GReg) (imm : BitVec 16) : Statement (.addI gd ga imm) := by
  refine one_word rfl rfl ?_ ?_
  · simp [isPrefix]
  · simp [decodeWord, need]
theorem mulI (gd : GReg) (ga : GReg) (imm : BitVec 16) : Statement (.mulI gd ga imm) := by
  refine one_word rfl rfl ?_ ?_
  · simp [isPrefix]
  · simp [decodeWord, need]
theorem andI (gd : GReg) (ga : GReg) (imm : BitVec 16) : Statement (.andI gd ga imm) := by
  refine one_word rfl rfl ?_ ?_
  · simp [isPrefix]
  · simp [decodeWord, need]
theorem orI (gd : GReg) (ga : GReg) (imm : BitVec 16) : Statement (.orI gd ga imm) := by
  refine one_word rfl rfl ?_ ?_
  · simp [isPrefix]
  · simp [decodeWord, need]
theorem xorI (gd : GReg) (ga : GReg) (imm : BitVec 16) : Statement (.xorI gd ga imm) := by
  refine one_word rfl rfl ?_ ?_
  · simp [isPrefix]
  · simp [decodeWord, need]
theorem shlI (gd : GReg) (ga : GReg) (c : BitVec 6) : Statement (.shlI gd ga c) := by
  refine one_word rfl rfl ?_ ?_
  · simp [isPrefix]
  · have h1 : fld (iWord 21#6 gd ga (0#10 ++ c)) 6 10 = 0#10 := shift_rest 21#6 gd ga c
    have h2 : fld (iWord 21#6 gd ga (0#10 ++ c)) 0 6 = c := shift_count 21#6 gd ga c
    simp [decodeWord, need, h1, h2]
theorem shrI (gd : GReg) (ga : GReg) (c : BitVec 6) : Statement (.shrI gd ga c) := by
  refine one_word rfl rfl ?_ ?_
  · simp [isPrefix]
  · have h1 : fld (iWord 22#6 gd ga (0#10 ++ c)) 6 10 = 0#10 := shift_rest 22#6 gd ga c
    have h2 : fld (iWord 22#6 gd ga (0#10 ++ c)) 0 6 = c := shift_count 22#6 gd ga c
    simp [decodeWord, need, h1, h2]
theorem sarI (gd : GReg) (ga : GReg) (c : BitVec 6) : Statement (.sarI gd ga c) := by
  refine one_word rfl rfl ?_ ?_
  · simp [isPrefix]
  · have h1 : fld (iWord 23#6 gd ga (0#10 ++ c)) 6 10 = 0#10 := shift_rest 23#6 gd ga c
    have h2 : fld (iWord 23#6 gd ga (0#10 ++ c)) 0 6 = c := shift_count 23#6 gd ga c
    simp [decodeWord, need, h1, h2]
theorem minI (gd : GReg) (ga : GReg) (imm : BitVec 16) : Statement (.minI gd ga imm) := by
  refine one_word rfl rfl ?_ ?_
  · simp [isPrefix]
  · simp [decodeWord, need]
theorem maxI (gd : GReg) (ga : GReg) (imm : BitVec 16) : Statement (.maxI gd ga imm) := by
  refine one_word rfl rfl ?_ ?_
  · simp [isPrefix]
  · simp [decodeWord, need]
theorem sltI (gd : GReg) (ga : GReg) (imm : BitVec 16) : Statement (.sltI gd ga imm) := by
  refine one_word rfl rfl ?_ ?_
  · simp [isPrefix]
  · simp [decodeWord, need]
theorem sltuI (gd : GReg) (ga : GReg) (imm : BitVec 16) : Statement (.sltuI gd ga imm) := by
  refine one_word rfl rfl ?_ ?_
  · simp [isPrefix]
  · simp [decodeWord, need]
theorem lih (gd : GReg) (ga : GReg) (imm : BitVec 16) : Statement (.lih gd ga imm) := by
  refine one_word rfl rfl ?_ ?_
  · simp [isPrefix]
  · simp [decodeWord, need]
theorem jalr (gd : GReg) (ga : GReg) (imm : BitVec 16) : Statement (.jalr gd ga imm) := by
  refine one_word rfl rfl ?_ ?_
  · simp [isPrefix]
  · simp [decodeWord, need]
theorem mfc (gd : GReg) (num : BitVec 16) : Statement (.mfc gd num) := by
  refine one_word rfl rfl ?_ ?_
  · simp [isPrefix]
  · simp [decodeWord, need]
theorem mtc (ga : GReg) (num : BitVec 16) : Statement (.mtc ga num) := by
  refine one_word rfl rfl ?_ ?_
  · simp [isPrefix]
  · simp [decodeWord, need]
theorem j (off : BitVec 26) : Statement (.j off) := by
  refine one_word rfl rfl ?_ ?_
  · simp [isPrefix]
  · simp [decodeWord, need]
theorem jal (off : BitVec 26) : Statement (.jal off) := by
  refine one_word rfl rfl ?_ ?_
  · simp [isPrefix]
  · simp [decodeWord, need]
theorem beq (ga : GReg) (gb : GReg) (off : BitVec 16) : Statement (.beq ga gb off) := by
  refine one_word rfl rfl ?_ ?_
  · simp [isPrefix]
  · simp [decodeWord, need]
theorem bne (ga : GReg) (gb : GReg) (off : BitVec 16) : Statement (.bne ga gb off) := by
  refine one_word rfl rfl ?_ ?_
  · simp [isPrefix]
  · simp [decodeWord, need]
theorem blt (ga : GReg) (gb : GReg) (off : BitVec 16) : Statement (.blt ga gb off) := by
  refine one_word rfl rfl ?_ ?_
  · simp [isPrefix]
  · simp [decodeWord, need]
theorem bge (ga : GReg) (gb : GReg) (off : BitVec 16) : Statement (.bge ga gb off) := by
  refine one_word rfl rfl ?_ ?_
  · simp [isPrefix]
  · simp [decodeWord, need]
theorem bltu (ga : GReg) (gb : GReg) (off : BitVec 16) : Statement (.bltu ga gb off) := by
  refine one_word rfl rfl ?_ ?_
  · simp [isPrefix]
  · simp [decodeWord, need]
theorem bgeu (ga : GReg) (gb : GReg) (off : BitVec 16) : Statement (.bgeu ga gb off) := by
  refine one_word rfl rfl ?_ ?_
  · simp [isPrefix]
  · simp [decodeWord, need]
theorem trap (code : BitVec 16) : Statement (.trap code) := by
  refine one_word rfl rfl ?_ ?_
  · simp [isPrefix]
  · simp [decodeWord, need]
theorem svc (code : BitVec 16) : Statement (.svc code) := by
  refine one_word rfl rfl ?_ ?_
  · simp [isPrefix]
  · simp [decodeWord, need]
theorem xiPrefix (hi : BitVec 26) (w : Word32) : Statement (.xiPrefix hi w) := by
  intro _ rest
  exact (decode_pair (jWord 0x3F hi) w rest (by simp [isPrefix])).trans (by simp)
theorem ld (size : BitVec 2) (gd : GReg) (ga : GReg) (disp : BitVec 11) : Statement (.ld size gd ga disp) := by
  refine one_word rfl rfl ?_ ?_
  · simp [isPrefix]
  · simp [decodeWord, need]
theorem ldW (size : BitVec 2) (gd : GReg) (ga : GReg) (disp : BitVec 11) : Statement (.ldW size gd ga disp) := by
  refine one_word rfl rfl ?_ ?_
  · simp [isPrefix]
  · simp [decodeWord, need]
theorem ldC (size : BitVec 2) (gd : GReg) (ga : GReg) (disp : BitVec 11) : Statement (.ldC size gd ga disp) := by
  refine one_word rfl rfl ?_ ?_
  · simp [isPrefix]
  · simp [decodeWord, need]
theorem st (size : BitVec 2) (gd : GReg) (ga : GReg) (disp : BitVec 11) : Statement (.st size gd ga disp) := by
  refine one_word rfl rfl ?_ ?_
  · simp [isPrefix]
  · simp [decodeWord, need]
theorem stF (size : BitVec 2) (gd : GReg) (ga : GReg) (disp : BitVec 11) : Statement (.stF size gd ga disp) := by
  refine one_word rfl rfl ?_ ?_
  · simp [isPrefix]
  · simp [decodeWord, need]
theorem stX (size : BitVec 2) (gd : GReg) (ga : GReg) (disp : BitVec 11) : Statement (.stX size gd ga disp) := by
  refine one_word rfl rfl ?_ ?_
  · simp [isPrefix]
  · simp [decodeWord, need]
theorem feget (gd : GReg) (ga : GReg) (disp : BitVec 11) : Statement (.feget gd ga disp) := by
  refine one_word rfl rfl ?_ ?_
  · simp [isPrefix]
  · simp [decodeWord, need]
theorem feset (gd : GReg) (ga : GReg) (disp : BitVec 11) : Statement (.feset gd ga disp) := by
  refine one_word rfl rfl ?_ ?_
  · simp [isPrefix]
  · simp [decodeWord, need]
theorem prefL2 (ga : GReg) (disp : BitVec 11) : Statement (.prefL2 ga disp) := by
  refine one_word rfl rfl ?_ ?_
  · simp [isPrefix]
  · simp [decodeWord, need]
theorem prefL1 (ga : GReg) (disp : BitVec 11) : Statement (.prefL1 ga disp) := by
  refine one_word rfl rfl ?_ ?_
  · simp [isPrefix]
  · simp [decodeWord, need]
theorem amoAdd (dbl : Bool) (gd : GReg) (ga : GReg) (gb : GReg) : Statement (.amoAdd dbl gd ga gb) := by
  refine one_word rfl rfl ?_ ?_
  · simp [isPrefix]
  · cases dbl <;> simp [decodeWord, decodeSync, need, amoSub]
theorem amoAnd (dbl : Bool) (gd : GReg) (ga : GReg) (gb : GReg) : Statement (.amoAnd dbl gd ga gb) := by
  refine one_word rfl rfl ?_ ?_
  · simp [isPrefix]
  · cases dbl <;> simp [decodeWord, decodeSync, need, amoSub]
theorem amoOr (dbl : Bool) (gd : GReg) (ga : GReg) (gb : GReg) : Statement (.amoOr dbl gd ga gb) := by
  refine one_word rfl rfl ?_ ?_
  · simp [isPrefix]
  · cases dbl <;> simp [decodeWord, decodeSync, need, amoSub]
theorem amoXor (dbl : Bool) (gd : GReg) (ga : GReg) (gb : GReg) : Statement (.amoXor dbl gd ga gb) := by
  refine one_word rfl rfl ?_ ?_
  · simp [isPrefix]
  · cases dbl <;> simp [decodeWord, decodeSync, need, amoSub]
theorem amoMin (dbl : Bool) (gd : GReg) (ga : GReg) (gb : GReg) : Statement (.amoMin dbl gd ga gb) := by
  refine one_word rfl rfl ?_ ?_
  · simp [isPrefix]
  · cases dbl <;> simp [decodeWord, decodeSync, need, amoSub]
theorem amoMax (dbl : Bool) (gd : GReg) (ga : GReg) (gb : GReg) : Statement (.amoMax dbl gd ga gb) := by
  refine one_word rfl rfl ?_ ?_
  · simp [isPrefix]
  · cases dbl <;> simp [decodeWord, decodeSync, need, amoSub]
theorem amoMinu (dbl : Bool) (gd : GReg) (ga : GReg) (gb : GReg) : Statement (.amoMinu dbl gd ga gb) := by
  refine one_word rfl rfl ?_ ?_
  · simp [isPrefix]
  · cases dbl <;> simp [decodeWord, decodeSync, need, amoSub]
theorem amoMaxu (dbl : Bool) (gd : GReg) (ga : GReg) (gb : GReg) : Statement (.amoMaxu dbl gd ga gb) := by
  refine one_word rfl rfl ?_ ?_
  · simp [isPrefix]
  · cases dbl <;> simp [decodeWord, decodeSync, need, amoSub]
theorem amoSwap (dbl : Bool) (gd : GReg) (ga : GReg) (gb : GReg) : Statement (.amoSwap dbl gd ga gb) := by
  refine one_word rfl rfl ?_ ?_
  · simp [isPrefix]
  · cases dbl <;> simp [decodeWord, decodeSync, need, amoSub]
theorem amoFadd (dbl : Bool) (gd : GReg) (ga : GReg) (gb : GReg) : Statement (.amoFadd dbl gd ga gb) := by
  refine one_word rfl rfl ?_ ?_
  · simp [isPrefix]
  · cases dbl <;> simp [decodeWord, decodeSync, need, amoSub]
theorem cas (dbl : Bool) (gd : GReg) (ga : GReg) (gb : GReg) (gc : GReg) : Statement (.cas dbl gd ga gb gc) := by
  refine one_word rfl rfl ?_ ?_
  · simp [isPrefix]
  · cases dbl <;> simp [decodeWord, decodeSync, need, amoSub]
theorem samoF32 (ga : GReg) (gb : GReg) (gc : GReg) : Statement (.samoF32 ga gb gc) := by
  refine one_word rfl rfl ?_ ?_
  · simp [isPrefix]
  · simp [decodeWord, decodeSync, need, amoSub]
theorem samoF64 (ga : GReg) (gb : GReg) (gc : GReg) : Statement (.samoF64 ga gb gc) := by
  refine one_word rfl rfl ?_ ?_
  · simp [isPrefix]
  · simp [decodeWord, decodeSync, need, amoSub]
theorem samoI64 (ga : GReg) (gb : GReg) (gc : GReg) : Statement (.samoI64 ga gb gc) := by
  refine one_word rfl rfl ?_ ?_
  · simp [isPrefix]
  · simp [decodeWord, decodeSync, need, amoSub]
theorem fence : Statement .fence := by
  refine one_word rfl rfl ?_ ?_
  · simp [isPrefix]
  · simp [decodeWord, decodeSync, need, amoSub]
theorem fenceEng : Statement .fenceEng := by
  refine one_word rfl rfl ?_ ?_
  · simp [isPrefix]
  · simp [decodeWord, decodeSync, need, amoSub]
theorem flush (ga : GReg) (gb : GReg) : Statement (.flush ga gb) := by
  refine one_word rfl rfl ?_ ?_
  · simp [isPrefix]
  · simp [decodeWord, decodeSync, need, amoSub]
theorem discard (ga : GReg) : Statement (.discard ga) := by
  refine one_word rfl rfl ?_ ?_
  · simp [isPrefix]
  · simp [decodeWord, decodeSync, need, amoSub]
theorem bcopy (gd : GReg) (ga : GReg) (gb : GReg) (gc : GReg) : Statement (.bcopy gd ga gb gc) := by
  refine one_word rfl rfl ?_ ?_
  · simp [isPrefix]
  · simp [decodeWord, decodeSync, need, amoSub]
theorem confLoad (ga : GReg) : Statement (.confLoad ga) := by
  refine one_word rfl rfl ?_ ?_
  · simp [isPrefix]
  · simp [decodeWord, decodeStream, need, amoSub]
theorem confSwitch (ga : GReg) : Statement (.confSwitch ga) := by
  refine one_word rfl rfl ?_ ?_
  · simp [isPrefix]
  · simp [decodeWord, decodeStream, need, amoSub]
theorem confWait (gd : GReg) : Statement (.confWait gd) := by
  refine one_word rfl rfl ?_ ?_
  · simp [isPrefix]
  · simp [decodeWord, decodeStream, need, amoSub]
theorem sparge : Statement .sparge := by
  refine one_word rfl rfl ?_ ?_
  · simp [isPrefix]
  · simp [decodeWord, decodeStream, need, amoSub]
theorem sbind (ga : GReg) (gb : GReg) : Statement (.sbind ga gb) := by
  refine one_word rfl rfl ?_ ?_
  · simp [isPrefix]
  · simp [decodeWord, decodeStream, need, amoSub]
theorem scopy (ga : GReg) (gb : GReg) : Statement (.scopy ga gb) := by
  refine one_word rfl rfl ?_ ?_
  · simp [isPrefix]
  · simp [decodeWord, decodeStream, need, amoSub]
theorem smcast (ga : GReg) (gb : GReg) (gc : GReg) : Statement (.smcast ga gb gc) := by
  refine one_word rfl rfl ?_ ?_
  · simp [isPrefix]
  · simp [decodeWord, decodeStream, need, amoSub]
theorem permLoad (ga : GReg) (gb : GReg) : Statement (.permLoad ga gb) := by
  refine one_word rfl rfl ?_ ?_
  · simp [isPrefix]
  · simp [decodeWord, decodeStream, need, amoSub]
theorem tdesc (ga : GReg) : Statement (.tdesc ga) := by
  refine one_word rfl rfl ?_ ?_
  · simp [isPrefix]
  · simp [decodeWord, decodeStream, need, amoSub]
theorem wopen (ga : GReg) : Statement (.wopen ga) := by
  refine one_word rfl rfl ?_ ?_
  · simp [isPrefix]
  · simp [decodeWord, decodeWatch, need, amoSub]
theorem wstep (gd : GReg) (ga : GReg) : Statement (.wstep gd ga) := by
  refine one_word rfl rfl ?_ ?_
  · simp [isPrefix]
  · simp [decodeWord, decodeWatch, need, amoSub]
theorem wclose (ga : GReg) : Statement (.wclose ga) := by
  refine one_word rfl rfl ?_ ?_
  · simp [isPrefix]
  · simp [decodeWord, decodeWatch, need, amoSub]
theorem wstat (gd : GReg) (ga : GReg) : Statement (.wstat gd ga) := by
  refine one_word rfl rfl ?_ ?_
  · simp [isPrefix]
  · simp [decodeWord, decodeWatch, need, amoSub]
theorem launch (ga : GReg) : Statement (.launch ga) := by
  refine one_word rfl rfl ?_ ?_
  · simp [isPrefix]
  · simp [decodeWord, decodeWork, need, amoSub]
theorem graphReplay (gd : GReg) (ga : GReg) (gb : GReg) : Statement (.graphReplay gd ga gb) := by
  refine one_word rfl rfl ?_ ?_
  · simp [isPrefix]
  · simp [decodeWord, decodeWork, need, amoSub]
theorem cancel (ga : GReg) : Statement (.cancel ga) := by
  refine one_word rfl rfl ?_ ?_
  · simp [isPrefix]
  · simp [decodeWord, decodeWork, need, amoSub]
theorem cancelE (ga : GReg) : Statement (.cancelE ga) := by
  refine one_word rfl rfl ?_ ?_
  · simp [isPrefix]
  · simp [decodeWord, decodeWork, need, amoSub]
theorem fork (ga : GReg) (gb : GReg) (gc : GReg) : Statement (.fork ga gb gc) := by
  refine one_word rfl rfl ?_ ?_
  · simp [isPrefix]
  · simp [decodeWord, decodeWork, need, amoSub]
theorem join (gd : GReg) (ga : GReg) : Statement (.join gd ga) := by
  refine one_word rfl rfl ?_ ?_
  · simp [isPrefix]
  · simp [decodeWord, decodeWork, need, amoSub]
theorem steal (gd : GReg) : Statement (.steal gd) := by
  refine one_word rfl rfl ?_ ?_
  · simp [isPrefix]
  · simp [decodeWord, decodeWork, need, amoSub]
theorem yield : Statement .yield := by
  refine one_word rfl rfl ?_ ?_
  · simp [isPrefix]
  · simp [decodeWord, decodeWork, need, amoSub]
theorem exit : Statement .exit := by
  refine one_word rfl rfl ?_ ?_
  · simp [isPrefix]
  · simp [decodeWord, decodeWork, need, amoSub]
theorem rett : Statement .rett := by
  refine one_word rfl rfl ?_ ?_
  · simp [isPrefix]
  · simp [decodeWord, decodeSystem, need, amoSub]
theorem ctxsave (gd : GReg) (ga : GReg) (gb : GReg) : Statement (.ctxsave gd ga gb) := by
  refine one_word rfl rfl ?_ ?_
  · simp [isPrefix]
  · simp [decodeWord, decodeSystem, need, amoSub]
theorem ctxload (ga : GReg) (gb : GReg) : Statement (.ctxload ga gb) := by
  refine one_word rfl rfl ?_ ?_
  · simp [isPrefix]
  · simp [decodeWord, decodeSystem, need, amoSub]
theorem tlbinv (ga : GReg) (gb : GReg) : Statement (.tlbinv ga gb) := by
  refine one_word rfl rfl ?_ ?_
  · simp [isPrefix]
  · simp [decodeWord, decodeSystem, need, amoSub]
theorem strandInstructionComplete (k : Nat) : Statement (.strandInstructionComplete k) := no_word rfl rfl
theorem vadd (f : BitVec 3) (x : Slot) : Statement (.vadd f x) := by
  refine slot_word rfl rfl ?_
  rcases bv3_cases f with rfl | rfl | rfl | rfl | rfl | rfl | rfl | rfl <;> rfl
theorem vsub (f : BitVec 3) (x : Slot) : Statement (.vsub f x) := by
  refine slot_word rfl rfl ?_
  rcases bv3_cases f with rfl | rfl | rfl | rfl | rfl | rfl | rfl | rfl <;> rfl
theorem vmul (f : BitVec 3) (x : Slot) : Statement (.vmul f x) := by
  refine slot_word rfl rfl ?_
  rcases bv3_cases f with rfl | rfl | rfl | rfl | rfl | rfl | rfl | rfl <;> rfl
theorem vmin (f : BitVec 3) (x : Slot) : Statement (.vmin f x) := by
  refine slot_word rfl rfl ?_
  rcases bv3_cases f with rfl | rfl | rfl | rfl | rfl | rfl | rfl | rfl <;> rfl
theorem vmax (f : BitVec 3) (x : Slot) : Statement (.vmax f x) := by
  refine slot_word rfl rfl ?_
  rcases bv3_cases f with rfl | rfl | rfl | rfl | rfl | rfl | rfl | rfl <;> rfl
theorem vabs (f : BitVec 3) (x : Slot) : Statement (.vabs f x) := by
  refine slot_word rfl rfl ?_
  rcases bv3_cases f with rfl | rfl | rfl | rfl | rfl | rfl | rfl | rfl <;> rfl
theorem vneg (f : BitVec 3) (x : Slot) : Statement (.vneg f x) := by
  refine slot_word rfl rfl ?_
  rcases bv3_cases f with rfl | rfl | rfl | rfl | rfl | rfl | rfl | rfl <;> rfl
theorem fma (f : BitVec 3) (x : Slot) : Statement (.fma f x) := by
  refine slot_word rfl rfl ?_
  rcases bv3_cases f with rfl | rfl | rfl | rfl | rfl | rfl | rfl | rfl <;> rfl
theorem fms (f : BitVec 3) (x : Slot) : Statement (.fms f x) := by
  refine slot_word rfl rfl ?_
  rcases bv3_cases f with rfl | rfl | rfl | rfl | rfl | rfl | rfl | rfl <;> rfl
theorem radd (f : BitVec 3) (x : Slot) : Statement (.radd f x) := by
  refine slot_word rfl rfl ?_
  rcases bv3_cases f with rfl | rfl | rfl | rfl | rfl | rfl | rfl | rfl <;> rfl
theorem rmax (f : BitVec 3) (x : Slot) : Statement (.rmax f x) := by
  refine slot_word rfl rfl ?_
  rcases bv3_cases f with rfl | rfl | rfl | rfl | rfl | rfl | rfl | rfl <;> rfl
theorem rmin (f : BitVec 3) (x : Slot) : Statement (.rmin f x) := by
  refine slot_word rfl rfl ?_
  rcases bv3_cases f with rfl | rfl | rfl | rfl | rfl | rfl | rfl | rfl <;> rfl
theorem rmaxabs (f : BitVec 3) (x : Slot) : Statement (.rmaxabs f x) := by
  refine slot_word rfl rfl ?_
  rcases bv3_cases f with rfl | rfl | rfl | rfl | rfl | rfl | rfl | rfl <;> rfl
theorem vand (f : BitVec 3) (x : Slot) : Statement (.vand f x) := by
  refine slot_word rfl rfl ?_
  rcases bv3_cases f with rfl | rfl | rfl | rfl | rfl | rfl | rfl | rfl <;> rfl
theorem vor (f : BitVec 3) (x : Slot) : Statement (.vor f x) := by
  refine slot_word rfl rfl ?_
  rcases bv3_cases f with rfl | rfl | rfl | rfl | rfl | rfl | rfl | rfl <;> rfl
theorem vxor (f : BitVec 3) (x : Slot) : Statement (.vxor f x) := by
  refine slot_word rfl rfl ?_
  rcases bv3_cases f with rfl | rfl | rfl | rfl | rfl | rfl | rfl | rfl <;> rfl
theorem cvtNamedSource (src : BitVec 4) (mode : BitVec 2) (x : Slot) : Statement (.cvtNamedSource src mode x) := by
  refine slot_word rfl rfl ?_
  rcases bv4_cases src with rfl | rfl | rfl | rfl | rfl | rfl | rfl | rfl | rfl | rfl | rfl | rfl | rfl | rfl | rfl | rfl <;> rcases bv2_cases mode with rfl | rfl | rfl | rfl <;> rfl
theorem cvt (mode : BitVec 2) (x : Slot) : Statement (.cvt mode x) := by
  refine slot_word rfl rfl ?_
  rcases bv2_cases mode with rfl | rfl | rfl | rfl <;> rfl
theorem qnt (dst : BitVec 2) (x : Slot) : Statement (.qnt dst x) := by
  refine slot_word rfl rfl ?_
  rcases bv2_cases dst with rfl | rfl | rfl | rfl <;> rfl
theorem scalex (f : BitVec 2) (x : Slot) : Statement (.scalex f x) := by
  refine slot_word rfl rfl ?_
  rcases bv2_cases f with rfl | rfl | rfl | rfl <;> rfl
theorem vshl (x : Slot) : Statement (.vshl x) := slot_word rfl rfl rfl
theorem vshr (x : Slot) : Statement (.vshr x) := slot_word rfl rfl rfl
theorem vsar (x : Slot) : Statement (.vsar x) := slot_word rfl rfl rfl
theorem fdiv (dbl : Bool) (x : Slot) : Statement (.fdiv dbl x) := by
  refine slot_word rfl rfl ?_
  cases dbl <;> rfl
theorem fsqrt (dbl : Bool) (x : Slot) : Statement (.fsqrt dbl x) := by
  refine slot_word rfl rfl ?_
  cases dbl <;> rfl
theorem rcp (x : Slot) : Statement (.rcp x) := slot_word rfl rfl rfl
theorem rsq (x : Slot) : Statement (.rsq x) := slot_word rfl rfl rfl
theorem exp2 (x : Slot) : Statement (.exp2 x) := slot_word rfl rfl rfl
theorem log2 (x : Slot) : Statement (.log2 x) := slot_word rfl rfl rfl
theorem sinpi (x : Slot) : Statement (.sinpi x) := slot_word rfl rfl rfl
theorem cospi (x : Slot) : Statement (.cospi x) := slot_word rfl rfl rfl
theorem tanh (x : Slot) : Statement (.tanh x) := slot_word rfl rfl rfl
theorem mov (x : Slot) : Statement (.mov x) := slot_word rfl rfl rfl
theorem retag (x : Slot) : Statement (.retag x) := slot_word rfl rfl rfl
theorem vbcast (x : Slot) : Statement (.vbcast x) := slot_word rfl rfl rfl
theorem vshuf (x : Slot) : Statement (.vshuf x) := slot_word rfl rfl rfl
theorem vsel (x : Slot) : Statement (.vsel x) := slot_word rfl rfl rfl
theorem pset (x : Slot) : Statement (.pset x) := slot_word rfl rfl rfl
theorem pcmpeq (x : Slot) : Statement (.pcmpeq x) := slot_word rfl rfl rfl
theorem pcmplt (x : Slot) : Statement (.pcmplt x) := slot_word rfl rfl rfl
theorem pcmple (x : Slot) : Statement (.pcmple x) := slot_word rfl rfl rfl
theorem ldl (x : Slot) : Statement (.ldl x) := slot_word rfl rfl rfl
theorem stl (x : Slot) : Statement (.stl x) := slot_word rfl rfl rfl
theorem nop (x : Slot) : Statement (.nop x) := slot_word rfl rfl rfl
theorem efault (x : Slot) : Statement (.efault x) := slot_word rfl rfl rfl
theorem lateFiringFault (e : Nat) : Statement (.lateFiringFault e) := no_word rfl rfl
theorem evdec (x : Slot) : Statement (.evdec x) := slot_word rfl rfl rfl
theorem evmac (x : Slot) : Statement (.evmac x) := slot_word rfl rfl rfl
theorem mcfg (x : Slot) : Statement (.mcfg x) := slot_word rfl rfl rfl
theorem mzero (x : Slot) : Statement (.mzero x) := slot_word rfl rfl rfl
theorem mma (x : Slot) : Statement (.mma x) := slot_word rfl rfl rfl
theorem mmas (x : Slot) : Statement (.mmas x) := slot_word rfl rfl rfl
theorem mread (x : Slot) : Statement (.mread x) := slot_word rfl rfl rfl
theorem mrel (x : Slot) : Statement (.mrel x) := slot_word rfl rfl rfl
theorem mwrite (x : Slot) : Statement (.mwrite x) := slot_word rfl rfl rfl
theorem slotAgeLift (e : Nat) (n : Nat) : Statement (.slotAgeLift e n) := no_word rfl rfl
theorem tokenArrive (e : Nat) (ch : Nat) : Statement (.tokenArrive e ch) := no_word rfl rfl
theorem outputTokenSend (e : Nat) (ch : Nat) : Statement (.outputTokenSend e ch) := no_word rfl rfl
theorem planeFlip (e : Nat) : Statement (.planeFlip e) := no_word rfl rfl
theorem elementComplete (e : Nat) : Statement (.elementComplete e) := no_word rfl rfl
theorem generatorTransfer (t : Nat) (g : Nat) : Statement (.generatorTransfer t g) := no_word rfl rfl
theorem generatorReexamine (t : Nat) (g : Nat) : Statement (.generatorReexamine t g) := no_word rfl rfl
theorem bufferProducerClaim (t : Nat) (b : Nat) : Statement (.bufferProducerClaim t b) := no_word rfl rfl
theorem bufferProducerComplete (t : Nat) (b : Nat) : Statement (.bufferProducerComplete t b) := no_word rfl rfl
theorem bufferConsumerClaim (t : Nat) (b : Nat) : Statement (.bufferConsumerClaim t b) := no_word rfl rfl
theorem bufferConsumerRelease (t : Nat) (b : Nat) : Statement (.bufferConsumerRelease t b) := no_word rfl rfl
theorem landingWrite (t : Nat) (g : Nat) : Statement (.landingWrite t g) := no_word rfl rfl
theorem copyTransfer (p : Nat) (id : Nat) : Statement (.copyTransfer p id) := no_word rfl rfl
theorem copyFinish (p : Nat) (id : Nat) : Statement (.copyFinish p id) := no_word rfl rfl
theorem followStartToken (p : Nat) (id : Nat) : Statement (.followStartToken p id) := no_word rfl rfl
theorem historyCompress (p : Nat) (id : Nat) : Statement (.historyCompress p id) := no_word rfl rfl
theorem homeSliceAccess (k : Nat) (n : Nat) : Statement (.homeSliceAccess k n) := no_word rfl rfl
theorem accessReexamine (u : Waiter) : Statement (.accessReexamine u) := no_word rfl rfl
theorem unlistedReexamine (u : Waiter) : Statement (.unlistedReexamine u) := no_word rfl rfl
theorem l1WriteAck (k : Nat) (n : Nat) : Statement (.l1WriteAck k n) := no_word rfl rfl
theorem l2LineEvict (h : Nat) (line : Nat) : Statement (.l2LineEvict h line) := no_word rfl rfl
theorem samoContribution (k : Nat) : Statement (.samoContribution k) := no_word rfl rfl
theorem completionDecrement : Statement .completionDecrement := no_word rfl rfl
theorem multicastRequest (p : Nat) (id : Nat) : Statement (.multicastRequest p id) := no_word rfl rfl
theorem multicastLineSend (h : Nat) (m : Nat) : Statement (.multicastLineSend h m) := no_word rfl rfl
theorem mergeWindowExpire (h : Nat) (m : Nat) : Statement (.mergeWindowExpire h m) := no_word rfl rfl
theorem phaseStart (j : Nat) : Statement (.phaseStart j) := no_word rfl rfl
theorem dispatchPass : Statement .dispatchPass := no_word rfl rfl
theorem classTargetTimeout (l : Nat) : Statement (.classTargetTimeout l) := no_word rfl rfl
theorem preempt (l : Nat) : Statement (.preempt l) := no_word rfl rfl
theorem launchComplete (l : Nat) : Statement (.launchComplete l) := no_word rfl rfl
theorem taskPop (k : Nat) : Statement (.taskPop k) := no_word rfl rfl
theorem trapRecordPost : Statement .trapRecordPost := no_word rfl rfl
theorem windowCommit (l : Nat) : Statement (.windowCommit l) := no_word rfl rfl
theorem windowVoid (l : Nat) : Statement (.windowVoid l) := no_word rfl rfl
theorem windowRerun (l : Nat) : Statement (.windowRerun l) := no_word rfl rfl
theorem governorWindow (c : Nat) : Statement (.governorWindow c) := no_word rfl rfl
theorem roundStart (l : Nat) (g : Nat) : Statement (.roundStart l g) := no_word rfl rfl
theorem subslotEmit (l : Nat) (g : Nat) : Statement (.subslotEmit l g) := no_word rfl rfl
theorem eventPacketReceive (l : Nat) (g : Nat) (r : Nat) : Statement (.eventPacketReceive l g r) := no_word rfl rfl
theorem subslotJudge (l : Nat) (g : Nat) : Statement (.subslotJudge l g) := no_word rfl rfl
theorem roundApply (l : Nat) (g : Nat) : Statement (.roundApply l g) := no_word rfl rfl
theorem stepEnd (l : Nat) (g : Nat) : Statement (.stepEnd l g) := no_word rfl rfl
theorem decoderEnqueue (l : Nat) (g : Nat) (d : Nat) : Statement (.decoderEnqueue l g d) := no_word rfl rfl
theorem sqResumeResume (k : Nat) (v : Word64) : Statement (.sqResumeResume k v) := no_word rfl rfl
theorem sqResumeEnd (k : Nat) (v : Word64) : Statement (.sqResumeEnd k v) := no_word rfl rfl
theorem sqResumeDeliver (k : Nat) (v : Word64) : Statement (.sqResumeDeliver k v) := no_word rfl rfl
theorem clPresentWrite (c : Nat) (v : Word64) : Statement (.clPresentWrite c v) := no_word rfl rfl
theorem clIssuebudgetWrite (c : Nat) (v : Word64) : Statement (.clIssuebudgetWrite c v) := no_word rfl rfl
theorem dvAccgenWrite (v : Word64) : Statement (.dvAccgenWrite v) := no_word rfl rfl
theorem controlRegisterWrite (r : RegRef) (v : Word64) : Statement (.controlRegisterWrite r v) := no_word rfl rfl
theorem hostMemoryWrite (f : Nat) (o : BitVec 41) (d : List Byte) : Statement (.hostMemoryWrite f o d) := no_word rfl rfl
theorem hostMemoryRead (f : Nat) (o : BitVec 41) (n : Nat) : Statement (.hostMemoryRead f o n) := no_word rfl rfl
theorem hostFillWrite (f : Nat) (o : BitVec 41) (d : List Byte) : Statement (.hostFillWrite f o d) := no_word rfl rfl
theorem hostFillRead (f : Nat) (o : BitVec 41) (n : Nat) : Statement (.hostFillRead f o n) := no_word rfl rfl
theorem cwWaitArm (f : Nat) (n : Nat) (v : Word64) : Statement (.cwWaitArm f n v) := no_word rfl rfl
theorem cwWaitComplete (f : Nat) (n : Nat) : Statement (.cwWaitComplete f n) := no_word rfl rfl
theorem cwControlWarmReset (f : Nat) (key : BitVec 56) : Statement (.cwControlWarmReset f key) := no_word rfl rfl
theorem cwControlFreeze (f : Nat) (key : BitVec 56) : Statement (.cwControlFreeze f key) := no_word rfl rfl
theorem cwControlBoot (f : Nat) (key : BitVec 56) (img : Nat) : Statement (.cwControlBoot f key img) := no_word rfl rfl
theorem cwPowercapWrite (f : Nat) (cap : BitVec 16) : Statement (.cwPowercapWrite f cap) := no_word rfl rfl
theorem cwAttnonceWrite (f : Nat) (nonce : BitVec 256) : Statement (.cwAttnonceWrite f nonce) := no_word rfl rfl
theorem coldReset : Statement .coldReset := no_word rfl rfl
theorem pfHotReset : Statement .pfHotReset := no_word rfl rfl
theorem vfFlr (f : Nat) : Statement (.vfFlr f) := no_word rfl rfl
theorem powerGovernorTick : Statement .powerGovernorTick := no_word rfl rfl
theorem unitFailure (u : BitVec 16) : Statement (.unitFailure u) := no_word rfl rfl
theorem portalRequest (p : Nat) : Statement (.portalRequest p) := no_word rfl rfl
theorem portalReply (p : Nat) : Statement (.portalReply p) := no_word rfl rfl
theorem portalTimeout (p : Nat) : Statement (.portalTimeout p) := no_word rfl rfl
theorem portalPutData (p : Nat) : Statement (.portalPutData p) := no_word rfl rfl
theorem portalPutMarker (p : Nat) : Statement (.portalPutMarker p) := no_word rfl rfl
theorem peerRequest (u : Nat) (r : PeerReq) : Statement (.peerRequest u r) := no_word rfl rfl
theorem illegalInstruction (w : Word32) : Statement (.illegalInstruction w) := no_word rfl rfl
theorem instructionFetchFault (cause : BitVec 8) (tval : Word64) : Statement (.instructionFetchFault cause tval) := no_word rfl rfl

end Sys2Proof.Laws.Enc
end

