-- ==== Sys2Proof/Safety.lean ====
section
/-! DEFINITION. What counts as a well-kept state: the invariant that every step keeps, in the terms the statements use. -/

namespace Sys2Proof.Machine

/-- Strand k as its placement and the register map have it: PRIV only on a strand reserved for the supervisor (02 R27; 06
R90), and bits 1:0 of SQ_EPC and SQ_TVEC zero (06 R91). -/
def Strand.kept (k : Nat) (x : Strand) : Prop :=
  (x.priv = true → superStrand k = true) ∧ x.epc &&& 3 = 0 ∧ x.tvec &&& 3 = 0

/-- The table of strands is kept. -/
def strandsKept (l : List (Nat × Strand)) : Prop := ∀ k, (tabGet Strand.reset l k).kept k

/-- The module power limit lies within 600 to 3,600 W (23 R343). -/
def Device.kept (d : Device) : Prop := 600 ≤ d.powerCap.toNat ∧ d.powerCap.toNat ≤ 3600

/-- The invariant: device memory is in canonical form, every strand is kept, and the power limit is in its range. -/
structure Kept (s : State) : Prop where
  mem     : s.mem.wf = true
  strands : strandsKept s.strands
  dv      : s.dv.kept

/-! ### Words for what one instruction of a strand changes -/

/-- Only strand k may differ between s and t. -/
def State.onlyStrand (s t : State) (k : Nat) : Prop :=
  { t with strands := s.strands } = s ∧ ∀ j, j ≠ k → t.strand j = s.strand j

/-- The address of the instruction word: after its prefix in a pair (04 R61). -/
def State.at (s : State) : Word64 := s.cur.pc + (if s.issue.hi.isSome then 4 else 0)

/-- The address of the word after the instruction or the pair. -/
def State.after (s : State) : Word64 := s.cur.pc + (if s.issue.hi.isSome then 8 else 4)

/-- The issuing strand goes on at pc with v in gd (nothing in g0), and nothing else of the machine changes. -/
def State.wrote (s t : State) (gd : GReg) (v pc : Word64) : Prop :=
  s.onlyStrand t s.issue.k ∧
  { t.cur with g := s.cur.g } = { s.cur with pc := pc, mode := .ready, pend := none } ∧
  ∀ q, t.reg q = if q = 0 then 0 else if q = gd then v else s.reg q

/-- The issuing strand goes on at pc, and nothing else of the machine changes. -/
def State.went (s t : State) (pc : Word64) : Prop :=
  s.onlyStrand t s.issue.k ∧ t.cur = { s.cur with pc := pc, mode := .ready, pend := none }

/-- A 16-bit immediate as a signed number: a prefix's bits stand above it (04 R59, R62). -/
def State.immInt (s : State) (imm : BitVec 16) : Int :=
  match s.issue.hi with
  | none => imm.toInt
  | some h => h.toInt * 65536 + imm.toNat

/-- A 16-bit immediate as an unsigned number (04 R59, R62). -/
def State.immNat (s : State) (imm : BitVec 16) : Nat :=
  match s.issue.hi with
  | none => imm.toNat
  | some h => h.toNat * 65536 + imm.toNat

/-- A J format's offset in words (04 R62). -/
def State.offInt (s : State) (off : BitVec 26) : Int :=
  match s.issue.hi with
  | none => off.toInt
  | some h => h.toInt * 67108864 + off.toNat

/-- Every byte of device memory, and every cell's state, code and age, is as before. -/
def State.sameMemory (s t : State) : Prop := (∀ a, t.mem.byte a = s.mem.byte a) ∧ ∀ a, t.mem.sideAt a = s.mem.sideAt a

/-! ### The integer table (06 R93) -/

/-- The number of elements of `range 64` before the first at which p holds. -/
def runLength (p : Nat → Bool) : Word64 := BitVec.ofNat 64 ((List.range 64).takeWhile (fun n => !p n)).length

/-- The R forms: destination, operands and result. -/
def aluRow : Instr → Option (GReg × GReg × GReg × (Word64 → Word64 → Word64))
  | .add d a b => some (d, a, b, fun x y => x + y)
  | .sub d a b => some (d, a, b, fun x y => x - y)
  | .mul d a b => some (d, a, b, fun x y => x * y)
  | .mulh d a b => some (d, a, b, fun x y => BitVec.ofInt 64 (x.toInt * y.toInt / 2 ^ 64))
  | .mulhu d a b => some (d, a, b, fun x y => BitVec.ofNat 64 (x.toNat * y.toNat / 2 ^ 64))
  | .div d a b => some (d, a, b, fun x y => if y = 0 then 0 else x.sdiv y)
  | .divu d a b => some (d, a, b, fun x y => if y = 0 then 0 else x / y)
  | .rem d a b => some (d, a, b, fun x y => if y = 0 then x else x.srem y)
  | .remu d a b => some (d, a, b, fun x y => if y = 0 then x else x % y)
  | .and d a b => some (d, a, b, fun x y => x &&& y)
  | .or d a b => some (d, a, b, fun x y => x ||| y)
  | .xor d a b => some (d, a, b, fun x y => x ^^^ y)
  | .shl d a b => some (d, a, b, fun x y => x <<< (y.toNat % 64))
  | .shr d a b => some (d, a, b, fun x y => x >>> (y.toNat % 64))
  | .sar d a b => some (d, a, b, fun x y => x.sshiftRight (y.toNat % 64))
  | .clz d a => some (d, a, 0, fun x _ => runLength x.getMsbD)
  | .ctz d a => some (d, a, 0, fun x _ => runLength x.getLsbD)
  | .popc d a => some (d, a, 0, fun x _ => BitVec.ofNat 64 ((List.range 64).countP x.getLsbD))
  | .min d a b => some (d, a, b, fun x y => if x.sle y then x else y)
  | .max d a b => some (d, a, b, fun x y => if x.sle y then y else x)
  | .minu d a b => some (d, a, b, fun x y => if x ≤ y then x else y)
  | .maxu d a b => some (d, a, b, fun x y => if x ≤ y then y else x)
  | .slt d a b => some (d, a, b, fun x y => if x.slt y then 1 else 0)
  | .sltu d a b => some (d, a, b, fun x y => if x < y then 1 else 0)
  | _ => none

/-- The I forms: destination, first operand, second operand as a number, and result. -/
def aluImmRow (s : State) : Instr → Option (GReg × GReg × Int × (Word64 → Word64 → Word64))
  | .addI d a m => some (d, a, s.immInt m, fun x y => x + y)
  | .mulI d a m => some (d, a, s.immInt m, fun x y => x * y)
  | .andI d a m => some (d, a, s.immNat m, fun x y => x &&& y)
  | .orI d a m => some (d, a, s.immNat m, fun x y => x ||| y)
  | .xorI d a m => some (d, a, s.immNat m, fun x y => x ^^^ y)
  | .shlI d a c => some (d, a, c.toNat, fun x y => x <<< y.toNat)
  | .shrI d a c => some (d, a, c.toNat, fun x y => x >>> y.toNat)
  | .sarI d a c => some (d, a, c.toNat, fun x y => x.sshiftRight y.toNat)
  | .minI d a m => some (d, a, s.immInt m, fun x y => if x.sle y then x else y)
  | .maxI d a m => some (d, a, s.immInt m, fun x y => if x.sle y then y else x)
  | .sltI d a m => some (d, a, s.immInt m, fun x y => if x.slt y then 1 else 0)
  | .sltuI d a m => some (d, a, s.immInt m, fun x y => if x < y then 1 else 0)
  | _ => none

/-- The branches: operands, offset and test (06 R95). -/
def branchRow : Instr → Option (GReg × GReg × BitVec 16 × (Word64 → Word64 → Bool))
  | .beq a b o => some (a, b, o, fun x y => x == y)
  | .bne a b o => some (a, b, o, fun x y => x != y)
  | .blt a b o => some (a, b, o, fun x y => x.slt y)
  | .bge a b o => some (a, b, o, fun x y => !x.slt y)
  | .bltu a b o => some (a, b, o, fun x y => x.ult y)
  | .bgeu a b o => some (a, b, o, fun x y => !x.ult y)
  | _ => none

/-! ### Taking a trap (06 R101) -/

/-- The strand can take a trap itself: it is not in a handler, and a handler is installed. -/
def State.handler (s : State) : Prop := s.cur.intrap = false ∧ s.cur.tvec ≠ 0

/-- The supervisor's trap ring is in use (22 R320). -/
def State.ringOn (s : State) : Prop := s.dv.trapring.toNat % 32 ≠ 0

/-- The issuing strand has entered its handler: the saved registers hold the trap, and nothing else changes. -/
def State.handled (s t : State) (code : BitVec 8) (tval epc : Word64) : Prop :=
  s.onlyStrand t s.issue.k ∧
  t.cur = { s.cur with epc := epc &&& ~~~3, tval := tval,
                       cause := BitVec.ofNat 9 ((if s.issue.hi.isSome then 256 else 0) + code.toNat),
                       intrap := true, pc := s.cur.tvec, mode := .ready, pend := none }

/-- The issuing strand is suspended, its trap stands last in the queue to the trap ring, and no other register of it and
nothing else changes. -/
def State.handedOver (s t : State) (code : BitVec 8) (tval epc : Word64) : Prop :=
  ∃ r : TrapRec, r.code = code ∧ r.tval = tval ∧ r.epc = epc ∧ r.pair = s.issue.hi.isSome ∧ r.job = s.cur.job ∧
    r.unit.toNat = 256 * (s.issue.k / 8) % 65536 + 96 + s.issue.k % 8 ∧
    t.traps = s.traps ++ [r] ∧ { t with strands := s.strands, traps := s.traps } = s ∧
    (∀ j, j ≠ s.issue.k → t.strand j = s.strand j) ∧
    t.cur = { s.cur with mode := .suspended, susp := some r, pend := none }

/-- The trap is taken as its route, the handler and the ring have it. -/
def State.trapped (s t : State) (code : BitVec 8) (tval epc : Word64) : Prop :=
  if code ∈ [0x04, 0x06, 0x0D, 0x1F] then s.handedOver t code tval epc
  else if s.cur.intrap = true ∨ s.cur.tvec = 0 then s.handedOver t 0x0D (code.zeroExtend 64) epc
  else s.handled t code tval epc

/-! ### The strand's own registers (06 R90, R91) -/

/-- What a read of SQ register n of strand k returns. -/
def sqValue (x : Strand) (k n : Nat) : Nat :=
  match n with
  | 0 => 8 * x.priv.toNat + 4 * x.intrap.toNat + x.prio.toNat
  | 1 => x.cause.toNat
  | 2 => x.epc.toNat
  | 3 => x.tval.toNat
  | 4 => x.tvec.toNat
  | 5 => x.retry.toNat
  | 6 => x.scratch.toNat
  | 7 => (256 * (k / 8) + 96 + k % 8) % 65536 * 65536 + x.job.toNat * 256 + x.rcl.toNat
  | 8 => 256 * x.running.toNat + x.depth.toNat
  | _ => 0

/-- What a write of v to SQ register n leaves in the strand. -/
def sqWritten (x : Strand) (n : Nat) (v : Word64) : Strand :=
  match n with
  | 0 => { x with prio := v.getLsbD 0 }
  | 1 => { x with cause := BitVec.ofNat 9 v.toNat }
  | 2 => { x with epc := v &&& ~~~3 }
  | 3 => { x with tval := v }
  | 4 => { x with tvec := v &&& ~~~3 }
  | 5 => { x with retry := BitVec.ofNat 16 v.toNat }
  | 6 => { x with scratch := v }
  | _ => x

/-! ### Any unit's registers (02 R30; 06 R89, R98; 07 R119; 09 R160; 12 R195; 16 R244; 20 R279, R294; 22 R323; 23 R340, R343) -/

/-- An MFC or MTC names unit u: without a prefix the issuing strand, with one the unit of its identifier, absolute for a
supervisor strand and of the region for a job strand, to which a strand of the supervisor is none (02 R24, R25; log 85). -/
def State.namesUnit (s : State) (u : UnitRef) : Prop :=
  match s.issue.hi with
  | none => u = .strand s.issue.k
  | some h =>
    if s.cur.priv then unitAbs (h.toNat % 65536) = some u
    else ∃ l, s.launchOf s.issue.k = some l ∧ l.unit? (h.toNat % 65536) = some u ∧ ∀ k, u = .strand k → superStrand k = false

/-- CL_ register n of cluster c. -/
def State.clValue (s : State) (c n : Nat) : Option Nat :=
  let x := s.cluster c
  match n with
  | 0x100 => some x.present.toNat
  | 0x101 => some (if x.window = s.cycle / 256 then x.budget else x.budgetDue.getD x.budget).toNat
  | 0x102 => some x.govStall.toNat
  | 0x103 => some (x.corr.toNat * 2 ^ 32 + x.bad.toNat)
  | 0x104 => some x.deque.length
  | 0x105 => some (s.port (3 * c)).fault.toNat
  | 0x106 => some (s.port (3 * c + 1)).fault.toNat
  | 0x107 => some (s.port (3 * c + 2)).fault.toNat
  | _ => none

/-- EL_ register n of an element. -/
def Element.value (x : Element) (n : Nat) : Option Nat :=
  let version (p : Option Plane) : Nat := (p.map (fun y => y.ver.toNat)).getD 0
  let switch (ch : Nat) : Bool := (((x.inp ch).buf.head?).map (·.sw)).getD false
  if n = 0x200 then some x.bank.toNat
  else if n = 0x201 then some
    (((List.range 8).map (fun ch => (switch ch).toNat * 2 ^ (16 + ch))).sum + version x.standby * 2 ^ 8 + version x.plane)
  else if n = 0x202 then some (x.complete.toNat * 4 + x.faulted.toNat * 2 + x.busy.toNat)
  else if n = 0x203 then
    let m := x.arr
    some (m.aFmt.toNat * 2 ^ 28 + m.bFmt.toNat * 2 ^ 24 + m.half.toNat * 2 ^ 23 + m.cfg.toNat * 2 ^ 22 +
      m.acc1.inUse.toNat * 2 ^ 21 + m.acc0.inUse.toNat * 2 ^ 20 + m.acc1.blk.isSome.toNat * 2 ^ 19 +
      m.acc0.blk.isSome.toNat * 2 ^ 18 + m.hacc.toNat * 2 ^ 17 + m.acc1.ptr.toNat * 2 ^ 8 + m.acc0.ptr.toNat)
  else if 0x204 ≤ n ∧ n ≤ 0x207 then some (vget x.kc (n - 0x204) 0).toNat
  else if 0x208 ≤ n ∧ n ≤ 0x20B then some (vget x.evm (n - 0x208) 0).toNat
  else if n = 0x20C then some x.fault.toNat
  else if 0x210 ≤ n ∧ n ≤ 0x21F then some (vget x.lp (n - 0x210) 0).toNat
  else none

/-- What a write of v to EL_ register n leaves in the element. -/
def Element.written (x : Element) (n : Nat) (v : Word64) : Element :=
  if n = 0x200 then { x with bank := BitVec.ofNat 2 v.toNat }
  else if 0x204 ≤ n ∧ n ≤ 0x207 then { x with kc := vset x.kc (n - 0x204) (BitVec.ofNat 32 v.toNat) }
  else if 0x208 ≤ n ∧ n ≤ 0x20B then { x with evm := vset x.evm (n - 0x208) (BitVec.ofNat 16 v.toNat) }
  else if 0x210 ≤ n ∧ n ≤ 0x21F then { x with lp := vset x.lp (n - 0x210) (BitVec.ofNat 32 v.toNat) }
  else x

/-- MT_ or WG_ register n of a memory tile. -/
def Tile.value (x : Tile) (n : Nat) : Option Nat :=
  let entry (i : Nat) (f : WEntry → Nat) : Option Nat := some (((x.watch.find? (fun w => w.1 == i)).map (fun w => f w.2)).getD 0)
  let mask (p : WEntry → Bool) : Nat := (x.watch.map (fun w => (p w.2).toNat * 2 ^ w.1)).sum
  if n = 0x300 then some x.mode.toNat
  else if n = 0x301 then some (if x.mode = 1 then (x.qsize / 64 - (x.put - x.take)) * 2 ^ 16 + (x.put - x.take) else 0)
  else if 0x308 ≤ n ∧ n ≤ 0x30F then some ((x.buf (n - 0x308)).filled * 2 ^ 8 + (x.buf (n - 0x308)).free)
  else if 0x310 ≤ n ∧ n ≤ 0x313 then
    let g := x.gen (n - 0x310)
    some (g.walk.isSome.toNat * 2 ^ 31 + g.landing.toNat * 2 ^ 30 + g.waiting.toNat * 2 ^ 29 +
      ((g.walk.map (fun w => (patWrite w.pat).toNat)).getD 0) * 2 ^ 28 + g.tokens.toNat)
  else if 0x314 ≤ n ∧ n ≤ 0x317 then some (x.gen (n - 0x314)).retry.toNat
  else if n = 0x318 then some x.fault.toNat
  else if 0x400 ≤ n ∧ n ≤ 0x43F then entry (n - 0x400) (fun w => w.group.toNat * 2 ^ 50 + w.rank.toNat * 2 ^ 47 +
    (w.k - 1) * 2 ^ 44 + w.coff.toNat * 2 ^ 32 + w.block.toNat * 2 ^ 16 + w.isOpen.toNat * 2 + 1)
  else if 0x440 ≤ n ∧ n ≤ 0x47F then entry (n - 0x440) (fun w => w.round % 1024 * 2 ^ 54 + w.step % 16 * 2 ^ 50 +
    w.stretch.toNat * 2 ^ 42 + w.absent.toNat * 2 ^ 34 + w.lost.toNat * 2 ^ 26 + w.selfAbsent.toNat * 2 ^ 7 +
    w.stepping.toNat * 2 ^ 6 + w.stretching.toNat * 2 ^ 5 + w.degraded.toNat * 2 ^ 4 + w.nan.toNat * 2 ^ 3 +
    w.sat.toNat * 2 ^ 2 + w.breached.toNat * 2)
  else if 0x480 ≤ n ∧ n ≤ 0x4BF then
    entry (n - 0x480) (fun w => w.events.toNat * 2 ^ 32 + w.steps.toNat * 2 ^ 16 + w.breaches.toNat)
  else if n = 0x4C0 then some (mask (·.isOpen))
  else if n = 0x4C1 then some (mask (fun _ => true))
  else none

/-- What a write of v to MT_ or WG_ register n leaves in the memory tile: a buffer's counters take it while no slot of it is
claimed and SLOTS is not exceeded, a generator's budget always. -/
def Tile.written (x : Tile) (n : Nat) (v : Word64) : Tile :=
  if 0x308 ≤ n ∧ n ≤ 0x30F then
    let b := x.buf (n - 0x308)
    let free := v.toNat % 8
    let filled := v.toNat / 256 % 8
    if b.claims = [] ∧ b.taken = [] ∧ free + filled ≤ b.slots then x.setBuf (n - 0x308) { b with free := free, filled := filled }
    else x
  else if 0x314 ≤ n ∧ n ≤ 0x317 then x.setGen (n - 0x314) { x.gen (n - 0x314) with retry := BitVec.ofNat 16 v.toNat }
  else x

/-- DV_ register n as a supervisor strand reads it. -/
def State.dvValue (s : State) (n : Nat) : Option Nat :=
  let d := s.dv
  match n with
  | 0x500 => some d.fprev.toNat
  | 0x501 => some d.jobtab.toNat
  | 0x502 => some d.parktab.toNat
  | 0x503 => some (d.corr.toNat * 2 ^ 32 + d.bad.toNat)
  | 0x504 => some d.worktab.toNat
  | 0x505 => some (vget d.classTgt 0 0).toNat
  | 0x506 => some (vget d.classTgt 1 0).toNat
  | 0x507 => some (vget d.classTgt 2 0).toNat
  | 0x508 => some (vget d.classTgt 3 0).toNat
  | 0x509 => some d.trapring.toNat
  | 0x50A => some d.casktab.toNat
  | 0x50B => some (d.powerTemp.toNat * 2 ^ 32 + d.powerMeas.toNat * 2 ^ 16 + d.powerCap.toNat)
  | 0x50C => some d.acctab.toNat
  | 0x50D => some d.accgen.toNat
  | _ => none

/-- Bits lo to hi of v, in place. -/
def maskBits (v : Word64) (hi lo : Nat) : Word64 := BitVec.ofNat 64 (v.toNat % 2 ^ (hi + 1) / 2 ^ lo * 2 ^ lo)

/-- The device after a write of v to DV_ register n. -/
def Device.written (d : Device) (n : Nat) (v : Word64) : Device :=
  match n with
  | 0x501 => { d with jobtab := maskBits v 43 14 }
  | 0x502 => { d with parktab := maskBits v 43 20 ||| maskBits v 5 0 }
  | 0x504 => { d with worktab := maskBits v 43 14 }
  | 0x505 => { d with classTgt := vset d.classTgt 0 (BitVec.ofNat 32 v.toNat) }
  | 0x506 => { d with classTgt := vset d.classTgt 1 (BitVec.ofNat 32 v.toNat) }
  | 0x507 => { d with classTgt := vset d.classTgt 2 (BitVec.ofNat 32 v.toNat) }
  | 0x508 => { d with classTgt := vset d.classTgt 3 (BitVec.ofNat 32 v.toNat) }
  | 0x509 => { d with trapring := maskBits v 43 0, posted := 0 }
  | 0x50A => { d with casktab := maskBits v 43 20 ||| maskBits v 5 0 }
  | 0x50B => { d with powerCap := BitVec.ofNat 16 (max 600 (min 3600 (v.toNat % 65536))) }
  | 0x50C => { d with acctab := maskBits v 43 8 }
  | 0x50D => { d with accgen := v }
  | _ => d

/-- What register n of unit u holds; none where the unit does not implement the number. -/
def State.regValue (s : State) (u : UnitRef) (n : Nat) : Option Nat :=
  match u with
  | .strand k =>
    if n < 0x00A then some (sqValue (s.strand k) k n)
    else if 0x080 ≤ n ∧ n < 0x0A0 then some ((s.strand k).reg (BitVec.ofNat 5 (n - 0x080))).toNat
    else if 0x100 ≤ n ∧ n < 0x200 then s.clValue (k / 8) n
    else if 0x500 ≤ n ∧ n < 0x600 then s.dvValue n else none
  | .element e =>
    if 0x100 ≤ n ∧ n < 0x200 then s.clValue (e / 12) n
    else if 0x200 ≤ n ∧ n < 0x300 then (s.element e).value n
    else if 0x500 ≤ n ∧ n < 0x600 then s.dvValue n else none
  | .tile t =>
    if 0x100 ≤ n ∧ n < 0x200 then s.clValue (t / 6) n
    else if 0x300 ≤ n ∧ n < 0x500 then (s.tile t).value n
    else if 0x500 ≤ n ∧ n < 0x600 then s.dvValue n else none
  | .port p =>
    if 0x100 ≤ n ∧ n < 0x200 then s.clValue (p / 3) n
    else if 0x500 ≤ n ∧ n < 0x600 then s.dvValue n else none
  | .seam c _ =>
    if 0x100 ≤ n ∧ n < 0x200 then s.clValue c n
    else if 0x500 ≤ n ∧ n < 0x600 then s.dvValue n else none
  | .slice _ => if 0x500 ≤ n ∧ n < 0x600 then s.dvValue n else none

/-- What the issuing strand reads of a register that holds v: a job strand its own cluster's CL_PRESENT, and 0 of the
supervisor's DV_ registers (02 R30; 06 R98). -/
def State.readsAs (s : State) (n v : Nat) : Nat :=
  if s.cur.priv then v
  else if n = 0x100 then (s.cluster (s.issue.k / 8)).present.toNat
  else if 0x501 ≤ n ∧ n ≤ 0x50D then 0 else v

/-- The state after a read of register n of unit u by the issuing strand: the fields that a read clears are 0, and a governor
window that has passed is over. -/
def State.afterRead (s : State) (u : UnitRef) (n : Nat) : State :=
  match u.cluster, n with
  | some c, 0x101 =>
    let x := s.cluster c
    if x.window = s.cycle / 256 then s
    else s.setCluster c { x with window := s.cycle / 256, spent := 0, budget := x.budgetDue.getD x.budget, budgetDue := none }
  | some c, 0x102 => s.setCluster c { s.cluster c with govStall := 0 }
  | some c, 0x103 => s.setCluster c { s.cluster c with corr := 0, bad := 0 }
  | _, 0x503 => if s.cur.priv then s.setDv { s.dv with corr := 0, bad := 0 } else s
  | _, _ => s

/-- The state after a write of v to register n of unit u. CL_PRESENT and CL_ISSUEBUDGET take it as `OutsideWrites` says, and
SQ_RESUME acts as `TrapRing` says; a read-only field ignores it. -/
def State.afterWrite (s : State) (u : UnitRef) (n : Nat) (v : Word64) : State :=
  if 0x500 ≤ n then (if n = 0x50D then (s.setDv (s.dv.written n v)).reloadAccess else s.setDv (s.dv.written n v))
  else match u with
  | .strand k =>
    if n = 0x009 then s.sqResume k v
    else if n < 0x00A then s.setStrand k (sqWritten (s.strand k) n v)
    else if 0x080 ≤ n ∧ n < 0x0A0 then s.setStrand k ((s.strand k).setReg (BitVec.ofNat 5 (n - 0x080)) v)
    else if n = 0x100 then s.writePresent (k / 8) (BitVec.ofNat 22 v.toNat)
    else if n = 0x101 then s.writeBudget (k / 8) v else s
  | .element e =>
    if 0x200 ≤ n ∧ n < 0x300 then s.setElement e ((s.element e).written n v)
    else if n = 0x100 then s.writePresent (e / 12) (BitVec.ofNat 22 v.toNat)
    else if n = 0x101 then s.writeBudget (e / 12) v else s
  | .tile t =>
    if 0x300 ≤ n ∧ n < 0x400 then s.setTile t ((s.tile t).written n v)
    else if n = 0x100 then s.writePresent (t / 6) (BitVec.ofNat 22 v.toNat)
    else if n = 0x101 then s.writeBudget (t / 6) v else s
  | .port p =>
    if n = 0x100 then s.writePresent (p / 3) (BitVec.ofNat 22 v.toNat) else if n = 0x101 then s.writeBudget (p / 3) v else s
  | .seam c _ =>
    if n = 0x100 then s.writePresent c (BitVec.ofNat 22 v.toNat) else if n = 0x101 then s.writeBudget c v else s
  | .slice _ => s

/-- The issuing strand may write register n of unit u: none of a suspended strand's but as a supervisor, nothing through
another strand's identifier as a job, and no register that is the supervisor's (02 R30; 06 R98; 20 R294; 22 R321). -/
def State.mayWrite (s : State) (u : UnitRef) (n : Nat) : Prop :=
  (s.cur.priv = false → (∀ k, u = .strand k → k = s.issue.k) ∧ n ≠ 0x100 ∧ n ≠ 0x101 ∧ (n < 0x501 ∨ 0x50D < n)) ∧
  (n = 0x009 ∨ (0x080 ≤ n ∧ n < 0x0A0) → s.cur.priv = true ∧ ∀ k, u = .strand k → (s.strand k).mode = .suspended)

/-- The state in which a pair's second word runs. -/
def State.withHi (s : State) (hi : BitVec 26) : State := s.setIssue { s.issue with hi := some hi }

/-! ### Accesses to cells (17 R246–R263) -/

/-- The strand's access of n bytes at a passes every check and reaches pa, at the same place within its cell. -/
def State.reaches (s : State) (a : Word64) (n : Nat) (write : Bool) (right : Nat) (pa : Nat) : Prop :=
  (s.prep a n write right).1 = .ok pa a.toNat ∧ pa % 32 = a.toNat % 32

/-- The cell of pa is full or empty (16 R228). -/
def State.feOk (s : State) (pa : Nat) : Prop := (s.mem.sideAt pa).fe = 1 ∨ (s.mem.sideAt pa).fe = 2

/-- The cell of pa holds the code of its data (16 R239). -/
def State.cleanAt (s : State) (pa : Nat) : Prop := (s.mem.cell pa).code = gen (s.mem.cell pa).data

/-- Nothing waits for the cell of pa to change: no park area is set up, its slice's wait table is empty, its W bit is
clear, and no launch waits for a cell. -/
def State.quiet (s : State) (pa : Nat) : Prop :=
  s.dv.parktab.toNat % 64 = 0 ∧ (s.slice (homeOf pa)).waits = [] ∧ (s.mem.sideAt pa).w = false ∧
  ∀ l ∈ s.launches, l.stage ≠ .waiting

/-- The issuing strand goes on at pc with v in gd; of the strand nothing else changes. -/
def State.curWrote (s t : State) (gd : GReg) (v pc : Word64) : Prop :=
  { t.cur with g := s.cur.g } = { s.cur with pc := pc, mode := .ready, pend := none } ∧
  ∀ q, t.reg q = if q = 0 then 0 else if q = gd then v else s.reg q

/-- The line of pa comes into its home slice's L2 without moving a waiter: it is there, the L2 has room, or nothing waits at
the slice (14 R215; 16 R230). -/
def State.hasRoom (s : State) (pa : Nat) : Prop :=
  (s.l2Line pa).isSome = true ∨ (s.slice (homeOf pa)).lines.length < l2Lines ∨ (s.slice (homeOf pa)).waits = []

/-- Nothing waits at any home slice. -/
def State.noWaiters (s : State) : Prop := ∀ x ∈ s.slices, x.2.waits = []

/-- The issuing strand's access holds no park record (16 R233). -/
def State.noRecord (s : State) : Prop := s.recordOf (.strand s.issue.k) = none

/-- No page of the range from va to stop, of at most n pages of 64 KiB, is arriving, and no level accepts each of them not (14
R210). -/
def State.passesPages (s : State) (va stop : Nat) : Nat → Prop
  | 0 => True
  | n + 1 => va < stop → va < 2 ^ 52 →
    let r := s.translate (.seq (s.issue.k / 8)) (s.strandJob s.issue.k) (s.strandX s.issue.k) va
    let next := (va / 65536 + 1) * 65536
    match r.1 with
    | .heap pa => (r.2.flushRange pa (Nat.min stop next - va)).passesPages next stop n
    | .page pa _ _ => (r.2.flushRange pa (Nat.min stop next - va)).passesPages next stop n
    | .arriving | .machine => False
    | .discarded .. | .noMap | .absent => r.2.passesPages next stop n

/-- Every strand but the issuing one, every element, tile, launch, job and host function, and every device register but
the count of corrections, is as before. -/
def State.unitsKept (s t : State) : Prop :=
  (∀ j, j ≠ s.issue.k → t.strand j = s.strand j) ∧ t.elements = s.elements ∧ t.tiles = s.tiles ∧
  t.launches = s.launches ∧ t.jobs = s.jobs ∧ t.funcs = s.funcs ∧ t.traps = s.traps ∧ t.decrs = s.decrs ∧
  { t.dv with corr := s.dv.corr } = s.dv

/-- The n low bytes of v stand at pa, the cell's state is fe and its code that of its data; every other byte, and every
other cell's state, W bit and code, is as before. -/
def State.stored (s t : State) (pa n v : Nat) (fe : BitVec 2) : Prop :=
  (∀ i, i < n → (t.mem.byte (pa + i)).toNat = v / 256 ^ i % 256) ∧
  (∀ a, a < pa ∨ pa + n ≤ a → t.mem.byte a = s.mem.byte a) ∧
  (∀ a, a / 32 ≠ pa / 32 → t.mem.sideAt a = s.mem.sideAt a) ∧
  (t.mem.sideAt pa).fe = fe ∧ (t.mem.sideAt pa).w = (s.mem.sideAt pa).w ∧ t.cleanAt pa

/-- The state of the cell of pa is fe; every byte, and everything else of every cell, is as before. -/
def State.feSet (s t : State) (pa : Nat) (fe : BitVec 2) : Prop :=
  (∀ a, t.mem.byte a = s.mem.byte a) ∧
  (∀ a, t.mem.sideAt a = if a / 32 = pa / 32 then { s.mem.sideAt pa with fe := fe } else s.mem.sideAt a)

/-- The AMOs and CAS: size, destination, address register, and the new value from the old, of n bytes (17 R253, R254). -/
def atomicRow (s : State) : Instr → Option (Bool × GReg × GReg × (Nat → Nat → Nat))
  | .amoAdd z d a b => some (z, d, a, fun n x => (x + (s.reg b).toNat) % 256 ^ n)
  | .amoAnd z d a b => some (z, d, a, fun n x => x &&& ((s.reg b).toNat % 256 ^ n))
  | .amoOr z d a b => some (z, d, a, fun n x => x ||| ((s.reg b).toNat % 256 ^ n))
  | .amoXor z d a b => some (z, d, a, fun n x => x ^^^ ((s.reg b).toNat % 256 ^ n))
  | .amoMin z d a b => some (z, d, a, fun n x =>
      if (BitVec.ofNat (8 * n) (s.reg b).toNat).slt (BitVec.ofNat (8 * n) x) then (s.reg b).toNat % 256 ^ n else x)
  | .amoMax z d a b => some (z, d, a, fun n x =>
      if (BitVec.ofNat (8 * n) x).slt (BitVec.ofNat (8 * n) (s.reg b).toNat) then (s.reg b).toNat % 256 ^ n else x)
  | .amoMinu z d a b => some (z, d, a, fun n x => if (s.reg b).toNat % 256 ^ n < x then (s.reg b).toNat % 256 ^ n else x)
  | .amoMaxu z d a b => some (z, d, a, fun n x => if x < (s.reg b).toNat % 256 ^ n then (s.reg b).toNat % 256 ^ n else x)
  | .amoSwap z d a b => some (z, d, a, fun n _ => (s.reg b).toNat % 256 ^ n)
  | .cas z d a b c => some (z, d, a, fun n x =>
      if x = (s.reg c).toNat % 256 ^ n then (s.reg b).toNat % 256 ^ n else x)
  | _ => none

/-- An element plus a contribution: in FP32 or FP64 rounded to nearest even, else modulo 2^64 (17 R256). -/
def elementSum (fmt v c : Nat) : Nat :=
  if fmt = 0 then FloatFmt.f32.ne ((FloatFmt.f32.value v).add (FloatFmt.f32.value c))
  else if fmt = 1 then FloatFmt.f64.ne ((FloatFmt.f64.value v).add (FloatFmt.f64.value c)) else (v + c) % 2 ^ 64

/-- The contributions cs are what number m of T of a sequence brings on at pa: its own, and those the reorder buffer holds in
turn, as far as they go or to the last (17 R256). -/
def samoRun (b : List Buffered) (pa m T : Nat) (cs : List Nat) : Prop :=
  (b.map (fun y => (y.pa, y.n))).Nodup ∧ 0 < cs.length ∧ m + cs.length ≤ T ∧ (∀ y ∈ b, y.pa = pa → y.n ≠ m) ∧
  (∀ j v, cs[j + 1]? = some v → ∃ y ∈ b, y.pa = pa ∧ y.n = m + 1 + j ∧ y.c.toNat = v) ∧
  (m + cs.length < T → ∀ y ∈ b, y.pa = pa → y.n ≠ m + cs.length)

/-! ### Commands of a region (09 R159, 12 R192, 21 R318) -/

/-- The issuing strand runs in the region of launch l, which is neither cancelled nor halted. -/
def State.mayAct (s : State) (l : Launch) : Prop :=
  s.launchOf s.issue.k = some l ∧ l.cancelled = false ∧ l.hasHalted = false

/-- The issuing strand may act in the region of launch l, and every earlier store of it has performed. -/
def State.acts (s : State) (l : Launch) : Prop := s.mayAct l ∧ s.cur.posted = []

/-- The issuing strand may give commands in the region of launch l, and no commit window is open. -/
def State.commands (s : State) (l : Launch) : Prop := s.acts l ∧ l.window = none

/-- Nothing moves in the region of launch l: no engine command, no walk, and of the walks that have ended every token has been
delivered and every slot completed or released (09 R152). -/
def State.still (s : State) (l : Launch) : Prop :=
  s.regionCmds l = [] ∧ s.regionWalks l = [] ∧
  ∀ w ∈ s.endedWalks l, s.delivered l w.1 w.2.1 w.2.2.2 = true ∧ s.slotsOver w.1 w.2.1 w.2.2.1 = true

/-- A command or a walk is under way in the region of launch l. -/
def State.moves (s : State) (l : Launch) : Prop :=
  (∃ c ∈ s.regionCmds l, ∃ x ∈ (s.port c.1).cmds, x.id = c.2) ∨ s.regionWalks l ≠ []

/-- The strand's WSTEP reads the cells cs of a block from address a on, unchecked (11 R168). -/
def State.readsBlock (s : State) (a : Word64) : List Cell → Prop
  | [] => True
  | c :: cs => ∃ pa, s.reaches a 0 false 1 pa ∧ s.feOk pa ∧ s.hasRoom pa ∧ s.mem.cell pa = c ∧
      let t := (s.prep a 0 false 1).2
      (t.fillLine (t.strandJob s.issue.k) pa a.toNat).readsBlock (a + 32) cs

/-- Every strand is as before, but a WSTEP of launch x's region that waits for group num waits for it no more and has n events
more (12 R188). -/
def State.wstepsTold (s t : State) (x : Launch) (num : BitVec 14) (n : Nat) : Prop :=
  ∀ k, t.strand k = { s.strand k with pend := (s.strand k).pend.map (fun p =>
    match p.instr with
    | .wstep _ _ => if x.holds (k / 8) = true ∧ superStrand k = false ∧ num ∈ p.left then
        { p with left := p.left.filter (· != num), sum := p.sum + n } else p
    | _ => p) }

/-- Launch l has met an element fault of a cause: it halts, and keeps the fault word if it had none (22 R323, R324). -/
def State.faultMet (t : State) (l : Launch) (cause : Nat) : Prop :=
  ∃ z, t.launch? l.id = some z ∧ z.halted = true ∧ z.status.getLsbD 1 = true ∧
    (l.fword = 0 → z.fword.toNat / 2 ^ 40 % 2 ^ 8 = cause)

/-- A word of a decoding area after event p: W[k]·q is added to each lane that the mask names, rounded once (11 R178). -/
def decodedLane (desc : Line) (p : BitVec 128) (i v : Nat) : Nat :=
  let w := Val.scale (Val.ofInt (dW desc (p.toNat / 2 ^ 37 % 8)).toInt) (dE desc)
  if p.getLsbD (64 + i) then FloatFmt.f32.ne ((FloatFmt.f32.value v).add w) else v

/-- The strand reads the cells ds from address a on, and t is the state after the last. -/
def State.readsCells (s : State) (a : Word64) : List CellData → State → Prop
  | [], t => t = s
  | d :: ds, t => ∃ pa, s.reaches a 0 false 1 pa ∧ s.feOk pa ∧ s.cleanAt pa ∧ s.hasRoom pa ∧ (s.mem.cell pa).data = d ∧
      ((s.prep a 0 false 1).2.cacheRead s.issue.k pa a.toNat).readsCells (a + 32) ds t

/-- The cells as one number, the first lowest. -/
def cellsNat (ds : List CellData) : Nat := ds.foldr (fun d n => d.toNat + 2 ^ 256 * n) 0

/-- The n section headers of the image at ga pass their checks as CTXLOAD reads them, from cell k of an image of `total` cells on,
after a section of kind and unit `prev` (22 R331, R333). -/
def State.headersPass (s : State) (ga : Nat) (l : Launch) (known : Bool) (total : Nat) : Nat → Nat → Nat × Nat → Prop
  | 0, _, _ => True
  | n + 1, k, prev =>
    let a := ga + 32 * k
    let d := (s.mem.cell a).data
    k < total ∧ s.mayAccess 1 a 1 = true ∧ s.feOk a ∧ s.cleanAt a ∧ sectionBad l known d k total prev = none ∧
      s.headersPass ga l known total n (k + 1 + d.toNat / 2 ^ 32 % 2 ^ 32) (d.toNat % 2 ^ 16, d.toNat / 2 ^ 16 % 2 ^ 16)

/-- A placed launch stands where it can be saved: outside a round and a window, with no store outstanding and no instruction in
flight that completes first (22 R329). -/
def State.stoppable (s : State) (l : Launch) : Prop :=
  l.stage = .placed ∧ s.launch? l.id = some l ∧ l.window = none ∧ (∀ g ∈ l.groups, g.phase ≠ .round) ∧
  ∀ k ∈ l.strands, (s.strand k).posted = [] ∧ ∀ p, (s.strand k).pend = some p → p.finishesFirst = false

/-- Slot n of the cask of a job, whose cask is at q, is the first that an image of a launch fits (22 R330). -/
def State.slotFor (s : State) (l : Launch) (addr : Nat) : Prop :=
  ∃ n ns q, s.freeSlots l.job (s.imageCells l) = n :: ns ∧ s.cask l.job = some q ∧ addr = s.slotAddr q n

/-- The header of an image of launch l stands at addr (22 R331). -/
def State.headerAt (t : State) (l : Launch) (addr : Nat) : Prop :=
  t.mem.nat addr 4 = 0xEF001001 ∧ t.mem.nat (addr + 8) 1 = l.job ∧ t.mem.nat (addr + 9) 1 = l.record.a ∧
  t.mem.nat (addr + 10) 1 = l.record.b ∧ (t.mem.sideAt addr).fe = 2 ∧ t.cleanAt addr

/-- Group n of launch l. -/
def State.groupNow (s : State) (l n : Nat) : Option Group := (s.launch? l).bind (fun x => x.groups[n]?)

/-! ### Firings (07 R107, R113; 08 R120–R123) -/

/-- Lane i of width w of a register. -/
def cut (w : Nat) (d : Line) (i : Nat) : Nat := d.toNat / 2 ^ (w * i) % 2 ^ w

/-- The register's lanes of width w are those of g. -/
def lanesAre (w : Nat) (r : Line) (g : Nat → Nat) : Prop := ∀ i, i < 512 / w → cut w r i = g i % 2 ^ w

/-- The two codes of 64 bytes are those of its cells (16 R239). -/
def codesFit (d : Line) (c0 c1 : BitVec 28) : Prop := c0 = gen (d.extractLsb' 0 256) ∧ c1 = gen (d.extractLsb' 256 256)

/-- A source select reads d with tag t, and nothing is wrong with it: registers, local memory and the heads of channels
are taken as the cycle found them; pres is the format that an untagged source presents. -/
def State.reads (s : State) (sel : Sel) (pres : Nat) (d : Line) (t : Nat) : Prop :=
  let x := s.firing.before
  let n := sel.toNat
  if n < 8 then vget x.v (8 * s.firing.bank.toNat + n) { data := 0, tag := 0 } = { data := d, tag := BitVec.ofNat 4 t } ∧ t < 16
  else if n < 16 then
    ∃ k, (x.inp (n - 8)).buf.head? = some k ∧ k.data = d ∧ k.tag.toNat = t ∧ (t = 13 ∨ codesFit d k.code0 k.code1)
  else if 24 ≤ n ∧ n < 28 then
    let a := lpAddr (x.ptr s.firing.bank (n - 24))
    t = pres ∧ a % 32 = 0 ∧ a + 64 ≤ 49152 ∧ d = (x.lmem.cell (a + 32)).data ++ (x.lmem.cell a).data ∧
      codesFit d (x.lmem.cell a).code (x.lmem.cell (a + 32)).code
  else t = pres ∧ d = if n = 30 then kcSpread pres (vget x.kc s.firing.bank.toNat 0) else 0

/-- The address of a destination pointer. -/
def State.dstAt (s : State) (x : Slot) : Nat := lpAddr (s.firing.before.ptr s.firing.bank (x.dst.toNat - 24))

/-- The firing's element is of launch l, and a destination in local memory is legal (08 R123) and needs no undo entry. -/
def State.mayFire (s : State) (l : Launch) (x : Slot) : Prop :=
  s.ownerOf (s.firing.e / 12) = some l ∧
  (x.dst.isLp = true → l.window = none ∧ s.dstAt x % 32 = 0 ∧ s.dstAt x + 64 ≤ 49152)

/-- A select is one of the pointers that a firing names (08 R122). -/
def slotNames (x : Slot) (usesB : Bool) (n : Nat) : Prop :=
  x.srcA.toNat = 24 + n ∨ (usesB = true ∧ x.srcB.toNat = 24 + n) ∨ x.dst.toNat = 24 + n

/-- A firing dequeues channel ch (08 R122). -/
def slotTakes (x : Slot) (ch : Nat) : Bool :=
  (x.deqA && x.srcA.toNat == 8 + ch) || (x.deqB && x.srcB.toNat == 8 + ch)

/-- The token a firing sends: of its bank and its plane's version, with the codes of its data, or a marker. -/
def State.sends (s : State) (eff : Effect) (d : Line) (t : Nat) : Token :=
  let v := (s.element s.firing.e).ver
  if eff.marker then markerToken (BitVec.ofNat 4 t) s.firing.bank v else makeToken d t s.firing.bank v

/-- The state in which a firing's token, if it has one, stands in its output channel. -/
def State.sentOut (s : State) (l : Launch) (x : Slot) (eff : Effect) : State :=
  match eff.out with
  | some (d, t) => if x.dst.isOut then s.outPush l s.firing.e (x.dst.toNat - 16) (s.sends eff d t) else s
  | none => s

/-- The firing takes effect: its result stands in its destination, its predicate and its trigger's actions in the
predicates of its bank, the pointers it names have advanced (by their stride where it loads or stores, else by 64 bytes),
and the channels it dequeues have lost their heads. Nothing else changes. -/
def State.fired (s t : State) (l : Launch) (x : Slot) (usesB : Bool) (eff : Effect) : Prop :=
  let e := s.firing.e
  let b := s.firing.bank
  let s1 := s.sentOut l x eff
  let y := s1.element e
  let z := t.element e
  let p := s.dstAt x
  { t with elements := s1.elements } = s1 ∧ (∀ j, j ≠ e → t.element j = s1.element j) ∧
  { z with v := y.v, q := y.q, lp := y.lp, ins := y.ins, lmem := y.lmem, arr := y.arr } = y ∧
  (∀ n, n < 32 → ∀ z0, vget z.v n z0 = match eff.out with
    | some (d, k) => if x.dst.isV ∧ n = 8 * b.toNat + x.dst.toNat then { data := d, tag := BitVec.ofNat 4 k } else vget y.v n z0
    | none => vget y.v n z0) ∧
  (∀ c, vget z.q c 0 = if c = b.toNat then
      applyActions (y.trigger x.trig.toNat) (match eff.pred with
        | some (n, v) => setPred (vget y.q c 0) n v
        | none => vget y.q c 0)
    else vget y.q c 0) ∧
  (∀ c n, n < 4 →
    (c = b ∧ slotNames x usesB n → z.ptr c n = lpBump (y.ptr c n)
      (if eff.addr = some (BitVec.ofNat 5 (24 + n)) then lpStride (y.ptr c n) else 64)) ∧
    (¬(c = b ∧ slotNames x usesB n) → z.ptr c n = y.ptr c n)) ∧
  (∀ ch, ch < 8 → z.inp ch = if slotTakes x ch then { y.inp ch with buf := (y.inp ch).buf.drop 1 } else y.inp ch) ∧
  (∀ a, z.lmem.byte a = match eff.out with
    | some (d, _) => if x.dst.isLp ∧ p ≤ a ∧ a < p + 64 then BitVec.ofNat 8 (d.toNat / 256 ^ (a - p)) else y.lmem.byte a
    | none => y.lmem.byte a) ∧
  (∀ a, z.lmem.sideAt a = match eff.out with
    | some (d, _) => if x.dst.isLp ∧ p ≤ a ∧ a < p + 64
        then { fe := 2, w := false, code := gen (d.extractLsb' (8 * ((a - p) / 32 * 32)) 256) } else y.lmem.sideAt a
    | none => y.lmem.sideAt a) ∧
  z.arr = eff.arr.getD y.arr

/-- A lane of an operation on two lanes of tag t: the exact value rounded to nearest even in a float format, and in an
integer one the exact integer, saturated or modulo 2^w (08 R127–R129). -/
def laneFn (t : Nat) (sat : Bool) (f : Val → Val → Val) (g : Int → Int → Int) (u v : Nat) : Nat :=
  match tagFloat t with
  | some F => F.ne (f (F.value u) (F.value v))
  | none =>
    let w := tagWidth t
    let r := g (BitVec.ofNat w u).toInt (BitVec.ofNat w v).toInt
    (BitVec.ofInt w (if sat then max (-2 ^ (w - 1)) (min (2 ^ (w - 1) - 1) r) else r)).toNat

/-- The rows of two sources in one format: fields, format, and a lane of the result. -/
def laneRow : Instr → Option (Slot × Nat × (Nat → Nat → Nat))
  | .vadd f x => some (x, rowTag f, laneFn (rowTag f) x.bit0 Val.add (fun a b => a + b))
  | .vsub f x => some (x, rowTag f, laneFn (rowTag f) x.bit0 (fun a b => a.add b.neg) (fun a b => a - b))
  | .vmul f x => some (x, rowTag f, laneFn (rowTag f) x.bit0 Val.mul (fun a b => a * b))
  | .vmin f x => some (x, rowTag f, laneFn (rowTag f) x.bit0 Val.min min)
  | .vmax f x => some (x, rowTag f, laneFn (rowTag f) x.bit0 Val.max max)
  | .vand f x => some (x, rowTag f, fun a b => a &&& b)
  | .vor f x => some (x, rowTag f, fun a b => a ||| b)
  | .vxor f x => some (x, rowTag f, fun a b => a ^^^ b)
  | .fdiv z x => some (x, if z then 1 else 2, laneFn (if z then 1 else 2) false Val.div (fun a _ => a))
  | _ => none

/-- The rows of one source: fields, format, and a lane of the result. -/
def laneRow1 : Instr → Option (Slot × Nat × (Nat → Nat))
  | .vabs f x => some (x, rowTag f, fun a => laneFn (rowTag f) x.bit0 (fun v _ => v.abs) (fun i _ => (i.natAbs : Int)) a a)
  | .vneg f x => some (x, rowTag f, fun a => laneFn (rowTag f) x.bit0 (fun v _ => v.neg) (fun i _ => -i) a a)
  | .fsqrt z x => some (x, if z then 1 else 2, fun a => laneFn (if z then 1 else 2) false (fun v _ => v.sqrt) (fun i _ => i) a a)
  | .rcp x => some (x, 2, fun a => laneFn 2 false (fun v _ => (Val.ofInt 1).div v) (fun i _ => i) a a)
  | .rsq x => some (x, 2, fun a => laneFn 2 false (fun v _ => v.rsqrt) (fun i _ => i) a a)
  | .exp2 x => some (x, 2, fun a => laneFn 2 false (fun v _ => v.exp2) (fun i _ => i) a a)
  | .log2 x => some (x, 2, fun a => laneFn 2 false (fun v _ => v.log2) (fun i _ => i) a a)
  | .sinpi x => some (x, 2, fun a => laneFn 2 false (fun v _ => v.sinPi) (fun i _ => i) a a)
  | .cospi x => some (x, 2, fun a => laneFn 2 false (fun v _ => v.cosPi) (fun i _ => i) a a)
  | .tanh x => some (x, 2, fun a => laneFn 2 false (fun v _ => v.tanh) (fun i _ => i) a a)
  | _ => none

/-- The balanced tree over 2^n lanes, neighbours first (03 R50). -/
def tree (op : Nat → Nat → Nat) (g : Nat → Nat) : Nat → Nat → Nat
  | 0, i => g i
  | n + 1, i => op (tree op g n (2 * i)) (tree op g n (2 * i + 1))

/-- The reductions: fields, format, and the operation of a node (08 R133). -/
def reduceRow : Instr → Option (Slot × Nat × (Nat → Nat → Nat))
  | .radd f x => some (x, rowTag f, laneFn (rowTag f) false Val.add (fun a b => a + b))
  | .rmax f x => some (x, rowTag f, laneFn (rowTag f) false Val.max max)
  | .rmin f x => some (x, rowTag f, laneFn (rowTag f) false Val.min min)
  | .rmaxabs f x => some (x, rowTag f, laneFn (rowTag f) true (fun a b => a.abs.max b.abs) (fun a b => max (a.natAbs : Int) b.natAbs))
  | _ => none

/-- The shifts: fields, and a lane of the result in tag t (08 R130). -/
def shiftRow : Instr → Option (Slot × (Nat → Nat → Nat → Nat))
  | .vshl x => some (x, fun _ u c => u <<< c)
  | .vshr x => some (x, fun _ u c => u >>> c)
  | .vsar x => some (x, fun t u c => if t = 9 then u >>> c else ((BitVec.ofNat (tagWidth t) u).sshiftRight c).toNat)
  | _ => none

/-- The comparisons: fields, and the test of two lanes of tag t (08 R126). -/
def compareRow : Instr → Option (Slot × (Nat → Nat → Nat → Bool))
  | .pcmpeq x => some (x, fun t => laneTest t Val.eq (fun a b => decide (a = b)))
  | .pcmplt x => some (x, fun t => laneTest t Val.lt (fun a b => decide (a < b)))
  | .pcmple x => some (x, fun t => laneTest t (fun a b => a.lt b || a.eq b) (fun a b => decide (a ≤ b)))
  | _ => none

/-! ### The matrix array (20 R282) -/

/-- a' is accumulator N of m with its open block closed: every cell takes the block sum of its products once, rounded
once, and KC stands at the next multiple of 128. -/
def accClosed (m : Arr) (n : Bool) (a' : Acc) : Prop :=
  let a := m.acc n
  match a.blk with
  | none => a' = a
  | some k =>
    { a' with cells := a.cells, kc := a.kc, blk := a.blk } = a ∧ a'.blk = none ∧
    a'.kc = BitVec.ofNat 32 ((a.kc.toNat / 128 + 1) * 128) ∧
    ∀ i j, i < 64 → j < 64 → (a'.at_ i j).toNat = FloatFmt.f32.ne ((FloatFmt.f32.value (a.at_ i j).toNat).add
      (FloatFmt.f32.value (blockSum (k.products m.aFmt.toNat m.bFmt.toNat i j))))

/-- a' is accumulator N of m after one update by the outer product of a column and a row: a block opens, capturing the A
scales, at a multiple of 128 updates, and closes at the next. -/
def accUpdated (m : Arr) (n : Bool) (col row : Nat → Nat) (a' : Acc) : Prop :=
  let a := m.acc n
  let old : Block := if a.kc.toNat % 128 = 0 then { ea := a.sa, ups := [] } else a.blk.getD { ea := a.sa, ups := [] }
  ∃ u v : BitVec 1024, (∀ i, i < 64 → u.toNat / 2 ^ (16 * i) % 2 ^ 16 = col i ∧ v.toNat / 2 ^ (16 * i) % 2 ^ 16 = row i) ∧
    let k : Block := { old with ups := old.ups ++ [(u, v)] }
    if (a.kc.toNat + 1) % 128 = 0 then
      { a' with cells := a.cells, kc := a.kc, blk := a.blk } = a ∧ a'.blk = none ∧ a'.kc = a.kc + 1 ∧
      ∀ i j, i < 64 → j < 64 → (a'.at_ i j).toNat = FloatFmt.f32.ne ((FloatFmt.f32.value (a.at_ i j).toNat).add
        (FloatFmt.f32.value (blockSum (k.products m.aFmt.toNat m.bFmt.toNat i j))))
    else a' = { a with blk := some k, kc := a.kc + 1 }

/-! ### Completion cells and tasks (21 R295, R296, R311) -/

/-- COUNT of the completion cell at pa. -/
def State.countAt (s : State) (pa : Nat) : Nat := s.mem.nat pa 8

/-- The completion cell at pa has taken a decrement with status bits: its COUNT is one less, or OVERRUN says that it was 0;
it is full when COUNT comes to 0, and every other byte and every other cell is as before. -/
def State.counted (s t : State) (pa bits : Nat) : Prop :=
  t.countAt pa = s.countAt pa - 1 ∧
  t.mem.nat (pa + 8) 1 = s.mem.nat (pa + 8) 1 ||| bits ||| (if s.countAt pa = 0 then 32 else 0) ∧
  (∀ a, a < pa ∨ pa + 9 ≤ a → t.mem.byte a = s.mem.byte a) ∧
  (∀ a, a / 32 ≠ pa / 32 → t.mem.sideAt a = s.mem.sideAt a) ∧
  (t.mem.sideAt pa).fe = (if s.countAt pa = 1 then 2 else (s.mem.sideAt pa).fe) ∧
  (t.mem.sideAt pa).w = (s.mem.sideAt pa).w ∧ t.cleanAt pa

/-- The completion cell at pa has taken the end of a launch with its status and fault word: as `counted`, and FWORD holds the
word, if it is not 0. -/
def State.endedAt (s t : State) (pa bits : Nat) (fword : Word64) : Prop :=
  t.countAt pa = s.countAt pa - 1 ∧
  t.mem.nat (pa + 8) 1 = s.mem.nat (pa + 8) 1 ||| bits ||| (if s.countAt pa = 0 then 32 else 0) ∧
  (fword ≠ 0 → t.mem.nat (pa + 16) 8 = fword.toNat) ∧
  (∀ a, a < pa ∨ pa + 9 ≤ a → fword = 0 ∨ a < pa + 16 ∨ pa + 24 ≤ a → t.mem.byte a = s.mem.byte a) ∧
  (∀ a, a / 32 ≠ pa / 32 → t.mem.sideAt a = s.mem.sideAt a) ∧
  (t.mem.sideAt pa).fe = (if s.countAt pa = 1 then 2 else (s.mem.sideAt pa).fe) ∧ t.cleanAt pa

/-- No level of a job has its completion cell at address va, so that a decrement that fills the cell there ends none (21
R297). -/
def State.plainCell (s : State) (job va : Nat) : Prop :=
  (∀ r ∈ (s.job job).replays, r.done ≠ va) ∧
  ∀ l ∈ s.launches, l.job = job → l.stage = .ended → l.full = false → l.record.done.toNat ≠ va

/-- Strand k has started a task in launch l (01 R12, 21 R311). -/
def State.started (s t : State) (k : Nat) (l : Launch) (x : Task) : Prop :=
  let y := t.strand k
  let z := s.strand k
  y.mode = .ready ∧ y.pc = x.entry ∧ y.prio = x.high ∧ y.running = true ∧ y.depth = 0 ∧ y.intrap = false ∧ y.cause = 0 ∧
  y.epc = 0 ∧ y.tval = 0 ∧ y.retry = 0x0400 ∧ y.scratch = 0 ∧ y.pend = none ∧ y.susp = none ∧
  y.tvec = BitVec.ofNat 64 (s.mem.nat (s.dv.worktab.toNat + 64 * l.job + 32) 8) &&& ~~~3 ∧
  (∀ r, y.reg r = if r = 1 then l.record.param else if r = 2 then l.record.image else if r = 3 then x.arg
    else if r = 4 then x.join else 0) ∧
  y.priv = z.priv ∧ y.job = z.job ∧ y.rcl = z.rcl ∧ y.declared = z.declared ∧ y.posted = z.posted

/-- Strand k has ended: exited if it is a declared one, else idle. -/
def Strand.ended (x : Strand) : Strand :=
  { x with running := false, depth := 0, pend := none, susp := none, mode := if x.declared then .exited else .idle }

/-- Only cluster c may differ, in its deque, which is q. -/
def State.dequeSet (s t : State) (c : Nat) (q : List Task) : Prop :=
  (t.cluster c) = { s.cluster c with deque := q } ∧ ∀ d, d ≠ c → t.cluster d = s.cluster d

/-- The issuing strand runs a task inline with a return address; q is left of its deque (21 R311). -/
def State.inlined (s t : State) (x : Task) (ret : Word64) (q : List Task) : Prop :=
  t.deque = q ∧
  { t.cur with g := s.cur.g } = { s.cur with pc := x.entry, depth := s.cur.depth + 1, mode := .ready, pend := none } ∧
  ∀ r, t.reg r = if r = 3 then x.arg else if r = 4 then x.join else if r = 31 then ret else s.reg r

/-! ### Streams (09 R140–R150) -/

/-- The count of the transfers that a walk has made: I0 runs fastest (09 R143). -/
def Walk.number (w : Walk) : Nat :=
  w.i0 + patCount w.pat 0 * (w.i1 + patCount w.pat 1 * (w.i2 + patCount w.pat 2 * w.i3))

/-- Every index of a walk is below its count. -/
def Walk.inRange (w : Walk) : Prop :=
  w.i0 < patCount w.pat 0 ∧ w.i1 < patCount w.pat 1 ∧ w.i2 < patCount w.pat 2 ∧ w.i3 < patCount w.pat 3

/-- a is the address of walk w's next transfer in tile x: the base of its slot, BASE, and the indices times their strides; under
PERM that of PDIM is read through the table, which reaches it, and under CBUF the outermost counts for nothing (09 R143). -/
def Walk.comesTo (w : Walk) (x : Tile) (a : Nat) : Prop :=
  let p := w.pat
  let y := x.buf (patBuf p)
  let sb : Nat := match w.slot with
    | some n => y.base + n * y.slotBytes
    | none => 0
  let i (d : Nat) : Nat := if d = 0 then w.i0 else if d = 1 then w.i1 else if d = 2 then w.i2 else w.i3
  let j (d : Nat) : Nat := if patCbuf p = true ∧ d = 3 then 0
    else if patPerm p = true ∧ d = patPdim p then (x.perm.getD (i d) 0).toNat else i d
  (patPerm p = true → i (patPdim p) < x.perm.length) ∧
  (a : Int) = sb + patBase p + j 0 * patStride p 0 + j 1 * patStride p 1 + j 2 * patStride p 2 + j 3 * patStride p 3

/-- cs are the cells of the transfer of walk w at address a in tile x, one under HALF, else two: in fifo mode those of the
area's next token, in line mode those of the ring of rows, else those at a (09 R140, R143). -/
def Tile.cellsAt (x : Tile) (w : Walk) (a : Nat) (cs : List Nat) : Prop :=
  let n := if patWrite w.pat then x.put else x.take
  let c := if x.mode = 1 then x.qbase + 64 * (n % (x.qsize / 64)) else a
  let f (b : Nat) : Nat := if x.mode = 2 then x.qbase + b % (x.qsize * x.lrow) else b
  cs = (if patHalf w.pat then [f c] else [f c, f (c + 32)]) ∧ cs.Nodup ∧ (∀ b ∈ cs, b % 32 = 0) ∧
  (x.mode = 1 → 64 ≤ x.qsize) ∧ (x.mode = 2 → 0 < x.qsize * x.lrow)

/-- The cells have valid states, and those that FEMODE waits for (09 R144, 16 R232). -/
def Tile.statesFit (x : Tile) (w : Walk) (cs : List Nat) : Prop :=
  ∀ c ∈ cs, ((x.sram.sideAt c).fe = 1 ∨ (x.sram.sideAt c).fe = 2) ∧
    (patFe w.pat = 1 ∨ patFe w.pat = 2 → (x.sram.sideAt c).fe = 2) ∧ (patFe w.pat = 3 → (x.sram.sideAt c).fe = 1)

/-- Generator g of tile t has walk w, no transfer of which waits for a slot or for cell states. -/
def State.walking (s : State) (t g : Nat) (w : Walk) : Prop :=
  let y := (s.tile t).gen g
  g < 4 ∧ (s.tile t).failed = false ∧ y.swOut = none ∧ y.walk = some w ∧ y.celled = false ∧ w.inRange ∧
  (patCbuf w.pat = true ↔ w.slot.isSome = true) ∧ (∀ k ∈ y.wire.head?, k.sw = false)

/-- Walk w comes to a transfer at address a of the cells cs, which no row of the ring and no state holds up. -/
def State.transfers (s : State) (t g : Nat) (w : Walk) (a : Nat) (cs : List Nat) : Prop :=
  let x := s.tile t
  s.walking t g w ∧ w.mark = false ∧ (x.mode ≠ 1 → w.comesTo x a) ∧ x.cellsAt w a cs ∧ x.statesFit w cs ∧ x.overrun g w = false ∧
  x.ringStall g w = false

/-- After a run's last transfer or its marker, and within a run, walk w goes on as v: its transfers are numbered with I0
fastest, a new I3 has no slot, and after the last number it is over (09 R143). -/
def Walk.goesTo (w : Walk) (v : Option Walk) : Prop :=
  let slot := patCount w.pat 0 * (patCount w.pat 1 * patCount w.pat 2)
  (w.number + 1 = slot * patCount w.pat 3 → v = none) ∧
  (w.number + 1 ≠ slot * patCount w.pat 3 → ∃ z, v = some z ∧ z.inRange ∧ z.number = w.number + 1 ∧ z.mark = false ∧
    z.slot = (if (w.number + 1) % slot = 0 then none else w.slot) ∧
    { z with i0 := w.i0, i1 := w.i1, i2 := w.i2, i3 := w.i3, mark := w.mark, slot := w.slot } = w)

/-- The buffer in which a generator's claimed slot is complete, or read (09 R141). -/
def Buf.slotEnded (y : Buf) (producer : Bool) (who : Claimant) (slot : Nat) : Buf :=
  let f (c : Claim) : Claim := if c.who = who ∧ c.slot = slot then { c with full := true } else c
  if producer then { y with claims := y.claims.map f } else { y with taken := y.taken.map f }

/-- From s to u generator g of tile t has ended a transfer, or a marker, of walk w: DONE counts a token, the walk comes to the
marker of its run or goes on, the slot of an I3 that is over is complete or read, and a drain that waits for a walk that is
over waits for what it has sent (09 R143, R152, R160). -/
def State.walked (s u : State) (t g : Nat) (w : Walk) (tok : Bool) : Prop :=
  let x := s.tile t
  let y := x.gen g
  let z := (u.tile t).gen g
  let due : Prop := tok = true ∧ patMark w.pat = true ∧ w.i0 + 1 = patCount w.pat 0
  let slot := patCount w.pat 0 * (patCount w.pat 1 * patCount w.pat 2)
  { u with tiles := s.tiles, strands := s.strands } = s ∧ (∀ j, j ≠ t → u.tile j = s.tile j) ∧
  { u.tile t with gens := x.gens, bufs := x.bufs, put := x.put, take := x.take } = x ∧
  (tok = false → (u.tile t).put = x.put ∧ (u.tile t).take = x.take) ∧
  (∀ h, h < 4 → h ≠ g → (u.tile t).gen h = x.gen h) ∧
  { z with walk := y.walk } = { y with tokens := y.tokens + (if tok then 1 else 0), waiting := false, celled := false, poked := 0 } ∧
  (due → z.walk = some { w with mark := true }) ∧ (¬due → w.goesTo z.walk) ∧
  (∀ b, b < 8 → (due ∨ b ≠ patBuf w.pat ∨ (w.number + 1) % slot ≠ 0 ∨ w.slot = none → (u.tile t).buf b = x.buf b) ∧
    ∀ n, ¬due → b = patBuf w.pat → (w.number + 1) % slot = 0 → w.slot = some n →
      (u.tile t).buf b = (x.buf b).slotEnded (patWrite w.pat) (.gen g y.walks) n) ∧
  (∀ k, u.strand k = if ¬due ∧ w.number + 1 = slot * patCount w.pat 3 then
      { s.strand k with pend := (s.strand k).pend.map (fun p => if (t, g, y.walks) ∈ p.walks then
        { p with walks := p.walks.erase (t, g, y.walks), sends := p.sends ++ [(t, g, y.walks, y.sent)] } else p) }
    else s.strand k)

/-- Device memory, the strands, the launches, the jobs and the clusters are as before. -/
def State.onlyStreams (s t : State) : Prop :=
  t.mem = s.mem ∧ t.strands = s.strands ∧ t.launches = s.launches ∧ t.jobs = s.jobs ∧ t.clusters = s.clusters

/-- Only tile t may differ of the tiles. -/
def State.otherTiles (s u : State) (t : Nat) : Prop := ∀ j, j ≠ t → u.tile j = s.tile j

/-- The cell at a is data d with code c and state fe, its W bit as it was; every other byte and cell is as before. -/
def cellPut (m n : Memory) (a : Nat) (d : CellData) (c : BitVec 28) (fe : BitVec 2) : Prop :=
  (n.cell a).data = d ∧ (n.sideAt a).code = c ∧ (n.sideAt a).fe = fe ∧ (n.sideAt a).w = (m.sideAt a).w ∧
  (∀ b, b / 32 ≠ a / 32 → n.byte b = m.byte b ∧ n.sideAt b = m.sideAt b)

/-- Each of the cells has the data and the code it is given, and the state fe if there is one; every other byte and cell, and
every W bit, is as before. -/
def cellsPut (m n : Memory) (cs : List (Nat × CellData × BitVec 28)) (fe : Option (BitVec 2)) : Prop :=
  (∀ c ∈ cs, (n.cell c.1).data = c.2.1 ∧ n.sideAt c.1 = { m.sideAt c.1 with code := c.2.2, fe := fe.getD (m.sideAt c.1).fe }) ∧
  ∀ b, (∀ c ∈ cs, b / 32 ≠ c.1 / 32) → n.byte b = m.byte b ∧ n.sideAt b = m.sideAt b

/-- Buffer b of tile t is z, and nothing else of the tiles but what the grant of a slot gives the generators. -/
def State.bufSet (s u : State) (t b : Nat) (z : Buf) : Prop :=
  s.otherTiles u t ∧ s.onlyStreams u ∧ u.elements = s.elements ∧ (u.tile t).buf b = z ∧
  (∀ c, c < 8 → c ≠ b → (u.tile t).buf c = (s.tile t).buf c) ∧
  { u.tile t with bufs := (s.tile t).bufs, gens := (s.tile t).gens } = s.tile t

/-- A claimant has the slot it asked for (09 R141). -/
def State.grantedTo (s u : State) (t slot : Nat) : Claimant → Prop
  | .gen g _ => u.ports = s.ports ∧ ((u.tile t).gen g).waiting = false ∧
      (∀ h, h ≠ g → (u.tile t).gen h = (s.tile t).gen h) ∧
      ∀ w, ((s.tile t).gen g).walk = some w → ((u.tile t).gen g).walk = some { w with slot := some slot, asked := false }
  | .cmd p id => (u.tile t).gens = (s.tile t).gens ∧
      ∀ c, s.cmd? p id = some c → u.cmd? p id = some { c with slots := c.slots ++ [(t, slot)] }

/-- Command c of port p, of launch l, which runs, has its turn to move its cells ns: it waits for nothing, holds the slots it
needs, every earlier one has started and has no cell to write that this one would (09 R148, 18 R268). -/
def State.hasTurn (s : State) (p id : Nat) (l : Launch) (c : Cmd) (ns : List Nat) : Prop :=
  s.liveAt (p / 3) = some l ∧ s.cmd? p id = some c ∧ c.place = .none ∧ c.ended = false ∧ c.next < crCells c.record ∧
  (crCbuf c.record = true → c.asked = true ∧ c.slots.length = (c.tiles l p).length) ∧ s.earlierStarted p id = true ∧
  s.inOrder l p c ns = true

/-- Command c is to move its cell n next, and no merge group brings it (09 R149). -/
def State.copies (s : State) (p id n : Nat) (l : Launch) (c : Cmd) : Prop :=
  s.hasTurn p id l c [n] ∧ crHist c.record = false ∧
  (if c.fetch = none then c.grouped = false ∧ n = c.next else c.fetch.bind (·.head?) = some n)

/-- An access of port p for launch l at va passes its checks and reaches pa, and t is s with what a translation keeps. -/
def State.engReaches (s t : State) (l : Launch) (p va : Nat) (write : Bool) (pa : Nat) : Prop :=
  s.engAcc l p va write = (.ok pa, t) ∧ t.mem = s.mem ∧ t.tiles = s.tiles ∧ t.strands = s.strands ∧
  t.launches = s.launches ∧ t.elements = s.elements ∧ (t.port p).cmds = (s.port p).cmds

/-- From s to u cell x has been sent as cell n of command c of port p to the landing generators of its tiles, in the state that
FE gives it, and the command has one cell fewer to move (09 R148, R149). -/
def State.sentOn (s u : State) (l : Launch) (p : Nat) (c : Cmd) (n : Nat) (x : Cell) : Prop :=
  u.strands = s.strands ∧ u.launches = s.launches ∧ u.elements = s.elements ∧
  u.cmd? p c.id = some { c with next := c.next + 1, fetch := c.fetch.map (·.drop 1) } ∧
  (∀ t, { u.tile t with gens := (s.tile t).gens } = s.tile t) ∧
  ∀ t g, g < 4 → (u.tile t).gen g = if (t, g) ∈ c.tiles l p then
      { (s.tile t).gen g with land := ((s.tile t).gen g).land ++ [
          { p := p, id := c.id, addr := crOff c.record (s.copyBase c t) n,
            cell := { x with fe := if crFe c.record = 0 then x.fe else if crFe c.record = 2 then 1 else 2 } }] }
    else (s.tile t).gen g

/-- Launch l of t holds one effect more than in s until its window commits, and nothing else of the launches changes (18 R270). -/
def State.holds (s t : State) (l : Launch) (h : Held) : Prop :=
  ∃ y v, s.launch? l.id = some y ∧ y.window = some v ∧
    t.launch? l.id = some { y with window := some { v with held := v.held ++ [h] } } ∧ t.mem = s.mem

/-- Command c of port p, of launch l, which runs, is the next of its engine to move a cell to one tile in a plain way: a copy in
with FE 3, not compressed, in no buffer (09 R148). -/
def State.takesCell (s : State) (p t g : Nat) (l : Launch) (c : Cmd) : Prop :=
  s.liveAt (p / 3) = some l ∧ s.cmd? p c.id = some c ∧ c.ended = false ∧ c.mcast = false ∧ crHist c.record = false ∧
  crDir c.record = false ∧ crCbuf c.record = false ∧ crComp c.record = false ∧ crFe c.record = 3 ∧
  c.next < crCells c.record ∧ c.fetch = none ∧ s.earlierStarted p c.id = true ∧ s.inOrder l p c [c.next] = true ∧
  c.tiles l p = [(t, g)] ∧ g < 4 ∧ ((s.tile t).gen g).land.length < 4

/-- An access that waits at a place is examined again by i: at once when it was woken, 256 sc after its last examination when it
stands unlisted (16 R232, R234). -/
def State.examines (s : State) (u : Waiter) (q : Place) (i : Instr) : Prop :=
  (q = .woken none ∧ i = .accessReexamine u) ∨ (∃ t, q = .unlisted t ∧ t + 512 ≤ s.fc ∧ i = .unlistedReexamine u)

/-- N of R150 for a value that is a number: the quotient by 2β rounded to an integer, ties to even, and saturated. -/
def histN (beta x : Val) : Int :=
  match x.div (beta.mul (.ofInt 2)) with
  | .num b n d => max (-(2 ^ 30 - 1)) (min (2 ^ 30 - 1) (signed b (roundQuot .ne b n d)))
  | _ => 0

/-- The merge group takes a multicast of launch l with record r, whose first cell is at `first` and whose cells of one granule
are `cells`: it has the same key, and its window runs (09 R149, 14 R221). -/
def State.mergesWith (s : State) (m : Merge) (l : Launch) (r : Line) (first : Nat) (cells : List (Nat × Nat)) : Prop :=
  m.job = l.job ∧ m.group.toNat = crGroup r ∧ m.va = crVa r ∧ m.pa = first ∧ m.shape = crShape r ∧ m.cells = cells ∧
  m.isOpen = true ∧ s.fc < m.opened + 128

/-- A line begins with cell j of some cells (14 R222). -/
def beginsLine (cs : List (Nat × Nat)) (j : Nat) : Prop :=
  j = 0 ∨ (cs.getD j (0, 0)).2 / 256 ≠ (cs.getD (j - 1) (0, 0)).2 / 256

/-- Cell k is the first from cell i on with which a line begins, or k is past the last cell. -/
def nextLine (cs : List (Nat × Nat)) (i k : Nat) : Prop :=
  i ≤ k ∧ k ≤ cs.length ∧ (k < cs.length → beginsLine cs k) ∧ ∀ j, i ≤ j → j < k → ¬beginsLine cs j

/-- Merge group g sends its cell i next, to the members js, after which it is g': on the tree the next cell to all that follow
it there; after the last one each member's catch-up in turn (14 R222). -/
def Merge.sends (g : Merge) (i : Nat) (js : List Joiner) (g' : Merge) : Prop :=
  (g.sent < g.cells.length ∧ i = g.sent ∧ js = g.who.filter (fun j => decide (j.start ≤ g.sent)) ∧
    g' = { g with sent := g.sent + 1 }) ∨
  (g.cells.length ≤ g.sent ∧ ∃ a j b, g.who = a ++ j :: b ∧ (∀ y ∈ a, y.start ≤ y.got) ∧ j.got < j.start ∧ i = j.got ∧
    js = [j] ∧ g' = { g with who := a ++ { j with got := j.got + 1 } :: b })

/-! ### Host accesses (23 R336–R338) -/

/-- Function f reaches its virtual address va in its heap, at pa in the same place of a cell, with a right (23 R339). -/
def State.hostReaches (s : State) (f va right pa : Nat) : Prop :=
  f ≤ 192 ∧ (s.xrecOf f).inHeap va = true ∧ pa = (va + (s.xrecOf f).hoff) % 2 ^ 44 ∧ pa % 32 = va % 32 ∧
  right ≤ s.access (homeOf pa) (256 + f)

/-- Every function, strand, element, launch and job is as before. -/
def State.hostKept (s t : State) : Prop :=
  (∀ g, t.func g = s.func g) ∧ t.strands = s.strands ∧ t.elements = s.elements ∧ t.tiles = s.tiles ∧
  t.launches = s.launches ∧ t.jobs = s.jobs

/-- The number of the bytes, lowest first (00 R2). -/
def littleEndian (d : List Byte) : Nat := d.foldr (fun b n => b.toNat + 256 * n) 0

/-- Wait slot n of function f is done with the value v: disarmed, and its vector raised; nothing else of the functions and
nothing of device memory changes. -/
def State.waitOver (s t : State) (f n : Nat) (va : BitVec 52) (v : Word64) : Prop :=
  (t.func f).slot n = { va := va, armed := false, place := .none, value := v } ∧
  (t.func f).msix = (s.func f).msix ++ [n] ∧ (∀ i, i < 16 → i ≠ n → (t.func f).slot i = (s.func f).slot i) ∧
  (∀ g, g ≠ f → t.func g = s.func g) ∧ t.mem = s.mem ∧ t.strands = s.strands

/-- The request of portal p: the oldest without a reply. -/
def Portal.waiting (q : Portal) (i : Nat) (r : PortalReq) : Prop :=
  q.reqs[i]? = some r ∧ r.reply = none ∧ ∀ j x, j < i → q.reqs[j]? = some x → x.reply.isSome = true

/-- Portal p of launch l, which runs, is q. -/
def State.portalIs (s : State) (p : Nat) (l : Launch) (q : Portal) : Prop :=
  s.liveAt (p / 3) = some l ∧ (s.port p).portal = some q

/-! ### Steps (06 R87, R88; log 3) -/

/-- The state in which strand i of cluster c fetches: `turns` named the cluster, whose sequencer has issued in this cycle. -/
def State.atIssue (s : State) (c i : Nat) (home : Bool) (rest : List Turn) : State :=
  let s1 := State.setCluster { s with turns := rest } c
    { s.cluster c with issuedAt := some s.fc, rr := if home then (s.cluster c).rr else i }
  (s1.noteIssue (8 * c + i)).setIssue { k := 8 * c + i, hi := none, exam := false }

/-- The next turn is an issue cycle of cluster c, which may issue, and its strand i is the one chosen (06 R87). -/
def State.issues (s : State) (c i : Nat) (home : Bool) (rest : List Turn) : Prop :=
  s.turns = .issue c :: rest ∧ s.dv.frozen = false ∧ (s.cluster c).issuedAt ≠ some s.fc ∧
  (s.cluster c).present.getLsbD 21 = true ∧ s.pick c = some (i, home)

/-- The bytes of a word as memory holds them (00 R2). -/
def bytesOf (w : Word32) : List Byte := [w.extractLsb' 0 8, w.extractLsb' 8 8, w.extractLsb' 16 8, w.extractLsb' 24 8]

/-- The state in which element e arbitrates: `turns` named it, its slots due to be lifted are, and its governor's window is
the present one. -/
def State.atCycle (s : State) (e : Nat) (rest : List Turn) : State :=
  (State.setElement { s with turns := rest } e
    { (List.range 32).foldl (fun y n => y.lift n) (s.element e) with arbAt := some s.fc }).govRoll (e / 12)

/-- The next turn is a cycle of element e of the running launch l, in which it neither completes nor flips, and slot n is
the one eligible slot (07 R108–R113). -/
def State.oneSlot (s : State) (e n : Nat) (l : Launch) (rest : List Turn) : Prop :=
  let x := s.element e
  let s1 := s.atCycle e rest
  s.turns = .fire e :: rest ∧ s.liveAt (e / 12) = some l ∧ s.canFire e = true ∧ x.heldV = none ∧ x.heldM = none ∧
  s1.flipDue l e = false ∧ s1.wrongVersion l e = false ∧ s1.completeDue l e = false ∧ s1.eligibles l e false = [n] ∧
  s1.eligibles l e true = [] ∧ s1.undoHeld l e (n, (s1.element e).slotBank n) = false

end Sys2Proof.Machine
end

