-- ==== Sys2Proof/Certificates/Slice0/Obligations.lean ====
section
/-! DEFINITION. The statements for the provers, from the numbered rules of spec/. Each docstring names the rules it rests on; "log <n>" names
an entry of the assumption log, which is the model's and no rule of the spec. -/

open Sys2Proof Sys2Proof.Machine

/-- R93: whatever the operands, an integer instruction completes with the table's result in gd, goes on at the word after it
or after its pair, and changes nothing else; a result for g0 is discarded. An immediate is extended as R59 and R62 say. -/
def Obligations.IntegerTable : Prop :=
  (∀ (i : Instr) (gd ga gb : GReg) (f : Word64 → Word64 → Word64) (s : State), aluRow i = some (gd, ga, gb, f) →
    ∃ t, exec i s = .next t ∧ s.wrote t gd (f (s.reg ga) (s.reg gb)) s.after) ∧
  (∀ (i : Instr) (gd ga : GReg) (b : Int) (f : Word64 → Word64 → Word64) (s : State), aluImmRow s i = some (gd, ga, b, f) →
    ∃ t, exec i s = .next t ∧ s.wrote t gd (f (s.reg ga) (BitVec.ofInt 64 b)) s.after)

/-- R94. -/
def Obligations.LihBuildsTheUpperHalf : Prop :=
  ∀ (gd ga : GReg) (imm : BitVec 16) (s : State), ∃ t, exec (.lih gd ga imm) s = .next t ∧
    s.wrote t gd (BitVec.ofNat 64 (s.immNat imm % 2 ^ 32 * 2 ^ 32 + (s.reg ga).toNat % 2 ^ 32)) s.after

/-- R95: a branch whose test holds goes to its own address plus four times its offset, any other to the word after it;
no register is written. -/
def Obligations.Branches : Prop :=
  ∀ (i : Instr) (ga gb : GReg) (off : BitVec 16) (test : Word64 → Word64 → Bool) (s : State),
    branchRow i = some (ga, gb, off, test) →
    ∃ t, exec i s = .next t ∧
      s.went t (if test (s.reg ga) (s.reg gb) then s.at + BitVec.ofInt 64 (4 * s.immInt off) else s.after)

/-- R96 and R97: J writes no register, JAL writes the address after it to g31, and JALR to gd after its target is read. -/
def Obligations.Jumps : Prop :=
  (∀ (off : BitVec 26) (s : State), ∃ t, exec (.j off) s = .next t ∧
    s.went t (s.at + BitVec.ofInt 64 (4 * s.offInt off))) ∧
  (∀ (off : BitVec 26) (s : State), ∃ t, exec (.jal off) s = .next t ∧
    s.wrote t 31 (s.at + 4) (s.at + BitVec.ofInt 64 (4 * s.offInt off))) ∧
  (∀ (gd ga : GReg) (imm : BitVec 16) (s : State), ∃ t, exec (.jalr gd ga imm) s = .next t ∧
    s.wrote t gd (s.at + 4) ((s.reg ga + BitVec.ofInt 64 (s.immInt imm)) &&& ~~~3))

/-- R101: a trap of any cause is taken by the handler, handed to the supervisor, or handed over as a double trap. -/
def Obligations.TrapEntry : Prop :=
  ∀ (s : State) (code : BitVec 8) (tval epc : Word64), s.issue.k < 1152 → s.ringOn →
    s.trapped (s.takeTrap s.issue.k code tval epc s.isPair) code tval epc

/-- R100, R77 and R88: TRAP, an illegal word and a failing fetch take the strand's handler; SVC goes to the supervisor
with every register as it was. TRAP and SVC resume at the word after them, the others at themselves. -/
def Obligations.TrapsByInstruction : Prop :=
  (∀ (code : BitVec 16) (s : State), s.handler →
    ∃ t, exec (.trap code) s = .next t ∧ s.handled t 0x03 (BitVec.ofNat 64 (s.immNat code)) s.after) ∧
  (∀ (code : BitVec 16) (s : State), s.issue.k < 1152 → s.ringOn →
    ∃ t, exec (.svc code) s = .next t ∧ s.handedOver t 0x04 (BitVec.ofNat 64 (s.immNat code)) s.after) ∧
  (∀ (w : Word32) (s : State), s.handler →
    ∃ t, exec (.illegalInstruction w) s = .next t ∧ s.handled t 0x01 (BitVec.ofNat 64 w.toNat) s.cur.pc) ∧
  (∀ (code : BitVec 8) (tval : Word64) (s : State), s.issue.k < 1152 → s.ringOn →
    ∃ t, exec (.instructionFetchFault code tval) s = .next t ∧ s.trapped t code tval s.cur.pc)

/-- R102: RETT goes on at SQ_EPC and clears INTRAP; in a job strand outside a handler it takes trap 0x01 with its word. -/
def Obligations.ReturnFromTrap : Prop :=
  ∀ s : State,
    ((s.cur.priv = true ∨ s.cur.intrap = true) →
      ∃ t, exec .rett s = .next t ∧ s.onlyStrand t s.issue.k ∧
        t.cur = { s.cur with pc := s.cur.epc, intrap := false, mode := .ready, pend := none }) ∧
    (s.cur.priv = false → s.cur.intrap = false → s.issue.k < 1152 → s.ringOn →
      ∃ t, exec .rett s = .next t ∧ s.trapped t 0x01 0xD0000000 s.cur.pc)

/-- R89 to R91, R98 and 02 R24: MFC completes with what a register of the unit it names holds, and a read clears the fields
that a read clears; MTC completes with the fields written that the register's chapter lets be written. What a strand may not
reach takes "access denied" with the field of its immediate, and changes no register but the handler's; a number without an owner
is illegal. What DV_POWER reads as measured is a free value (log 10); that S7 of a D4 sequencer is no unit to a job strand, and
that it writes no register through another strand's identifier, are the model's choices (log 32, 85). -/
def Obligations.ControlRegisters : Prop :=
  ((∀ (gd : GReg) (n : BitVec 16) (s : State), s.issue.hi = none → n.toNat < 10 →
    ∃ t, exec (.mfc gd n) s = .next t ∧ s.wrote t gd (BitVec.ofNat 64 (sqValue s.cur s.issue.k n.toNat)) s.after) ∧
  (∀ (ga : GReg) (n : BitVec 16) (s : State), s.issue.hi = none → n.toNat < 9 →
    ∃ t, exec (.mtc ga n) s = .next t ∧ s.onlyStrand t s.issue.k ∧
      t.cur = { sqWritten s.cur n.toNat (s.reg ga) with pc := s.after, mode := .ready, pend := none })) ∧
  ((∀ (ga : GReg) (n : BitVec 16) (s : State), s.issue.hi = none → s.handler → s.cur.priv = false →
    n.toNat ∈ [0x009, 0x100, 0x101, 0x501, 0x504, 0x50B, 0x50D] ∨ (0x080 ≤ n.toNat ∧ n.toNat ≤ 0x09F) →
    ∃ t, exec (.mtc ga n) s = .next t ∧ s.handled t 0x02 (BitVec.ofNat 64 n.toNat) s.cur.pc) ∧
  (∀ (gd : GReg) (n : BitVec 16) (s : State), s.cur.mode = .ready → s.issue.hi = none → s.handler → 0x080 ≤ n.toNat →
    n.toNat ≤ 0x09F → ∃ t, exec (.mfc gd n) s = .next t ∧ s.handled t 0x02 (BitVec.ofNat 64 n.toNat) s.cur.pc) ∧
  (∀ (gd : GReg) (n : BitVec 16) (s : State), s.issue.hi = none → s.handler →
    (0x00A ≤ n.toNat ∧ n.toNat < 0x080) ∨ (0x200 ≤ n.toNat ∧ n.toNat < 0x500) ∨ 0x600 ≤ n.toNat →
    ∃ t, exec (.mfc gd n) s = .next t ∧
      s.handled t 0x01 (BitVec.ofNat 64 (0x78000000 + gd.toNat * 2 ^ 21 + n.toNat)) s.cur.pc)) ∧
  ((∀ (gd : GReg) (n : BitVec 16) (s : State) (u : UnitRef) (v : Nat), s.namesUnit u → s.regValue u n.toNat = some v →
    (0x080 ≤ n.toNat ∧ n.toNat < 0x0A0 → s.cur.priv = true ∧ ∀ k, u = .strand k → (s.strand k).mode = .suspended) →
    (n.toNat = 0x50B → s.cur.priv = false) →
    ∃ t, exec (.mfc gd n) s = .next t ∧
      (s.afterRead u n.toNat).wrote t gd (BitVec.ofNat 64 (s.readsAs n.toNat v)) s.after) ∧
  (∀ (gd : GReg) (s : State) (u : UnitRef), s.namesUnit u → s.cur.priv = true →
    ∃ t M T, exec (.mfc gd 0x50B) s = .next t ∧
      State.wrote { s with freeCount := s.freeCount + 1, dv := { s.dv with powerMeas := M, powerTemp := T } } t gd
        (BitVec.ofNat 64 (T.toNat * 2 ^ 32 + M.toNat * 2 ^ 16 + s.dv.powerCap.toNat)) s.after) ∧
  (∀ (ga : GReg) (n : BitVec 16) (s : State) (u : UnitRef), s.namesUnit u → (s.regValue u n.toNat).isSome = true →
    s.mayWrite u n.toNat → (s.issue.hi.isSome = true → ∀ l, s.regionOf u = some l → l.window = none) →
    ∃ t, exec (.mtc ga n) s = .next t ∧
      (s.afterWrite u n.toNat (s.reg ga)).went t (s.afterWrite u n.toNat (s.reg ga)).after)) ∧
  ((∀ (g : GReg) (n : BitVec 16) (s : State) (h : BitVec 26), s.issue.hi = some h → (∀ u, ¬s.namesUnit u) → s.handler →
    ∀ i ∈ [Instr.mfc g n, .mtc g n],
      ∃ t, exec i s = .next t ∧ s.handled t 0x02 (BitVec.ofNat 64 (h.toNat * 2 ^ 16 + n.toNat)) s.cur.pc) ∧
  (∀ (ga : GReg) (n : BitVec 16) (s : State) (h : BitVec 26) (k : Nat), s.issue.hi = some h → s.namesUnit (.strand k) →
    k ≠ s.issue.k → s.cur.priv = false → s.handler → (s.regValue (.strand k) n.toNat).isSome = true →
    ∃ t, exec (.mtc ga n) s = .next t ∧ s.handled t 0x02 (BitVec.ofNat 64 (h.toNat * 2 ^ 16 + n.toNat)) s.cur.pc))

/-- R62 and R63: a pair runs its second word with the prefix's bits, and a pair the rules refuse traps with that word. -/
def Obligations.PairsRun : Prop :=
  (∀ (hi : BitVec 26) (w : Word32) (i : Instr) (s : State), pairOk hi w = true → decodeWord w = .ok i →
    exec (.xiPrefix hi w) s = exec i (s.withHi hi)) ∧
  (∀ (hi : BitVec 26) (gd ga : GReg) (imm : BitVec 16) (s : State),
    ∃ t, exec (.xiPrefix hi (iWord 0x10 gd ga imm)) s = .next t ∧
      (s.withHi hi).wrote t gd (s.reg ga + BitVec.ofInt 64 (hi.toInt * 65536 + imm.toNat)) (s.cur.pc + 8)) ∧
  (∀ (hi : BitVec 26) (w : Word32) (s : State), pairOk hi w = false → s.handler →
    ∃ t, exec (.xiPrefix hi w) s = .next t ∧ (s.withHi hi).handled t 0x01 (BitVec.ofNat 64 w.toNat) s.cur.pc)

/-- R246: the checks of an access in their order. An address of 2^52 or more does not translate, a misaligned one is
misaligned, and an address of the job's heap is HOFF away, with no page table read and nothing of the machine changed. -/
def Obligations.AccessChecks : Prop :=
  ∀ (s : State) (a : Word64) (n : Nat) (write : Bool) (right : Nat),
    (2 ^ 52 ≤ a.toNat → s.prep a n write right = (.trap 0x05 a, s)) ∧
    (a.toNat < 2 ^ 52 → n ≠ 0 → a.toNat % n ≠ 0 → s.prep a n write right = (.trap 0x0C a, s)) ∧
    (a.toNat < 2 ^ 52 → (n = 0 ∨ a.toNat % n = 0) → (s.strandX s.issue.k).inHeap a.toNat = true →
      let pa := (a.toNat + (s.strandX s.issue.k).hoff) % 2 ^ 44
      s.prep a n write right =
        if right ≤ s.access (targetSlice (homeOf pa)) (s.masterOf s.issue.k) then (.ok pa a.toNat, s)
        else (.trap 0x02 a, s))

/-- R248: an ordinary load, a waiting load of a full cell and a consuming load of a full cell return the bytes at the
address, zero-extended; only the consuming load changes memory, and it only empties the cell. -/
def Obligations.Loads : Prop :=
  ∀ (size : BitVec 2) (gd ga : GReg) (disp : BitVec 11) (s : State) (pa : Nat),
    let n := 2 ^ size.toNat
    let v := BitVec.ofNat 64 (s.mem.nat pa n)
    s.reaches (s.mAddr size ga disp) n false 1 pa → s.cleanAt pa → (∀ p ∈ s.cur.posted, p.pa / 32 ≠ pa / 32) →
    s.hasRoom pa →
    (s.feOk pa → ∃ t, exec (.ld size gd ga disp) s = .next t ∧ s.curWrote t gd v s.after ∧ s.sameMemory t ∧
      s.unitsKept t) ∧
    ((s.mem.sideAt pa).fe = 2 → s.cur.pend = none →
      ∃ t, exec (.ldW size gd ga disp) s = .next t ∧ s.curWrote t gd v s.after ∧ s.sameMemory t ∧ s.unitsKept t) ∧
    ((s.mem.sideAt pa).fe = 2 → s.cur.pend = none → s.quiet pa → s.writeHeld pa = false →
      ∃ t, exec (.ldC size gd ga disp) s = .next t ∧ s.curWrote t gd v s.after ∧ s.feSet t pa 1 ∧ s.unitsKept t)

/-- R247, R249 and 16 R242: ST and ST.X complete when the store path accepts them, with memory as it was and the store, with the
share of its bytes, last of those the strand has posted; ST.F writes an empty cell and fills it. -/
def Obligations.Stores : Prop :=
  (∀ (size : BitVec 2) (gd ga : GReg) (disp : BitVec 11) (s : State) (pa : Nat),
    let a := s.mAddr size ga disp
    let p (fill : Bool) : Posted := { va := a.toNat, pa := pa, size := 2 ^ size.toNat, value := s.reg gd,
                                      share := shareOf (pa % 32) (2 ^ size.toNat) (s.reg gd).toNat, fill := fill,
                                      atSlice := false }
    s.reaches a (2 ^ size.toNat) true 2 pa →
    (∃ t, exec (.st size gd ga disp) s = .next t ∧ s.sameMemory t ∧ s.unitsKept t ∧
      t.cur = { s.cur with pc := s.after, mode := .ready, pend := none, posted := s.cur.posted ++ [p false] }) ∧
    (∃ t, exec (.stX size gd ga disp) s = .next t ∧ s.sameMemory t ∧ s.unitsKept t ∧
      t.cur = { s.cur with pc := s.after, mode := .ready, pend := none, posted := s.cur.posted ++ [p true] })) ∧
  (∀ (size : BitVec 2) (gd ga : GReg) (disp : BitVec 11) (s : State) (pa : Nat),
    s.reaches (s.mAddr size ga disp) (2 ^ size.toNat) true 2 pa → s.cleanAt pa → s.quiet pa →
    (s.mem.sideAt pa).fe = 1 → s.cur.posted = [] → s.cur.pend = none → s.writeHeld pa = false →
    ∃ t, exec (.stF size gd ga disp) s = .next t ∧ s.curWrote t 0 0 s.after ∧ s.unitsKept t ∧
      s.stored t pa (2 ^ size.toNat) (s.reg gd).toNat 2)

/-- R247 and 14 R214: a posted store that may perform stores exactly its bytes at the address it was posted to, at once
when no other L1 holds the line, and otherwise once that copy is invalidated. ST.X leaves the cell full, ST as it was. -/
def Obligations.PostedStoresPerform : Prop :=
  ∀ (k n : Nat) (s : State) (p : Posted),
    (s.strand k).posted[n]? = some p → postedFree (s.strand k).posted n = true → s.cleanAt p.pa → s.feOk p.pa →
    s.quiet p.pa → p.size ∈ [1, 2, 4, 8] → p.pa % p.size = 0 → s.writeHeld p.pa = false →
    p.share = shareOf (p.pa % 32) p.size p.value.toNat →
    let done (t : State) : Prop :=
      s.stored t p.pa p.size p.value.toNat (if p.fill then 2 else (s.mem.sideAt p.pa).fe) ∧
      t.strand k = { s.strand k with posted := (s.strand k).posted.eraseIdx n } ∧
      (∀ j, j ≠ k → t.strand j = s.strand j)
    (p.atSlice = false → s.l1Shared p.pa (some (portOfStrand k)) = false →
      ∃ t, exec (.homeSliceAccess k n) s = .next t ∧ done t) ∧
    (p.atSlice = false → s.l1Shared p.pa (some (portOfStrand k)) = true →
      ∃ t, exec (.homeSliceAccess k n) s = .next t ∧ s.sameMemory t ∧
        (t.strand k).posted = (s.strand k).posted.set n { p with atSlice := true }) ∧
    (p.atSlice = true → ∃ t, exec (.l1WriteAck k n) s = .next t ∧ done t)

/-- R250, R251 and R252: FEGET reads the state and W of a cell, FESET writes the state alone, a prefetch changes no
register and no byte; FESET of a state that is neither full nor empty is illegal. -/
def Obligations.StateOperations : Prop :=
  (∀ (gd ga : GReg) (disp : BitVec 11) (s : State) (pa : Nat), s.reaches (s.mAddr 3 ga disp) 0 false 1 pa → s.feOk pa →
    (∀ p ∈ s.cur.posted, p.pa / 32 ≠ pa / 32) →
    ∃ t, exec (.feget gd ga disp) s = .next t ∧ s.sameMemory t ∧ s.unitsKept t ∧
      s.curWrote t gd (BitVec.ofNat 64 (4 * (s.mem.sideAt pa).w.toNat + (s.mem.sideAt pa).fe.toNat)) s.after) ∧
  (∀ (gd ga : GReg) (disp : BitVec 11) (s : State) (pa : Nat) (fe : BitVec 2),
    s.reaches (s.mAddr 3 ga disp) 0 true 2 pa → s.feOk pa → s.quiet pa → s.cur.posted = [] → s.writeHeld pa = false →
    (fe = 1 ∨ fe = 2) → (s.reg gd).toNat % 4 = fe.toNat →
    ∃ t, exec (.feset gd ga disp) s = .next t ∧ s.feSet t pa fe ∧ s.unitsKept t ∧ s.curWrote t 0 0 s.after) ∧
  (∀ (gd ga : GReg) (disp : BitVec 11) (s : State), s.handler → s.issue.hi = none →
    ((s.reg gd).toNat % 4 = 0 ∨ (s.reg gd).toNat % 4 = 3) →
    ∃ t, exec (.feset gd ga disp) s = .next t ∧
      s.handled t 0x01 (BitVec.ofNat 64 (0x8C00C000 + gd.toNat * 2 ^ 21 + ga.toNat * 2 ^ 16 + disp.toNat)) s.cur.pc) ∧
  (∀ (ga : GReg) (disp : BitVec 11) (s : State), (s.mAddr 3 ga disp).toNat < 2 ^ 52 → (∀ pa, s.hasRoom pa) →
    (∃ t, exec (.prefL2 ga disp) s = .next t ∧ s.curWrote t 0 0 s.after ∧ s.sameMemory t ∧ s.unitsKept t) ∧
    (∃ t, exec (.prefL1 ga disp) s = .next t ∧ s.curWrote t 0 0 s.after ∧ s.sameMemory t ∧ s.unitsKept t))

/-- R253 and R254: an AMO or CAS returns the old value and stores the table's result, of 4 or 8 bytes; the cell's state
does not change. -/
def Obligations.Atomics : Prop :=
  ∀ (i : Instr) (dbl : Bool) (gd ga : GReg) (f : Nat → Nat → Nat) (s : State) (pa : Nat),
    atomicRow s i = some (dbl, gd, ga, f) →
    let n := if dbl then 8 else 4
    s.reaches (s.reg ga) n true 3 pa → s.feOk pa → s.cleanAt pa → s.cur.posted = [] → s.writeHeld pa = false →
    s.noRecord → s.hasRoom pa →
    ∃ t, exec i s = .next t ∧ s.curWrote t gd (BitVec.ofNat 64 (s.mem.nat pa n)) s.after ∧ s.unitsKept t ∧
      s.stored t pa n (f n (s.mem.nat pa n)) (s.mem.sideAt pa).fe

/-- R253, R255 and R256: AMO.FADD returns the old value and stores the sum in its format, rounded to nearest even, and the
launch's status takes FPUNSEQ. The first contribution of a sequence empties the element's cell. One whose number is due is added at
once, and after it those that the reorder buffer holds in turn; after the last the sequence closes and the cell is full. One
that comes early waits in the buffer with the element as it was. -/
def Obligations.FloatingAndSequencedAtomics : Prop :=
  (∀ (dbl : Bool) (gd ga gb : GReg) (s : State) (pa : Nat),
    let n := if dbl then 8 else 4
    let old := s.mem.nat pa n
    let b := (s.reg gb).toNat % 256 ^ n
    let sum := if dbl then FloatFmt.f64.ne ((FloatFmt.f64.value old).add (FloatFmt.f64.value b))
      else FloatFmt.f32.ne ((FloatFmt.f32.value old).add (FloatFmt.f32.value b))
    s.reaches (s.reg ga) n true 3 pa → s.feOk pa → s.cleanAt pa → s.cur.posted = [] → s.writeHeld pa = false →
    s.noRecord → s.hasRoom pa →
    ∃ t, exec (.amoFadd dbl gd ga gb) s = .next t ∧ s.curWrote t gd (BitVec.ofNat 64 old) s.after ∧
      s.stored t pa n sum (s.mem.sideAt pa).fe ∧
      t.launches = s.launches.map (fun l => if some l.id = (s.launchOf s.issue.k).map (·.id)
        then { l with status := l.status ||| 8 } else l)) ∧
  (∀ (i : Instr) (ga gb gc : GReg) (n fmt : Nat) (s : State) (pa T m : Nat),
    let h := s.slice (homeOf pa)
    let old := h.seqs.find? (fun y => y.pa == pa)
    let q := old.getD { pa := pa, fmt := fmt, t := T, x := 0, job := s.strandJob s.issue.k, bad := false }
    (i, n, fmt) ∈ [(.samoF32 ga gb gc, 4, 0), (.samoF64 ga gb gc, 8, 1), (.samoI64 ga gb gc, 8, 2)] →
    s.reaches (s.reg ga) n true 3 pa → s.feOk pa → s.cleanAt pa → s.quiet pa → s.cur.posted = [] → s.cur.pend = none →
    s.writeHeld pa = false → (s.reg gc).toNat = T * 2 ^ 32 + m → m < 2 ^ 32 → m < T → (old = none → h.seqs.length < 64) →
    q.fmt = fmt → q.t = T →
    (∀ cs, q.x = m → q.bad = false → cs.head? = some (s.reg gb).toNat → samoRun h.reorder pa m T cs →
      ∃ t, exec i s = .next t ∧ s.curWrote t 0 0 s.after ∧ s.unitsKept t ∧
        s.stored t pa n (cs.foldl (elementSum fmt) (s.mem.nat pa n))
          (if m + cs.length = T then 2 else if old = none then 1 else (s.mem.sideAt pa).fe) ∧
        (t.slice (homeOf pa)).seqs = (if m + cs.length = T then h.seqs.filter (fun y => y.pa != pa)
          else if old = none then h.seqs ++ [{ q with x := m + cs.length }]
          else h.seqs.map (fun y => if y.pa = pa then { q with x := m + cs.length } else y)) ∧
        (t.slice (homeOf pa)).reorder = h.reorder.filter (fun y => !(y.pa == pa && m < y.n && y.n < m + cs.length))) ∧
    (q.x < m → h.reorder.length < 256 → (∀ y ∈ h.reorder, y.pa = pa → y.n ≠ m) →
      ∃ t, exec i s = .next t ∧ s.curWrote t 0 0 s.after ∧ s.unitsKept t ∧
        s.feSet t pa (if old = none then 1 else (s.mem.sideAt pa).fe) ∧
        (t.slice (homeOf pa)).seqs = (if old = none then h.seqs ++ [q] else h.seqs) ∧
        (t.slice (homeOf pa)).reorder = h.reorder ++ [{ pa := pa, n := m, c := s.reg gb }]))

/-- R258: a fence completes once every earlier store of the strand has performed, and FENCE.ENG once its engine commands
have finished too; until then the strand waits where it is. -/
def Obligations.Fences : Prop :=
  ∀ s : State,
    (s.cur.posted = [] → ∃ t, exec .fence s = .next t ∧ s.went t s.after) ∧
    (s.cur.posted = [] → (∀ x ∈ s.ports, ∀ c ∈ x.2.cmds, c.owner ≠ s.issue.k) →
      ∃ t, exec .fenceEng s = .next t ∧ s.went t s.after) ∧
    (s.cur.posted ≠ [] → s.cur.pend = none → ∀ i ∈ [Instr.fence, .fenceEng],
      ∃ t, exec i s = .next t ∧ s.onlyStrand t s.issue.k ∧ t.cur.pc = s.cur.pc ∧ t.cur.mode = .waiting ∧
        t.cur.g = s.cur.g)

/-- R259, R260, 14 R210, R215, R222 and 16 R230, R234: FLUSH leaves every byte as it was and no dirty cell in the lines of its
range; DISCARD drops every line of the job's tensor that nothing holds; TLBINV leaves no translation it names in any TLB. A line
that no merge group covers leaves its home slice with every byte, and every other line, as it was, and no L1 keeps a copy of it;
a strand that waits in its slice for a cell of it stands unlisted then, where no park area is set up. A covered line stays. -/
def Obligations.CachesAndTranslations : Prop :=
  ((∀ (ga gb : GReg) (s : State),
    let a := (s.reg ga).toNat
    let n := (s.reg gb).toNat
    n ≤ 2 ^ 30 → a < 2 ^ 52 → (∀ k, k ≤ 16386 → s.passesPages a (a + n) k) →
    ∃ t, exec (.flush ga gb) s = .next t ∧ s.curWrote t 0 0 s.after ∧ s.sameMemory t ∧ s.unitsKept t) ∧
  (∀ (ga gb : GReg) (s : State) (h : Nat) (l : L2Line),
    let a := (s.reg ga).toNat
    let n := (s.reg gb).toNat
    let pa := (a + (s.strandX s.issue.k).hoff) % 2 ^ 44
    0 < n → a % 65536 + n ≤ 65536 → a < 2 ^ 52 → (s.strandX s.issue.k).inHeap a = true → l.addr < pa + n →
    pa < l.addr + 256 →
    ∃ t, exec (.flush ga gb) s = .next t ∧ (l ∈ (t.slice h).lines → l.dirty = 0)) ∧
  (∀ (ga : GReg) (s : State), (s.reg ga).toNat < 2 ^ 16 → s.reg ga ≠ 0 → s.cur.posted = [] →
    ((s.job (s.strandJob s.issue.k)).tensors.any fun t => t.1.toNat == (s.reg ga).toNat) = true →
    ∃ t, exec (.discard ga) s = .next t ∧ s.curWrote t 0 0 s.after ∧ s.unitsKept t ∧
      ∀ h, ∀ l ∈ (t.slice h).lines, l.job = s.strandJob s.issue.k → l.id.toNat = (s.reg ga).toNat →
        s.keepsLine (s.slice h) l = true) ∧
  (∀ (ga gb : GReg) (s : State), s.cur.priv = true → (s.reg gb).toNat < 1024 →
    (∀ x ∈ s.slices, x.2.waits = []) → (∀ x ∈ s.strands, x.2.posted = []) →
    ∃ t, exec (.tlbinv ga gb) s = .next t ∧ s.curWrote t 0 0 s.after ∧ s.sameMemory t ∧ s.unitsKept t ∧
      (∀ c, ∀ e ∈ (t.cluster c).tlb, tlbMatch (s.reg ga) (s.reg gb) e = false) ∧
      (∀ p, ∀ e ∈ (t.port p).tlb, tlbMatch (s.reg ga) (s.reg gb) e = false)) ∧
  (∀ (ga gb : GReg) (s : State), s.cur.priv = false → s.handler → s.issue.hi = none →
    ∃ t, exec (.tlbinv ga gb) s = .next t ∧
      s.handled t 0x02 (BitVec.ofNat 64 (0xD0000003 + ga.toNat * 2 ^ 16 + gb.toNat * 2 ^ 11)) s.cur.pc)) ∧
  (∀ (h line : Nat) (s : State), (s.slice h).lines.any (fun x => x.addr == line) = true →
    (s.writeHeld line = true → exec (.l2LineEvict h line) s = .next s) ∧
    (s.writeHeld line = false →
      let leaves (w : WaitEntry) : Bool := w.pa / 256 * 256 == line && w.kind != 4
      let gone (t : State) : Prop :=
        (t.slice h).lines = (s.slice h).lines.filter (fun x => x.addr != line) ∧
        (t.slice h).waits = (s.slice h).waits.filter (fun w => !leaves w) ∧ s.sameMemory t ∧ t.dv = s.dv ∧
        ∀ p, ∀ n ∈ (t.port p).l1, n * 64 / 256 * 256 ≠ line
      ((∀ w ∈ (s.slice h).waits, leaves w = false) →
        ∃ t, exec (.l2LineEvict h line) s = .next t ∧ gone t ∧ { t with slices := s.slices, ports := s.ports } = s) ∧
      (s.dv.parktab.toNat % 64 = 0 → (∀ w ∈ (s.slice h).waits, leaves w = true → ∃ k, w.who = .strand k) →
        ∃ t, exec (.l2LineEvict h line) s = .next t ∧ gone t ∧
          ∀ k, t.strand k = if (s.slice h).waits.any (fun w => leaves w && w.who == .strand k)
            then { s.strand k with pend := (s.strand k).pend.map (fun p => { p with place := .unlisted s.fc }) }
            else s.strand k)))

/-- R261, R262 and 16 R236, R237: BCOPY with nothing left to copy completes at once; it copies a cell whole, with its code, at the
destination in the state its mode says or under KEEPW with the source's state and W bit; mode 3 takes a full source and empties
it. gd counts the cells copied, and the strand waits where it is until the last. A control word that the rules refuse is
denied. -/
def Obligations.BlockCopy : Prop :=
  (∀ (gd ga gb gc : GReg) (s : State) (dst src ctl idx : Nat),
    let i := Instr.bcopy gd ga gb gc
    let mode := ctl / 2 ^ 24 % 4
    let N := ctl % 2 ^ 24
    let keepw := ctl / 2 ^ 26 = 1
    let at_ (x : Nat) : Word64 := BitVec.ofNat 64 x + BitVec.ofNat 64 (32 * idx)
    ctl < 2 ^ 27 → (keepw → s.cur.priv = true ∧ mode = 0) → dst % 32 = 0 → src % 32 = 0 → s.cur.posted = [] →
    (s.cur.pend = none ∧ dst = (s.reg ga).toNat ∧ src = (s.reg gb).toNat ∧ ctl = (s.reg gc).toNat ∧
        idx = (s.reg gd).toNat) ∨
      (∃ p, s.cur.pend = some p ∧ p.instr = i ∧ (p.place = .none ∨ p.place = .woken none) ∧ p.stage = 1 ∧
        p.walks = [(dst, src, ctl)] ∧ p.value.toNat = idx) →
    (N ≤ idx → ∃ t, exec i s = .next t ∧ s.went t s.after) ∧
    (∀ d c : Nat, idx < N → s.reaches (at_ dst) 0 true 2 d → (s.prep (at_ dst) 0 true 2).2.reaches (at_ src) 0 false 1 c →
      s.feOk d → s.feOk c → s.quiet d → s.writeHeld d = false →
      (mode = 3 → (s.mem.sideAt c).fe = 2 ∧ s.quiet c ∧ s.writeHeld c = false) →
      ∃ t, exec i s = .next t ∧ s.unitsKept t ∧
        (∀ q, t.reg q = if q = 0 then 0 else if q = gd then BitVec.ofNat 64 (idx + 1) else s.reg q) ∧
        (if N = idx + 1 then { t.cur with g := s.cur.g } = { s.cur with pc := s.after, mode := .ready, pend := none }
         else { t.cur with g := s.cur.g, pend := none } = { s.cur with mode := .waiting, pend := none } ∧
           ∃ p, t.cur.pend = some p ∧ p.instr = i ∧ p.place = .none ∧ p.stage = 1 ∧ p.walks = [(dst, src, ctl)] ∧
             p.value.toNat = idx + 1) ∧
        (∀ n, n < 32 → t.mem.byte (d + n) = s.mem.byte (c + n)) ∧
        (∀ a, a < d ∨ d + 32 ≤ a → t.mem.byte a = s.mem.byte a) ∧
        (∀ a, a / 32 ≠ d / 32 → t.mem.sideAt a =
          if mode = 3 ∧ a / 32 = c / 32 then { s.mem.sideAt c with fe := 1 } else s.mem.sideAt a) ∧
        t.mem.sideAt d = { fe := if mode = 0 then (s.mem.sideAt c).fe else if mode = 2 then 1 else 2,
                           w := if keepw then (s.mem.sideAt c).w else (s.mem.sideAt d).w,
                           code := (s.mem.sideAt c).code })) ∧
  (∀ (gd ga gb gc : GReg) (s : State),
    let ctl := (s.reg gc).toNat
    s.cur.pend = none → s.handler → 2 ^ 27 ≤ ctl ∨ (ctl / 2 ^ 26 % 2 = 1 ∧ (s.cur.priv = false ∨ ctl / 2 ^ 24 % 4 ≠ 0)) →
    ∃ t, exec (.bcopy gd ga gb gc) s = .next t ∧ s.handled t 0x02 (s.reg gc) s.cur.pc)

/-- R86, 16 R232, R234 and 17 R257: an instruction in flight runs again when what it waits for has come: a waiting strand's at
once, a woken access and, 256 sc after its last examination, an unlisted one at the cost of one unit of the budget. So do a
consuming access of a copy engine, the load of a host wait slot and a write at the head of a function's posted writes (23 R336,
R337); these two have no budget. -/
def Obligations.WaitingInstructionsRunAgain : Prop :=
  (∀ (k : Nat) (s : State) (p : Pend) (w : Word32), (s.strand k).pend = some p → decodeWord w = .ok p.instr →
    let run (r : State) (exam : Bool) : Out := exec p.instr (r.setIssue { k := k, hi := p.hi, exam := exam })
    let spent : State := s.setStrand k
      { s.strand k with retry := if (s.strand k).retry = 0 then 0 else (s.strand k).retry - 1 }
    (p.place = .none → (s.strand k).mode = .waiting ∨ (s.strand k).mode = .parked →
      ∃ t, exec (.strandInstructionComplete k) s = .next t ∧ run s false = .next t) ∧
    ((∃ ga gb gc, p.instr = .samoF32 ga gb gc ∨ p.instr = .samoF64 ga gb gc ∨ p.instr = .samoI64 ga gb gc) →
      (p.place = .none → ∃ t, exec (.samoContribution k) s = .next t ∧ run s false = .next t) ∧
      (∀ r, p.place = .woken r → ∃ t, exec (.samoContribution k) s = .next t ∧ run spent true = .next t)) ∧
    (∀ r, p.place = .woken r → (s.strand k).mode = .parked →
      ∃ t, exec (.accessReexamine (.strand k)) s = .next t ∧ run spent true = .next t) ∧
    (∀ since, p.place = .unlisted since → since + 512 ≤ s.fc →
      ∃ t, exec (.unlistedReexamine (.strand k)) s = .next t ∧ run spent true = .next t)) ∧
  (∀ (s : State) (p t g pa : Nat) (l : Launch) (c : Cmd) (i : Instr), s.takesCell p t g l c →
    s.examines (.engine p c.id) c.place i → s.engAcc l p (crMem c.record c.next) false = (.ok pa, s) →
    let left : BitVec 16 := c.budget - (if c.budget = 0 then 0 else 1)
    ((s.mem.sideAt pa).fe = 2 → s.quiet pa → s.writeHeld pa = false →
      ∃ u, exec i s = .next u ∧ s.feSet u pa 1 ∧ u.strands = s.strands ∧ s.otherTiles u t ∧
        u.cmd? p c.id = some { c with next := c.next + 1, place := .none, budget := left } ∧
        u.tile t = (s.tile t).setGen g { (s.tile t).gen g with land := ((s.tile t).gen g).land ++ [
          { p := p, id := c.id, addr := crOff c.record (crToff c.record) c.next, cell := s.mem.cell pa }] }) ∧
    (∀ since, (s.mem.sideAt pa).fe = 1 → c.place = .unlisted since → 1 < c.budget.toNat →
      ∃ u, exec i s = .next u ∧ { u with ports := s.ports } = s ∧
        u.cmd? p c.id = some { c with place := .unlisted s.fc, budget := left })) ∧
  (∀ (s : State) (f n pa : Nat) (i : Instr),
    let w := (s.func f).slot n
    n < 16 → s.examines (.host f n) w.place i → s.hostReaches f w.va.toNat 1 pa → w.va.toNat % 32 = 0 →
    ((s.mem.sideAt pa).fe = 2 → s.cleanAt pa →
      ∃ t, exec i s = .next t ∧ s.waitOver t f n w.va (BitVec.ofNat 64 (s.mem.nat pa 8))) ∧
    (∀ since, (s.mem.sideAt pa).fe = 1 → w.place = .unlisted since →
      ∃ t, exec i s = .next t ∧ { t with funcs := s.funcs } = s ∧ (∀ g, g ≠ f → t.func g = s.func g) ∧
        t.func f = { s.func f with waits := vset (s.func f).waits n { w with place := .unlisted s.fc } })) ∧
  (∀ (s : State) (f pa : Nat) (w : HostWrite) (i : Instr), (s.func f).posted = [w] →
    s.examines (.fill f) w.place i ∨ (w.place = .none ∧ i = .accessReexamine (.fill f)) → w.va < 2 ^ 52 →
    s.hostReaches f w.va 2 pa → 0 < w.bytes.length → w.va % 32 + w.bytes.length ≤ 32 → s.cleanAt pa → s.quiet pa →
    s.writeHeld pa = false → s.feOk pa → (w.fill = true → (s.mem.sideAt pa).fe = 1) →
    ∃ t, exec i s = .next t ∧ s.stored t pa w.bytes.length (littleEndian w.bytes)
        (if w.fill then 2 else (s.mem.sideAt pa).fe) ∧
      t.func f = { s.func f with posted := [] } ∧ (∀ g, g ≠ f → t.func g = s.func g) ∧ t.strands = s.strands)

/-- R151 to R154: CONF.LOAD of a standby image gives its elements standby planes; of any other, once nothing moves and every
element is complete, it installs the image's launch state. CONF.SWITCH sends its switch tokens once nothing moves, and takes the
new version once every element and sink has switched. CONF.WAIT returns the fault word of a faulted configuration and 0 for a
complete one. SPARGE asks the window to close, and completes once the activities that it captured at its issue have finished. -/
def Obligations.Configuration : Prop :=
  (∀ (ga : GReg) (s s1 : State) (l : Launch) (g : Img) (st : Stage1), s.commands l → (s.reg ga).toNat % 32 = 0 →
    let s0 := s.capture (.confLoad ga) l
    s0.readImage (s.reg ga) = (some g, s1) → s1.checkImage l g = .ok st →
    (st.standby = true → (st.planes.map (·.1)).Nodup →
      ∃ t, exec (.confLoad ga) s = .next t ∧ s.curWrote t 0 0 s.after ∧ s.sameMemory t ∧
        (∀ q ∈ st.planes, ∃ p, (t.element q.1).standby = some p ∧ { p with preloads := q.2.preloads } = q.2 ∧
          { t.element q.1 with standby := (s.element q.1).standby } = s.element q.1) ∧
        ∀ e, e ∉ st.planes.map (·.1) → t.element e = s.element e) ∧
    (∀ (s3 : State) (g3 : Img) (st3 : Stage1), st.standby = false → s.cur.pend = none → s.still l → s.allDone l = true →
      (s1.countImage g (.ok st)).readImage (s.reg ga) = (some g3, s3) → s3.checkImage l g3 = .ok st3 →
      ∃ t y, exec (.confLoad ga) s = .next t ∧ s.curWrote t 0 0 s.after ∧ s.sameMemory t ∧ t.launch? l.id = some y ∧
        y.installed = true ∧ y.ver = st3.ver ∧ y.rver = st3.rver ∧ y.routes = st3.routes ∧
        y.named = st3.planes.map (·.1) ∧ y.slotLen = st3.slotLen ∧ y.window.isSome = (!l.record.direct && !l.halted))) ∧
  (∀ (ga : GReg) (s : State) (l : Launch), s.mayAct l → l.window = none → 0 < (s.reg ga).toNat → (s.reg ga).toNat < 16 →
    let v := BitVec.ofNat 4 (s.reg ga).toNat
    (s.cur.pend = none → s.still l →
      ∃ t p, exec (.confSwitch ga) s = .next t ∧ t.mem = s.mem ∧ t.cur.pend = some p ∧ p.instr = .confSwitch ga ∧
        p.stage = 2 ∧ t.cur.mode = .waiting ∧ t.cur.g = s.cur.g ∧ t.cur.pc = s.cur.pc ∧
        (∀ x ∈ l.sources, ((t.tile x.1).gen x.2).swOut = some v) ∧ (∀ x ∈ l.sinks, ((t.tile x.1).gen x.2).swIn = 0) ∧
        ∀ e, l.holds (e / 12) = true → (t.element e).flipped = false) ∧
    (∀ p, s.cur.pend = some p → p.stage = 2 → s.switched l = true →
      ∃ t, exec (.confSwitch ga) s = .next t ∧ s.curWrote t 0 0 s.after ∧ t.mem = s.mem ∧
        t.launches = s.launches.map (fun y => if y.id = l.id then { y with ver := v } else y))) ∧
  (∀ (gd : GReg) (s : State) (l : Launch), s.mayAct l → l.haltDue = false →
    (s.anyFaulted l = true → ∃ t, exec (.confWait gd) s = .next t ∧ s.wrote t gd l.fword s.after) ∧
    (s.anyFaulted l = false → s.allDone l = true → ∃ t, exec (.confWait gd) s = .next t ∧ s.wrote t gd 0 s.after)) ∧
  (∀ (s : State) (l : Launch), s.mayAct l →
    let closing : List Launch := s.launches.map (fun y => if y.id = l.id then
      { y with window := y.window.map (fun w => { w with close := true }) } else y)
    (s.cur.pend = none → s.still l →
      ∃ t, exec .sparge s = .next t ∧ s.went { t with launches := s.launches } s.after ∧ t.launches = closing) ∧
    (s.cur.pend = none → s.moves l → ∃ t p, exec .sparge s = .next t ∧ t.launches = closing ∧ t.cur.pend = some p ∧
      p.instr = .sparge ∧ p.cmds = s.regionCmds l ∧ p.walks = s.regionWalks l ∧ p.sends = s.endedWalks l ∧
      t.cur.mode = .waiting ∧ t.cur.pc = s.cur.pc ∧ t.mem = s.mem) ∧
    (∀ p, s.cur.pend = some p → s.drained l p = true → ∃ t, exec .sparge s = .next t ∧ s.went t s.after))

/-- R146, R148, R149, R156 and R157: a stream command whose record passes its checks starts its walk, joins its port's
queue, or replaces its table, as its record says, and the strand goes on. -/
def Obligations.StreamCommands : Prop :=
  (∀ (ga gb : GReg) (s s1 : State) (l : Launch) (t g : Nat) (d : CellData), s.commands l → (s.reg gb).toNat % 32 = 0 →
    l.genOf (s.reg ga).toNat = some (t, g) → g < 4 → s.readsCells (s.reg gb) [d] s1 →
    patBad l (s.tile t) t g d = none → ((s.tile t).gen g).walk = none →
    ∃ r, exec (.sbind ga gb) s = .next r ∧ s.curWrote r 0 0 s.after ∧ s.sameMemory r ∧
      (r.tile t).gen g = { (s.tile t).gen g with
        walk := if patEmpty d then none else
          some { pat := d, ver := l.ver, i0 := 0, i1 := 0, i2 := 0, i3 := 0, slot := none, asked := false, mark := false },
        walks := ((s.tile t).gen g).walks + 1, tokens := 0, waiting := false, celled := false, poked := 0 } ∧
      (∀ h, h < 4 → h ≠ g → (r.tile t).gen h = (s.tile t).gen h) ∧ (∀ u, u ≠ t → r.tile u = s.tile u)) ∧
  (∀ (ga gb gc : GReg) (s s1 : State) (l : Launch) (p : Nat) (d0 d1 : CellData) (i : Instr) (mc : Bool) (mask : Nat),
    (i, mc, mask) ∈ [(.scopy ga gb, false, 0), (.smcast ga gb gc, true, (s.reg gc).toNat)] →
    s.commands l → (s.reg gb).toNat % 32 = 0 → l.portOf (s.reg ga).toNat = some p → s.readsCells (s.reg gb) [d0, d1] s1 →
    s1.copyBad l p mc mask (BitVec.ofNat 512 (cellsNat [d0, d1])) = none → (s.port p).queued < 16 →
    ∃ r c, exec i s = .next r ∧ s.curWrote r 0 0 s.after ∧ s.sameMemory r ∧
      (r.port p).cmds = (s.port p).cmds ++ [c] ∧ c.id = (s.port p).nextId ∧ c.launch = l.id ∧ c.owner = s.issue.k ∧
      c.mcast = mc ∧ c.record = BitVec.ofNat 512 (cellsNat [d0, d1]) ∧ c.budget = s.cur.retry ∧ c.next = 0 ∧
      c.landed = 0 ∧ c.fetch = none ∧ c.ended = false) ∧
  (∀ (ga gb : GReg) (s s1 s2 : State) (l : Launch) (u n : Nat) (h : CellData) (ds : List CellData), s.commands l →
    (s.reg gb).toNat % 32 = 0 → (s.reg ga).toNat < 2 ^ 16 → l.own (s.reg ga).toNat = some (.tile u) →
    (∀ g w, g < 4 → ((s.tile u).gen g).walk = some w → patPerm w.pat = false) → s.readsCells (s.reg gb) [h] s1 →
    s1.readsCells (s.reg gb + 32) ds s2 → h.toNat = n → 0 < n → n ≤ 4096 → ds.length = (n + 15) / 16 →
    permBad (cellsNat ds) n = none →
    ∃ r, exec (.permLoad ga gb) s = .next r ∧ s.curWrote r 0 0 s.after ∧ s.sameMemory r ∧
      (r.tile u).perm = (List.range n).map (fun j => BitVec.ofNat 12 (cellsNat ds / 2 ^ (16 * j) % 2 ^ 16))) ∧
  (∀ (ga : GReg) (s s1 : State) (l : Launch) (d0 d1 : CellData) (tab : List (BitVec 16 × BitVec 512)), s.acts l →
    (s.reg ga).toNat % 32 = 0 → s.readsCells (s.reg ga) [d0, d1] s1 →
    enterTensor (s.job l.job).tensors (s1.busyTensors l.job) (BitVec.ofNat 512 (cellsNat [d0, d1])) = .ok tab →
    ∃ r, exec (.tdesc ga) s = .next r ∧ s.curWrote r 0 0 s.after ∧ s.sameMemory r ∧ (r.job l.job).tensors = tab ∧
      ∀ j, j ≠ l.job → r.job j = s.job j)

/-- R168, R173, R186, R188, R189 and R190: WOPEN makes an admissible group idle and open with its tensor's descriptor and its
members without marks; WSTEP reads the group's block and begins its step, waits until each step that it began has ended, and
returns their events, or all ones when its launch halted; WCLOSE closes the group, has its markers enqueued, and completes once
they are; WSTAT returns the group's status and changes nothing else. -/
def Obligations.WatchCommands : Prop :=
  (∀ (ga : GReg) (s : State) (l : Launch) (g : Group) (d : BitVec 16 × BitVec 512), s.mayAct l → l.window = none →
    l.range (s.reg ga).toNat false = some [g] → s.closing l g = false → s.openBad l g = none →
    (s.job l.job).tensors.find? (fun t => t.1 == g.tensor) = some d →
    ∃ t, exec (.wopen ga) s = .next t ∧ s.curWrote t 0 0 s.after ∧ t.mem = s.mem ∧
      (t.launches = s.launches.map (fun y => if y.id = l.id then { y with groups := y.groups.map (fun z =>
        if z.num = g.num then { z with desc := d.2, phase := .idle, rounds := 0, total := 0, sub := 0, breach := false,
                                       flight := [], sent := [], stopReq := false, everOpen := true } else z) } else y)) ∧
      ∀ m ∈ s.members l g, s.works m = true → m.ent.selfAbsent = false → ∀ w ∈ (t.tile m.tile).watch, w.2.group = g.num →
        w.2.isOpen = true ∧ w.2.absent = 0 ∧ w.2.lost = 0 ∧ w.2.degraded = false ∧ w.2.events = 0 ∧ w.2.steps = 0) ∧
  ((∀ (gd ga : GReg) (s : State) (l : Launch) (g : Group) (cs : List Cell), s.commands l → s.cur.pend = none →
    l.range (s.reg ga).toNat false = some [g] → s.stepBad l g = none → s.readsBlock g.blockCells.1 cs →
    cs.length = g.blockCells.2 → (∀ c ∈ cs, c.code = gen c.data) →
    (∀ m ∈ s.presentMembers l g, (s.counts l.job m).1.isSome = true) →
    ∃ t p, exec (.wstep gd ga) s = .next t ∧ s.sameMemory t ∧ t.cur.pend = some p ∧ p.instr = .wstep gd ga ∧ p.stage = 1 ∧
      p.left = [g.num] ∧ p.sum = 0 ∧ t.cur.mode = .waiting ∧ t.cur.g = s.cur.g ∧ t.cur.pc = s.cur.pc ∧
      t.launches = s.launches.map (fun y => if y.id = l.id then { y with groups := y.groups.map (fun z =>
        if z.num = g.num then { z with phase := .between, t0 := s.firstRound l g, sub := 0, rounds := 0, total := 0,
                                       breach := false, flight := [], sent := [], stopReq := false } else z) } else y)) ∧
  (∀ (gd ga : GReg) (s : State) (l : Launch) (p : Pend), s.launchOf s.issue.k = some l → s.cur.pend = some p → p.stage = 1 →
    (p.left ≠ [] → ∃ t, exec (.wstep gd ga) s = .next t ∧ s.onlyStrand t s.issue.k ∧ t.cur = { s.cur with mode := .waiting }) ∧
    (p.left = [] → l.cancelled = false → ∃ t, exec (.wstep gd ga) s = .next t ∧
      s.wrote t gd (if l.hasHalted then BitVec.allOnes 64 else BitVec.ofNat 64 p.sum) s.after))) ∧
  ((∀ (ga : GReg) (s : State) (l : Launch) (g : Group), s.mayAct l → l.window = none → s.cur.pend = none →
    l.range (s.reg ga).toNat false = some [g] → s.opened l g = true → g.phase = .idle → g.members.length ≤ g.k →
    ∃ t, exec (.wclose ga) s = .next t ∧ t.mem = s.mem ∧ t.cur.g = s.cur.g ∧
      (t.launches = s.launches.map (fun y => if y.id = l.id then { y with groups := y.groups.map (fun z =>
        if z.num = g.num then { z with decs := z.decs.map (fun d =>
          if d.tile then d else { d with due := d.due ++ [none] }) } else z) } else y)) ∧
      (∀ m ∈ s.members l g, ∀ w ∈ (t.tile m.tile).watch, w.2.group = g.num → w.2.isOpen = false) ∧
      ((∀ d ∈ g.decs, d.tile = true ∧ d.due = []) → t.cur = { s.cur with pc := s.after, mode := .ready, pend := none }) ∧
      ((∃ d ∈ g.decs, d.tile = false ∨ d.due ≠ []) → t.cur.pc = s.cur.pc ∧ t.cur.mode = .waiting ∧ ∃ p, t.cur.pend = some p ∧
        p.instr = .wclose ga ∧ p.stage = 1 ∧ p.left = [g.num])) ∧
  (∀ (ga : GReg) (s : State) (l : Launch) (p : Pend), s.mayAct l → s.cur.pend = some p → p.stage = 1 →
    (∀ n ∈ p.left, ∀ g, l.groupNo n.toNat = some g → s.closeOver l g = true) →
    ∃ t, exec (.wclose ga) s = .next t ∧ s.went t s.after)) ∧
  (∀ (gd ga : GReg) (s : State) (l : Launch) (g : Group), s.mayAct l → l.range (s.reg ga).toNat true = some [g] →
    ∃ t, exec (.wstat gd ga) s = .next t ∧ s.wrote t gd (BitVec.ofNat 64 (s.groupStat l g)) s.after)

/-- R170 to R178: a round begins for a group between rounds, its sender's packet leaves for every other present member,
an arriving packet that agrees is heard, a silent subslot is judged, and one who should have sent and has not is absent; the
round's events are applied and become due to the decoders, a step whose events are all accepted ends, and the decoders take what
is due first: an element's port checks it and enqueues its token, a tile decoder updates its area, which in an open window is an
effect that the window holds. Premises on faults: no member's counts fail their check. -/
def Obligations.WatchRounds : Prop :=
  ∀ (l n : Nat) (s : State) (x : Launch) (y : Group), s.watchLive l n = some (x, y) →
    (y.phase = .between → y.stopReq = false → y.t0 ≤ s.fc → s.stepOver x y = false →
      (∀ m ∈ s.presentMembers x y, (s.counts x.job m).1.isSome = true) →
      ∃ t, exec (.roundStart l n) s = .next t ∧ t.mem = s.mem ∧ t.strands = s.strands ∧
        t.groupNow l n = some { y with phase := .round, sub := 0, flight := [], sent := [] }) ∧
    (∀ m p, (s.presentMembers x y).find? (fun m => m.rank == y.sender y.sub) = some m → y.phase = .round →
      y.sub < 2 * y.k → s.fc = y.t0 + y.sub * x.slotLen → m.ent.mustEmit y.sub = true →
      m.ent.emitted.getLsbD y.sub = false → p = m.ent.packet (y.sub / 2) (y.sub % 2 == 1) →
      ∃ t, exec (.subslotEmit l n) s = .next t ∧ t.mem = s.mem ∧ t.strands = s.strands ∧
        t.groupNow l n = some { y with
          flight := y.flight ++ (((s.presentMembers x y).filter (fun q => q.rank != m.rank)).map (fun q => (q.rank, p))),
          sent := y.sent ++ [{ packet := p, sub := y.sub, round := m.ent.round, step := m.ent.step }] }) ∧
    (∀ r q m, y.flight.find? (fun q => q.1 == r) = some q → (s.presentMembers x y).find? (fun m => m.rank == r) = some m →
      (m.ent.packetFits y.sub q.2 = true →
        ∃ t, exec (.eventPacketReceive l n r) s = .next t ∧ t.mem = s.mem ∧ t.strands = s.strands ∧
          t.groupNow l n = some { y with flight := y.flight.erase q } ∧
          (t.tile m.tile).watch = (s.tile m.tile).watch.map (fun w => if w.2.group = y.num then
            (w.1, { w.2 with heard := w.2.heard ||| BitVec.ofNat 16 (2 ^ y.sub) }) else w)) ∧
      (m.ent.packetFits y.sub q.2 = false → x.hasHalted = false →
        ∃ t, exec (.eventPacketReceive l n r) s = .next t ∧ t.mem = s.mem ∧ t.faultMet x 0x0C)) ∧
    (y.phase = .round → y.sub < 2 * y.k → y.t0 + (y.sub + 1) * x.slotLen ≤ s.fc + 1 → y.flight = [] →
      ∃ t, exec (.subslotJudge l n) s = .next t ∧ t.mem = s.mem ∧ t.strands = s.strands ∧
        t.groupNow l n = some { y with sub := y.sub + 1 } ∧
        ∀ m ∈ s.presentMembers x y, m.rank = y.sender y.sub → m.ent.mustEmit y.sub = true →
          m.ent.emitted.getLsbD y.sub = false →
          ∃ w, (t.tile m.tile).watch.find? (fun w => w.2.group == y.num) = some w ∧ w.2.selfAbsent = true) ∧
    (y.phase = .round → 2 * y.k ≤ y.sub → (s.applyRound x y).launches = s.launches →
      let last := dRounds y.desc + dStretch y.desc ≤ y.rounds + 1
      let out : Nat := (s.applyRound x y).outLanes x y
      let z : Group := { y with
        rounds := y.rounds + 1, total := y.total + ((s.presentMembers x y).map (fun m => m.ent.eventCount)).headD 0,
        t0 := y.t0 + roundLen y.k x.slotLen, sub := 0, flight := [], sent := [],
        decs := y.decs.map (fun d => { d with due := d.due ++ y.sent.map some }) }
      ∃ t, exec (.roundApply l n) s = .next t ∧ t.mem = s.mem ∧
        (y.stopReq = true → t.groupNow l n = some { z with phase := .idle } ∧ s.wstepsTold t x y.num z.total) ∧
        (y.stopReq = false → t.strands = s.strands ∧ (¬last → t.groupNow l n = some { z with phase := .between }) ∧
          (last → t.groupNow l n = some { z with phase := .ending, breach := y.breach || decide (out ≠ 0) }))) ∧
    (s.stepOver x y = true → y.stopReq = false →
      ∃ t, exec (.stepEnd l n) s = .next t ∧ t.mem = s.mem ∧ s.wstepsTold t x y.num y.total ∧
        t.groupNow l n = some { y with phase := .idle } ∧
        (y.breach = true → dPolicy y.desc = true → s.presentMembers x y ≠ [] → x.hasHalted = false → t.faultMet x 0x0D)) ∧
    (∀ d q o rest e, x.live s.fc = true → y.decs[d]? = some q → q.due = o :: rest → x.unit? q.unit.toNat = some (.element e) →
      ((∀ b, o = some b → b.fits y.num = true) → s.inputRoom e q.port = true → q.port < 8 →
        ∃ t, exec (.decoderEnqueue l n d) s = .next t ∧ t.mem = s.mem ∧ t.strands = s.strands ∧
          t.groupNow l n = some { y with decs := y.decs.modify d (fun z => { z with due := rest }) } ∧
          ((t.element e).inp q.port).wire = ((s.element e).inp q.port).wire ++
            [match o with
              | some b => { data := b.packet.zeroExtend 512, code0 := 0, code1 := 0, tag := 13, bank := q.bank, fin := false,
                            ver := x.ver, sw := false }
              | none => markerToken 13 q.bank x.ver]) ∧
      (∀ b, o = some b → b.fits y.num = false →
        ∃ t, exec (.decoderEnqueue l n d) s = .next t ∧ t.mem = s.mem ∧ t.groupNow l n = some y ∧
          (t.element e).faulted = true ∧ t.faultMet x 0x0C)) ∧
    (∀ d q b rest u ds, x.live s.fc = true → y.decs[d]? = some q → q.due = some b :: rest →
      x.unit? q.unit.toNat = some (.tile u) → b.fits y.num = true → q.off % 32 = 0 →
      (s.areaCells x u q.off).1 = some ds → ds.length = 8 →
      let lane (cs : List CellData) (i : Nat) : Nat := (cs.getD (i / 8) 0).toNat / 2 ^ (32 * (i % 8)) % 2 ^ 32
      ∃ t cs, exec (.decoderEnqueue l n d) s = .next t ∧ t.mem = s.mem ∧ t.strands = s.strands ∧ cs.length = 8 ∧
        (∀ i, i < 64 → lane cs i = decodedLane y.desc b.packet i (lane ds i)) ∧
        t.groupNow l n = some { y with decs := y.decs.modify d (fun z => { z with due := rest }) } ∧
        (x.window = none → (∀ i, i < 8 → (t.tile u).sram.cell (q.off + 32 * i) =
            { data := cs.getD i 0, code := gen (cs.getD i 0), fe := 2, w := ((s.tile u).sram.sideAt (q.off + 32 * i)).w }) ∧
          ∀ a, a < q.off ∨ q.off + 256 ≤ a → (t.tile u).sram.byte a = (s.tile u).sram.byte a) ∧
        (∀ w, x.window = some w → t.tiles = s.tiles ∧ ∃ z v, t.launch? l = some z ∧ z.window = some v ∧
          v.held = w.held ++ [.area u q.off cs]))

/-- R127 to R129, R131, R132 and R47: a row reads its sources in its format and writes, in every lane, the exact result rounded
once, or the wrapped or saturated integer. -/
def Obligations.LaneResults : Prop :=
  (∀ (i : Instr) (x : Slot) (t : Nat) (f : Nat → Nat → Nat) (s : State) (l : Launch) (a b : Line),
    laneRow i = some (x, t, f) → s.mayFire l x → s.reads x.srcA t a t → s.reads x.srcB t b t →
    ∃ u r, exec i s = .next u ∧ lanesAre (tagWidth t) r (fun j => f (cut (tagWidth t) a j) (cut (tagWidth t) b j)) ∧
      s.fired u l x true (.write r t)) ∧
  (∀ (i : Instr) (x : Slot) (t : Nat) (f : Nat → Nat) (s : State) (l : Launch) (a : Line),
    laneRow1 i = some (x, t, f) → s.mayFire l x → s.reads x.srcA t a t →
    ∃ u r, exec i s = .next u ∧ lanesAre (tagWidth t) r (fun j => f (cut (tagWidth t) a j)) ∧ s.fired u l x false (.write r t))

/-- R128 and R131: FMA and FMS add the exact product, or its negative, to the destination's lane and round once; SCALEX
multiplies by a power of two and rounds once. -/
def Obligations.FusedAndScaled : Prop :=
  (∀ (f : BitVec 3) (x : Slot) (s : State) (l : Launch) (a b d : Line) (F : FloatFmt) (neg : Bool),
    let t := rowTag f
    let w := tagWidth t
    f.toNat < 4 → tagFloat t = some F → x.dst.isV = true → s.mayFire l x → s.reads x.srcA t a t → s.reads x.srcB t b t →
    s.reads x.dst t d t →
    ∃ u r, exec (if neg then .fms f x else .fma f x) s = .next u ∧ s.fired u l x true (.write r t) ∧
      lanesAre w r (fun j =>
        let p := (F.value (cut w a j)).mul (F.value (cut w b j))
        F.ne ((F.value (cut w d j)).add (if neg then p.neg else p)))) ∧
  (∀ (f : BitVec 2) (x : Slot) (s : State) (l : Launch) (a b : Line) (k : Nat) (F : FloatFmt),
    let t := f.toNat + 1
    let w := tagWidth t
    let v := tagWidth k
    let power (j : Nat) : Int := intLane k (cut v b (j % (512 / v)))
    tagFloat t = some F → 8 ≤ k → k ≤ 12 → s.mayFire l x → s.reads x.srcA t a t → s.reads x.srcB 11 b k →
    ∃ u r, exec (.scalex f x) s = .next u ∧ s.fired u l x true (.write r t) ∧
      ∀ j, j < 512 / w → -5000 ≤ power j → power j ≤ 5000 →
        cut w r j = F.ne ((F.value (cut w a j)).scale (power j)))

/-- R133, R50 and R130: a reduction leaves, in every lane, the value of the balanced tree over the lanes of a, joined with lane 0
of b; with zero as b, of a alone, except that RADD adds it. A shift takes the format of its first source, shifts each lane by the other's unsigned lane, and leaves 0 or the sign beyond
the width. -/
def Obligations.ReductionsAndShifts : Prop :=
  (∀ (i : Instr) (x : Slot) (t : Nat) (op : Nat → Nat → Nat) (s : State) (l : Launch) (a b : Line),
    let w := tagWidth t
    reduceRow i = some (x, t, op) → s.mayFire l x → s.reads x.srcA t a t → s.reads x.srcB t b t →
    ∃ u r, exec i s = .next u ∧ s.fired u l x true (.write r t) ∧
      lanesAre w r (fun _ =>
        let v := tree op (cut w a) (512 / w).log2 0
        match i with
        | .radd _ _ => op v (cut w b 0)
        | _ => if x.srcB.toNat = 29 then v else op v (cut w b 0))) ∧
  (∀ (i : Instr) (x : Slot) (t : Nat) (f : Nat → Nat → Nat → Nat) (s : State) (l : Launch) (a b : Line),
    let w := tagWidth t
    shiftRow i = some (x, f) → 8 ≤ t → t ≤ 12 → s.mayFire l x → s.reads x.srcA 0 a t → s.reads x.srcB t b t →
    ∃ u r, exec i s = .next u ∧ s.fired u l x true (.write r t) ∧ lanesAre w r (fun j => f t (cut w a j) (cut w b j)))

/-- R134 and R135: CVT converts the lanes of its source, of a named format or of its tag, into the low lanes of the
destination's format and leaves the rest zero; QNT writes the codes and then the scale byte. -/
def Obligations.Conversions : Prop :=
  (∀ (src : BitVec 4) (mode : BitVec 2) (x : Slot) (s : State) (l : Launch) (a : Line) (tag : Nat) (named : Bool),
    let t := if named then src.toNat else tag
    let code := x.code.toNat
    let w := tagWidth t
    let v := if code = 0 then 8 else tagWidth code
    code ≤ 12 → 1 ≤ t → t ≤ 12 → (tag = t ∨ (named = true ∧ tag = 0)) → s.mayFire l x →
    s.reads x.srcA (if named then src.toNat else 0) a tag →
    ∃ u r, exec (if named then .cvtNamedSource src mode x else .cvt mode x) s = .next u ∧
      s.fired u l x false (.write r (if code = 0 then 9 else code)) ∧
      lanesAre v r (fun j => if 512 / w ≤ j then 0 else if code = 0 then ueRound (Rnd.ofBits mode) (laneValue t (cut w a j))
        else convert t code (Rnd.ofBits mode) x.sat (cut w a j))) ∧
  (∀ (dst : BitVec 2) (x : Slot) (s : State) (l : Launch) (a b : Line) (t : Nat),
    let w := tagWidth t
    let k := cut 8 b 0
    1 ≤ t → t ≤ 4 → s.mayFire l x → s.reads x.srcA 0 a t → s.reads x.srcB 9 b 9 →
    ∃ u r, exec (.qnt dst x) s = .next u ∧ s.fired u l x true (.write r (5 + dst.toNat)) ∧
      cut 8 r (512 / w) = k ∧ (∀ j, 512 / w < j → j < 64 → cut 8 r j = 0) ∧
      ∀ j, j < 512 / w → k ≠ 255 →
        cut 8 r j = roundTo (5 + dst.toNat) .ne true ((laneValue t (cut w a j)).scale (127 - (k : Int))) % 256)

/-- R125 and R126: MOV keeps data and tag (and stays a marker towards an output), RETAG changes the tag alone, VBCAST copies one
lane into all, VSHUF picks a lane for each, and VSEL chooses a source by a predicate. PSET says whether any bit of its source is
one; a comparison whether its test holds in every lane. -/
def Obligations.MovesAndPredicates : Prop :=
  (∀ (x : Slot) (s : State) (l : Launch) (a b : Line) (t k : Nat),
    let w := tagWidth t
    let n := 512 / w
    s.mayFire l x → t ≤ 12 → s.reads x.srcA 0 a t →
    (∃ u, exec (.mov x) s = .next u ∧ s.fired u l x false { Effect.write a t with marker := s.marksAt x.srcA }) ∧
    (∃ u, exec (.retag x) s = .next u ∧ s.fired u l x false (.write a x.code.toNat)) ∧
    (8 ≤ k → k ≤ 12 → s.reads x.srcB 11 b k → ∃ u r, exec (.vbcast x) s = .next u ∧ s.fired u l x true (.write r t) ∧
      lanesAre w r (fun _ => cut w a (cut (tagWidth k) b 0 % n))) ∧
    ((k = 8 ∨ k = 9) → s.reads x.srcB 8 b k → ∃ u r, exec (.vshuf x) s = .next u ∧ s.fired u l x true (.write r t) ∧
      lanesAre w r (fun j => cut w a (cut 8 b j % n))) ∧
    (k ≤ 12 → s.reads x.srcB 0 b k → ∃ u, exec (.vsel x) s = .next u ∧
      s.fired u l x true (if (vget s.firing.before.q s.firing.bank.toNat 0).getLsbD (if x.bit0 then 1 else 0)
        then .write a t else .write b k))) ∧
  ((∀ (x : Slot) (s : State) (l : Launch) (a : Line) (t : Nat), s.mayFire l x → t ≤ 12 → s.reads x.srcA 0 a t →
    ∃ u, exec (.pset x) s = .next u ∧ s.fired u l x false (.setQ x.dst.toNat (a != 0))) ∧
  (∀ (i : Instr) (x : Slot) (test : Nat → Nat → Nat → Bool) (s : State) (l : Launch) (a b : Line) (t : Nat) (r : Bool),
    let w := tagWidth t
    compareRow i = some (x, test) → (1 ≤ t ∧ t ≤ 4) ∨ (8 ≤ t ∧ t ≤ 12) → s.mayFire l x → s.reads x.srcA 0 a t →
    s.reads x.srcB t b t → (r = true ↔ ∀ j, j < 512 / w → test t (cut w a j) (cut w b j) = true) →
    ∃ u, exec i s = .next u ∧ s.fired u l x true (.setQ x.dst.toNat r)))

/-- R122 to R124 and R136: LDL reads 64 bytes at its pointer and tags them, STL writes its source there, and each advances
that pointer by its stride; NOP does nothing beyond its trigger's actions. -/
def Obligations.LocalMemory : Prop :=
  ∀ (x : Slot) (s : State) (l : Launch), s.mayFire l x →
    (∀ (a : Line) (n : Nat), n < 4 → x.srcA.toNat = 24 + n → x.dst.isLp = false →
      (lpStride (s.firing.before.ptr s.firing.bank n)).toNat % 32 = 0 → s.reads x.srcA x.code.toNat a x.code.toNat →
      ∃ u, exec (.ldl x) s = .next u ∧
        s.fired u l x false { Effect.write a x.code.toNat with addr := some x.srcA }) ∧
    (∀ (a : Line) (t n : Nat), n < 4 → x.dst.toNat = 24 + n → t ≤ 12 →
      (lpStride (s.firing.before.ptr s.firing.bank n)).toNat % 32 = 0 → s.reads x.srcA 0 a t →
      ∃ u, exec (.stl x) s = .next u ∧ s.fired u l x false { Effect.write a t with addr := some x.dst }) ∧
    (∃ u, exec (.nop x) s = .next u ∧ s.fired u l x false Effect.none)

/-- R136, R138, R323 and R324: EFAULT, and a fault found after its firing had issued, keep the fault word in the element's
register, stop the element, and make the launch halt; FWORD is its first word, and of the words of one cycle that of the lowest
UNIT, then SLOT. The halt comes at the end of the cycle (log 90): engine commands are dropped, groups stop, a CONF.WAIT in flight
completes with FWORD, a WSTEP in flight of a windowed launch with all ones, and a refused instruction takes trap 0x0A. -/
def Obligations.ElementFaults : Prop :=
  (∀ (s : State) (l : Launch), l.hasHalted = false →
    let lower (w v : Word64) : Prop := w.toNat / 2 ^ 48 < v.toNat / 2 ^ 48 ∨
      (w.toNat / 2 ^ 48 = v.toNat / 2 ^ 48 ∧ w.toNat / 2 ^ 35 % 32 < v.toNat / 2 ^ 35 % 32)
    let met (t : State) (e : Nat) (w : Word64) : Prop :=
      (t.element e).faulted = true ∧ (t.element e).stopped = true ∧ t.mem = s.mem ∧ t.strands = s.strands ∧
      (t.element e).fault = (if (s.element e).fault = 0 then w else (s.element e).fault) ∧
      ∃ y, t.launch? l.id = some y ∧ y.halted = true ∧ y.haltDue = true ∧ y.status = l.status ||| 2 ∧
        (l.fword = 0 ∨ (l.faultAt = s.fc ∧ lower w l.fword) → y.fword = w) ∧
        (l.fword ≠ 0 → l.faultAt ≠ s.fc ∨ ¬lower w l.fword → y.fword = l.fword)
    (∀ x : Slot, s.ownerOf (s.firing.e / 12) = some l →
      ∃ t, exec (.efault x) s = .next t ∧ met t s.firing.e
        (BitVec.ofNat 64 (l.relId (.element s.firing.e) % 2 ^ 16 * 2 ^ 48 + 5 * 2 ^ 40 + s.firing.slot % 32 * 2 ^ 35 +
          x.dst.toNat * 2 ^ 30 + s.firing.bank.toNat * 2 ^ 28))) ∧
    (∀ (e : Nat) (f : Late), s.ownerOf (e / 12) = some l → (s.element e).late = some f →
      ∃ t, exec (.lateFiringFault e) s = .next t ∧ met t e f.word ∧ (t.element e).late = none)) ∧
  (∀ (s : State) (rest : List Turn), s.turns = .tick :: rest → s.dv.frozen = false →
    ((∀ y ∈ s.launches, y.haltDue = false) → step s = .next { s with turns := rest, fc := s.fc + 1 }) ∧
    (∀ l : Launch, s.launches.filter (·.haltDue) = [l] → s.launch? l.id = some l → l.window = none → l.strands.Nodup →
      (∀ p ∈ s.ports, l.holds (p.1 / 3) = true → ∀ c ∈ p.2.cmds, c.place = .none) →
      let ends (t : State) (k : Nat) (p : Pend) (gd : GReg) (v : Word64) : Prop :=
        { t.strand k with g := (s.strand k).g } = { s.strand k with
          pc := (s.strand k).pc + (if p.hi.isSome then 8 else 4), mode := .ready, pend := none } ∧
        ∀ q, (t.strand k).reg q = if q = 0 then 0 else if q = gd then v else (s.strand k).reg q
      ∃ t y, step s = .next t ∧ t.fc = s.fc + 1 ∧ t.turns = rest ∧ t.launch? l.id = some y ∧ y.halted = l.halted ∧
        y.haltDue = false ∧ y.fword = l.fword ∧ y.window = none ∧
        (∀ g ∈ y.groups, g.stopReq = true ∧ (g.phase = .idle ∨ (l.record.direct = true ∧ g.phase = .round))) ∧
        (∀ p, l.holds (p / 3) = true → (t.port p).cmds = []) ∧
        (∀ k ∈ l.strands, (s.strand k).pend = none → t.strand k = s.strand k) ∧
        (∀ k ∈ l.strands, ∀ p, (s.strand k).pend = some p → p.place = .none →
          (∀ gd, p.instr = .confWait gd → ends t k p gd l.fword) ∧
          (∀ gd ga, p.instr = .wstep gd ga → p.stage ≠ 0 → l.record.direct = false → ends t k p gd (BitVec.allOnes 64)) ∧
          (haltRefuses p.instr = true → (∀ gd, p.instr ≠ .confWait gd) → (∀ gd ga, p.instr ≠ .wstep gd ga) ∨ p.stage = 0 →
            (s.strand k).intrap = false → (s.strand k).tvec ≠ 0 →
            t.strand k = { s.strand k with
              epc := (s.strand k).pc &&& ~~~3, tval := l.record.done, cause := if p.hi.isSome then 0x10A else 0x00A,
              intrap := true, pc := (s.strand k).tvec, mode := .ready, pend := none }))))

/-- 11 R176, 12 R197 and R198: EVDEC adds the event's weight to every lane the event names, rounded once; EVMAC adds, for
each lane named, in increasing order, the weight times a column of local memory. -/
def Obligations.EventArithmetic : Prop :=
  ∀ (x : Slot) (s : State) (l : Launch) (ev b d : Line),
    let F := FloatFmt.f32
    let weight := cut 32 b (ev.toNat / 2 ^ 37 % 8)
    let j := cut 32 b 15 % 4
    let named (i : Nat) : Bool := ev.getLsbD (64 + 16 * j + i)
    let col (i : Nat) : Nat := (vget s.firing.before.evm s.firing.bank.toNat 0).toNat + 64 * (16 * j + i)
    s.mayFire l x → x.dst.isV = true → packetOk (ev.extractLsb' 0 128) = true → s.reads x.srcA 0 ev 13 →
    s.reads x.srcB 2 b 2 → s.reads x.dst 2 d 2 →
    (∃ u r, exec (.evdec x) s = .next u ∧ s.fired u l x true (.write r 2) ∧
      lanesAre 32 r (fun i => if named i then F.ne ((F.value (cut 32 d i)).add (F.value weight)) else cut 32 d i)) ∧
    (∀ cols : Nat → Line, (∀ i, i < 16 → named i = true → col i % 32 = 0 ∧ col i + 64 ≤ 49152 ∧
        cols i = (s.firing.before.lmem.cell (col i + 32)).data ++ (s.firing.before.lmem.cell (col i)).data ∧
        codesFit (cols i) (s.firing.before.lmem.cell (col i)).code (s.firing.before.lmem.cell (col i + 32)).code) →
      ∃ u r, exec (.evmac x) s = .next u ∧ s.fired u l x true (.write r 2) ∧
        lanesAre 32 r (fun n => ((List.range 16).filter named).foldl
          (fun c i => F.ne ((F.value c).add ((F.value (cut 32 (cols i) n)).mul (F.value weight)))) (cut 32 d n)))

/-- 20 R284 to R290: the seven instructions of the array, each in the state that R291 does not refuse. MCFG sets the pair of
formats and clears counters and scales; MZERO clears an accumulator and takes it into use; MMAS closes an open block and sets the
scales; MMA adds one outer product, or with 16-bit formats holds the first half of one; MREAD closes, and reads sixteen
scaled values; MREL closes and releases; MWRITE closes and loads sixteen values. -/
def Obligations.MatrixArray : Prop :=
  ∀ (x : Slot) (s : State) (l : Launch),
    let m := s.arr
    let n := x.bit0
    let fa := m.aFmt.toNat
    let fb := m.bFmt.toNat
    let ones : Line := BitVec.ofNat 512 (127 * ((2 ^ 512 - 1) / 255))
    s.mayFire l x →
    (∀ (d : Line) (a b : Nat), m.half = false → m.acc0.inUse = false → m.acc1.inUse = false →
      (5 ≤ a ∧ a ≤ 7 ∧ 5 ≤ b ∧ b ≤ 7) ∨ (a = 8 ∧ b = 8) ∨ (3 ≤ a ∧ a ≤ 4 ∧ 3 ≤ b ∧ b ≤ 4) →
      d.toNat = a + 256 * b + 65536 * 128 → s.reads x.srcA 9 d 9 →
      ∃ u, exec (.mcfg x) s = .next u ∧ s.fired u l x false (.array { m with
        cfg := true, aFmt := BitVec.ofNat 4 a, bFmt := BitVec.ofNat 4 b,
        acc0 := { m.acc0 with sa := ones, sb := ones, ptr := 0, kc := 0 },
        acc1 := { m.acc1 with sa := ones, sb := ones, ptr := 0, kc := 0 } })) ∧
    (m.half = false → ∃ u, exec (.mzero x) s = .next u ∧ s.fired u l x false (.array (m.setAcc n
      { m.acc n with cells := [], inUse := true, ptr := 0, kc := 0, blk := none }))) ∧
    (∀ d0 d1 : Line, m.half = false → s.reads x.srcA 9 d0 9 → s.reads x.srcB 9 d1 9 →
      ∃ u a', exec (.mmas x) s = .next u ∧ accClosed m n a' ∧
        s.fired u l x true (.array (m.setAcc n { a' with sa := d0, sb := d1 }))) ∧
    (∀ d0 d1 : Line, m.cfg = true → (m.acc n).inUse = true → m.half = false → s.reads x.srcA fa d0 fa →
      s.reads x.srcB fb d1 fb → fa < 15 → fb < 15 →
      (matClass fa fb = 3 → ∃ u, exec (.mma x) s = .next u ∧
        s.fired u l x true (.array { m with half := true, hacc := n, hA := d0, hB := d1 })) ∧
      (matClass fa fb ≠ 3 → ∃ u a', exec (.mma x) s = .next u ∧ accUpdated m n (cut 8 d0) (cut 8 d1) a' ∧
        s.fired u l x true (.array (m.setAcc n a')))) ∧
    (∀ d0 d1 : Line, m.cfg = true → (m.acc n).inUse = true → m.half = true → m.hacc = n → matClass fa fb = 3 →
      s.reads x.srcA fa d0 fa → s.reads x.srcB fb d1 fb →
      ∃ u a', exec (.mma x) s = .next u ∧
        accUpdated m n (fun i => if i < 32 then cut 16 m.hA i else cut 16 d0 (i - 32))
          (fun i => if i < 32 then cut 16 m.hB i else cut 16 d1 (i - 32)) a' ∧
        s.fired u l x true (.array { m.setAcc n a' with half := false })) ∧
    (m.half = false → (m.acc n).inUse = true → ∃ u a' r, exec (.mread x) s = .next u ∧ accClosed m n a' ∧
      lanesAre 32 r (fun j => FloatFmt.f32.ne
        ((FloatFmt.f32.value (a'.at_ (a'.ptr.toNat / 4) (16 * (a'.ptr.toNat % 4) + j)).toNat).mul
          (ueValue (cut 8 a'.sb (16 * (a'.ptr.toNat % 4) + j))))) ∧
      s.fired u l x false { Effect.write r 2 with arr := some (m.setAcc n { a' with ptr := a'.ptr + 1 }) }) ∧
    (m.half = false → (m.acc n).inUse = true → ∃ u a', exec (.mrel x) s = .next u ∧ accClosed m n a' ∧
      s.fired u l x false (.array (m.setAcc n { a' with inUse := false }))) ∧
    (∀ d : Line, m.half = false → s.reads x.srcA 2 d 2 → ∃ u a' c, exec (.mwrite x) s = .next u ∧ accClosed m n a' ∧
      c = { a' with cells := c.cells, inUse := true, ptr := a'.ptr + 1, kc := if a'.inUse then a'.kc else 0 } ∧
      (∀ k, k < 4096 → (c.at_ (k / 64) (k % 64)).toNat = if k / 16 = a'.ptr.toNat
        then FloatFmt.f32.ne (FloatFmt.f32.value (cut 32 d (k % 16))) else (a'.at_ (k / 64) (k % 64)).toNat) ∧
      s.fired u l x false (.array (m.setAcc n c)))

/-- 07 R106, R112, R117 and R118: a slot that has lost 64 cycles becomes lifted; a token arrives in its input's buffer and
leaves its output when every destination has a credit; an element whose inputs all hold the switch token of its standby
plane exchanges its planes; a complete element says so. -/
def Obligations.ElementEvents : Prop :=
  (∀ (e n : Nat) (s : State), n < 32 → (s.element e).lifting.getLsbD n = true →
    ∃ t, exec (.slotAgeLift e n) s = .next t ∧ { t with elements := s.elements } = s ∧
      (∀ j, j ≠ e → t.element j = s.element j) ∧
      { t.element e with ages := (s.element e).ages, lifting := (s.element e).lifting } = s.element e ∧
      (t.element e).lifting.getLsbD n = false ∧ (∀ k, k < 32 → k ≠ n → (t.element e).lifting.getLsbD k =
        (s.element e).lifting.getLsbD k) ∧ ∀ k, k < 32 → vget (t.element e).ages k 0 = if k = n then 64 else
        vget (s.element e).ages k 0) ∧
  (∀ (e ch : Nat) (s : State) (l : Launch) (k : Token) (ks : List Token), ch < 8 → s.liveAt (e / 12) = some l →
    (s.element e).complete = false → ((s.element e).inp ch).wire = k :: ks →
    (∀ r, l.inRoute e ch = some r → routeMode r ≠ 2 ∧ routeMode r ≠ 3) →
    ∃ t, exec (.tokenArrive e ch) s = .next t ∧ { t with elements := s.elements } = s ∧
      (∀ j, j ≠ e → t.element j = s.element j) ∧
      { t.element e with ins := (s.element e).ins, arrAt := (s.element e).arrAt } = s.element e ∧
      (t.element e).arrAt = some s.fc ∧
      ∀ c, c < 8 → (t.element e).inp c = if c = ch then { (s.element e).inp ch with
        wire := ks, buf := ((s.element e).inp ch).buf ++ [k] } else (s.element e).inp c) ∧
  (∀ (e ch e2 ch2 : Nat) (s : State) (l : Launch) (k : Token) (ks : List Token) (r : Word64), ch < 8 → ch2 < 8 → e2 ≠ e →
    s.liveAt (e / 12) = some l → (s.element e).out ch = k :: ks → l.outFork e ch = [r] → routeMode r = 0 →
    l.unit? (routeDst r).1 = some (.element e2) → (routeDst r).2 = ch2 → s.inputRoom e2 ch2 = true →
    ∃ t, exec (.outputTokenSend e ch) s = .next t ∧ { t with elements := s.elements } = s ∧
      (∀ j, j ≠ e → j ≠ e2 → t.element j = s.element j) ∧ (t.element e).out ch = ks ∧
      { t.element e with outs := (s.element e).outs } = s.element e ∧
      { t.element e2 with ins := (s.element e2).ins } = s.element e2 ∧
      ∀ c, c < 8 → (t.element e2).inp c = if c = ch2 then { (s.element e2).inp ch2 with
        wire := ((s.element e2).inp ch2).wire ++ [k] } else (s.element e2).inp c) ∧
  (∀ (e : Nat) (s : State) (l : Launch) (p : Plane), s.liveAt (e / 12) = some l → s.flipDue l e = true →
    (s.element e).standby = some p → (∃ vs, s.switchHeads l e = some vs ∧ ∀ v ∈ vs, v = p.ver) →
    (∀ ch, ch < 8 → l.isDelay e ch = false ∧ ∀ r ∈ l.outFork e ch, routeMode r ≠ 1) →
    ∃ t, exec (.planeFlip e) s = .next t ∧ { t with elements := s.elements } = s ∧
      (∀ j, j ≠ e → t.element j = s.element j) ∧ (t.element e).plane = some p ∧
      (t.element e).standby = (s.element e).plane ∧ (t.element e).bank = p.bank ∧ (t.element e).lifting = 0 ∧
      (∀ c, c < 4 → vget (t.element e).q c 0 = p.initQ) ∧ (∀ n, vget (t.element e).ages n 0 = 0) ∧
      (t.element e).v = (s.element e).v ∧ (t.element e).lmem = (s.element e).lmem ∧
      (∀ ch, ch < 8 → (t.element e).out ch = if (l.outFork e ch).isEmpty then (s.element e).out ch
        else (s.element e).out ch ++ [switchToken p.ver]) ∧
      ∀ ch, ch < 8 → (t.element e).inp ch = if (l.inRoute e ch).isSome then { (s.element e).inp ch with
        buf := ((s.element e).inp ch).buf.drop 1 } else (s.element e).inp ch) ∧
  (∀ (e : Nat) (s : State) (l : Launch), s.liveAt (e / 12) = some l → s.completeDue l e = true →
    ∃ t, exec (.elementComplete e) s = .next t ∧ { t with elements := s.elements } = s ∧
      (∀ j, j ≠ e → t.element j = s.element j) ∧ t.element e = { s.element e with complete := true })

/-- R301 and R317: LAUNCH takes one record of its chain in each step. A record that keeps the rules is enrolled: its DONE holds
COUNT 1, LEVEL 1 and is empty, and the launch is ready unless it waits for its dependence, which cancels it when it is a
completion cell with CANCEL or FAULT; a record that breaks them completes at once with CANCEL. The strand goes on after the last
record, and before that keeps the address of the next. -/
def Obligations.LaunchEnrols : Prop :=
  ∀ (ga : GReg) (s : State) (l : Launch) (av : Word64), s.acts l →
    (s.cur.pend = none ∧ av = s.reg ga ∧ av.toNat % 32 = 0) ∨ (∃ p, s.cur.pend = some p ∧ p.instr = .launch ga ∧ p.stage = 1 ∧ av = p.value) →
    (av = 0 → ∃ t, exec (.launch ga) s = .next t ∧ s.went t s.after) ∧
    (∀ (s1 s3 : State) (ph pa x : Nat),
      let a := av.toNat
      let r := parseRecord a x
      let goesOn (t : State) : Prop :=
        if r.next = 0 then t.cur = { s.cur with pc := s.after, mode := .ready, pend := none }
        else t.cur.pc = s.cur.pc ∧ t.cur.mode = .waiting ∧ t.cur.g = s.cur.g ∧
          ∃ p, t.cur.pend = some p ∧ p.instr = .launch ga ∧ p.stage = 1 ∧ p.value = r.next
      a ≠ 0 → (s.job l.job).running = some ph → s.noWaiters → s.quiet pa →
      s.readLaunch true l.job a = (.ok x, s1) → (s1.addPhase l.job 1).doneCell l.job r.done.toNat = (.at_ pa, s3) →
      pa % 32 = 0 →
      (recFieldsOk x = true → s3.weight l.job r.cls ≠ 0 → s3.levelCancelled l.job ph false = false →
        ∀ q : Nat, r.dep = 0 ∨ (s3.depOk l.job r.dep.toNat = true ∧ (s3.xrecOf l.job).inHeap r.dep.toNat = true ∧
          q = (r.dep.toNat + (s3.xrecOf l.job).hoff) % 2 ^ 44 ∧ q / 32 ≠ pa / 32 ∧
          ∀ b, s.dv.jobtab.toNat + 64 * l.job ≤ b → b < s.dv.jobtab.toNat + 64 * l.job + 48 → b / 32 ≠ pa / 32) →
        let refused : Bool := r.dep != 0 && (s3.mem.sideAt q).fe == 2 && s3.depRefuses q
        ∃ t y, exec (.launch ga) s = .next t ∧ t.launches = s.launches ++ [y] ∧ t.launchNo = s.launchNo + 1 ∧
          y.id = s.launchNo ∧ y.job = l.job ∧ y.parent = ph ∧ y.parentVa = false ∧ y.record = r ∧
          y.stage = (if r.dep = 0 ∨ (s3.mem.sideAt q).fe = 2 then .ready else .waiting) ∧
          (y.stage = .ready → y.readyAt = s.fc) ∧ y.cancelled = refused ∧ y.status = (if refused then 1 else 0) ∧
          t.countAt pa = 1 ∧ t.mem.nat (pa + 8) 2 = 256 ∧ (t.mem.sideAt pa).fe = 1 ∧ t.cleanAt pa ∧ t.decrs = s.decrs ∧
          goesOn t) ∧
      (recFieldsOk x = false → ∃ t, exec (.launch ga) s = .next t ∧ t.launches = s.launches ∧
        t.decrs = s.decrs ++ [{ addr := ph, virt := false, bits := 1, job := l.job }] ∧ t.countAt pa = 0 ∧
        t.mem.nat (pa + 8) 2 = 257 ∧ (t.mem.sideAt pa).fe = 2 ∧ t.cleanAt pa ∧ goesOn t))

/-- R307: GRAPH.REPLAY first consumes TURN, whose value it keeps, and then the HOLD cell of its slot; when its chain is enrolled
it fills TURN with the next number and returns its own in gd. -/
def Obligations.ReplayTurns : Prop :=
  ∀ (gd ga gb : GReg) (s : State) (l : Launch) (pa : Nat), s.acts l → s.quiet pa → s.cleanAt pa → pa % 32 = 0 →
    s.writeHeld pa = false →
    let keeps (t : State) (stage : Nat) (v : Word64) : Prop :=
      s.feSet t pa 1 ∧ s.unitsKept t ∧ t.cur.g = s.cur.g ∧ t.cur.pc = s.cur.pc ∧ t.cur.mode = .waiting ∧
      ∃ p, t.cur.pend = some p ∧ p.stage = stage ∧ p.value = v ∧ p.place = .none
    (s.cur.pend = none → (s.reg ga).toNat % 32 = 0 → (s.reg gb).toNat % 32 = 0 → (s.mem.sideAt pa).fe = 2 →
      s.reaches (s.reg ga + 64) 32 false 1 pa →
      ∃ t, exec (.graphReplay gd ga gb) s = .next t ∧ keeps t 1 (BitVec.ofNat 64 (s.mem.nat pa 8))) ∧
    (∀ p, s.cur.pend = some p → p.stage = 1 → p.place = .none → (s.mem.sideAt pa).fe = 2 →
      s.reaches (s.reg ga + BitVec.ofNat 64 (96 + 32 * (p.value.toNat % 2))) 32 false 1 pa →
      ∃ t, exec (.graphReplay gd ga gb) s = .next t ∧ keeps t 2 p.value) ∧
    (∀ p, s.cur.pend = some p → p.stage = 3 → (p.cmds.headD (0, 0)).1 = 0 → s.feOk pa →
      s.reaches (s.reg ga + 64) 32 true 2 pa →
      ∃ t, exec (.graphReplay gd ga gb) s = .next t ∧ s.stored t pa 8 (p.value.toNat + 1) 2 ∧ s.unitsKept t ∧
        s.curWrote t gd p.value s.after)

/-- R308 and R309: CANCEL of a launch that is not placed marks it cancelled, and nothing else; of a placed one, outside a window,
it drops its engine commands and deques, ends its suspended strands, and every other strand of it that runs takes trap 0x0A with
DONE. A level that is complete is passed over; an address that names no level is refused. CANCEL.E stops an element of the
region, which counts as complete. -/
def Obligations.Cancels : Prop :=
  (∀ (ga : GReg) (s : State),
    let a := (s.reg ga).toNat
    let mine (j : Nat) : Bool := s.cur.priv || j == s.strandJob s.issue.k
    let cell := s.cellIn (s.strandX s.issue.k) (s.strandJob s.issue.k) a
    let level := s.levelAt mine (cell, s.strandJob s.issue.k, a)
    a < 2 ^ 52 → a % 32 = 0 →
    (∀ id y, level = some (.launch id) → s.launch? id = some y → y.cancelled = false →
      (y.stage = .waiting ∨ y.stage = .ready →
        ∃ t, exec (.cancel ga) s = .next t ∧ s.went { t with launches := s.launches } s.after ∧
          t.launches = s.launches.map (fun z => if z.id = id then
            { z with cancelled := true, status := z.status ||| 1, stage := .ready } else z)) ∧
      (y.stage = .placed → y.window = none → y.strands.Nodup → (∀ c ∈ y.clusters, (s.cluster c).owner = some id) →
        ∃ t z, exec (.cancel ga) s = .next t ∧ t.launch? id = some z ∧ z.cancelled = true ∧ z.status.getLsbD 0 = true ∧
          z.stage = .placed ∧ (∀ c ∈ y.clusters, (t.cluster c).deque = []) ∧
          (∀ p, y.holds (p / 3) = true → (t.port p).cmds = []) ∧
          ∀ k ∈ y.strands, k ≠ s.issue.k →
            let x := s.strand k
            (x.mode = .idle ∨ x.mode = .exited → x.pend = none → t.strand k = x) ∧
            (x.mode = .suspended → x.pend = none → t.strand k = x.ended) ∧
            (x.mode = .ready → x.pend = none → x.intrap = false → x.tvec ≠ 0 →
              t.strand k = { x with epc := x.pc &&& ~~~3, tval := y.record.done, cause := 0x00A, intrap := true, pc := x.tvec }))) ∧
    (∀ pa, level = none → cell = some pa → 1 ≤ s.mem.nat (pa + 9) 1 → s.mem.nat (pa + 9) 1 ≤ 4 → (s.mem.sideAt pa).fe = 2 →
      ∃ t, exec (.cancel ga) s = .next t ∧ s.went t s.after) ∧
    (level = none → cell = none → s.handler → s.issue.hi = none →
      ∃ t, exec (.cancel ga) s = .next t ∧ s.handled t 0x02 (s.reg ga) s.cur.pc)) ∧
  (∀ (ga : GReg) (s : State), 2 ^ 52 ≤ (s.reg ga).toNat ∨ (s.reg ga).toNat % 32 ≠ 0 → s.handler → s.issue.hi = none →
    ∃ t, exec (.cancel ga) s = .next t ∧ s.handled t 0x02 (s.reg ga) s.cur.pc) ∧
  (∀ (ga : GReg) (s : State) (l : Launch) (e : Nat), s.launchOf s.issue.k = some l → l.cancelled = false →
    l.halted = false → l.window = none → (s.reg ga).toNat < 2 ^ 16 → l.own (s.reg ga).toNat = some (.element e) →
    (s.element e).complete = false →
    ∃ t, exec (.cancelE ga) s = .next t ∧ s.went { t with launches := s.launches, elements := s.elements } s.after ∧
      t.element e = { s.element e with cancelled := true, stopped := true, complete := true } ∧
      (∀ j, j ≠ e → t.element j = s.element j) ∧
      t.launches = s.launches.map (fun z => if z.id = l.id then { z with status := z.status ||| 1 } else z))

/-- R312 to R316: FORK pushes at the head of the deque, or runs the task inline when it is full; JOIN returns bytes 15:8
of a full cell, or runs the head task and comes back to itself; STEAL moves the tail of the first other cluster of the
region in snake order, or returns 0; YIELD runs the head task, or lets every other ready strand issue first. -/
def Obligations.Tasks : Prop :=
  (∀ (ga gb gc : GReg) (s : State) (l : Launch),
    let x : Task := { entry := s.reg ga, arg := s.reg gb, join := s.reg gc, high := s.cur.prio }
    s.acts l → (s.reg ga).toNat % 4 = 0 → (s.reg gc).toNat % 32 = 0 →
    (s.deque.length < 256 → ∃ t, exec (.fork ga gb gc) s = .next t ∧ s.went { t with clusters := s.clusters } s.after ∧
      s.dequeSet t (s.issue.k / 8) (x :: s.deque)) ∧
    (256 ≤ s.deque.length → s.cur.depth ≠ 255 → ∃ t, exec (.fork ga gb gc) s = .next t ∧ s.onlyStrand t s.issue.k ∧
      s.inlined t x s.after s.deque)) ∧
  (∀ (gd ga : GReg) (s : State) (pa : Nat), s.haltedK s.issue.k = false → s.reaches (s.reg ga) 32 false 1 pa →
    s.cur.pend = none → (∀ p ∈ s.cur.posted, p.pa / 32 ≠ pa / 32) →
    ((s.mem.sideAt pa).fe = 2 → s.cleanAt pa → s.hasRoom pa → ∃ t, exec (.join gd ga) s = .next t ∧ s.sameMemory t ∧ s.unitsKept t ∧
      s.curWrote t gd (BitVec.ofNat 64 (s.mem.nat (pa + 8) 8)) s.after) ∧
    (∀ x rest, (s.mem.sideAt pa).fe = 1 → s.deque = x :: rest → s.cur.depth ≠ 255 →
      ∃ t, exec (.join gd ga) s = .next t ∧ s.sameMemory t ∧ s.unitsKept t ∧ s.inlined t x s.cur.pc rest)) ∧
  (∀ (gd : GReg) (s : State) (l : Launch), s.haltedK s.issue.k = false → s.launchOf s.issue.k = some l →
    let c := s.issue.k / 8
    let from_ := (snakeAfter c).find? (fun d => (s.cluster d).owner == some l.id)
    ((∀ d, from_ = some d → (s.cluster d).deque = []) → ∃ t, exec (.steal gd) s = .next t ∧ s.wrote t gd 0 s.after) ∧
    (∀ d q x, from_ = some d → (s.cluster d).deque = q ++ [x] → s.deque.length < 256 →
      ∃ t, exec (.steal gd) s = .next t ∧ s.wrote { t with clusters := s.clusters } gd 1 s.after ∧
        t.cluster d = { s.cluster d with deque := q } ∧ t.cluster c = { s.cluster c with deque := x :: s.deque } ∧
        ∀ j, j ≠ c → j ≠ d → t.cluster j = s.cluster j)) ∧
  (∀ s : State, s.haltedK s.issue.k = false →
    (∀ x rest, s.deque = x :: rest → s.cur.depth ≠ 255 → ∃ t, exec .yield s = .next t ∧
      s.onlyStrand { t with clusters := s.clusters } s.issue.k ∧ s.inlined t x s.after rest) ∧
    (s.deque = [] → ∃ t ks n, exec .yield s = .next t ∧ s.onlyStrand t s.issue.k ∧
      t.cur = { s.cur with pc := s.after, mode := .ready, pend := none, yield := some (ks, n) } ∧
      (∀ j, j ∈ ks ↔ j / 8 = s.issue.k / 8 ∧ j ≠ s.issue.k ∧ (s.strand j).mode = .ready) ∧
      n = if ks = [] then s.fc + 9 else 0))

/-- R311 and R316: EXIT of an inline task returns to g31, and of a started task or an entry the strand takes the next task of its
cluster or ends; before that it decrements the join cell at g4, if g4 names one. TASK_POP starts the head task on an idle strand. -/
def Obligations.TaskEnds : Prop :=
  (∀ s : State, s.cancelledK s.issue.k = false → s.cur.depth ≠ 0 → s.reg 31 ≠ 0 → (s.reg 31).toNat % 4 = 0 → s.reg 4 = 0 →
    ∃ t, exec .exit s = .next t ∧ s.onlyStrand t s.issue.k ∧
      t.cur = { s.cur with depth := s.cur.depth - 1, pc := s.reg 31, mode := .ready, pend := none }) ∧
  (∀ s : State, s.cur.depth = 0 ∨ s.cancelledK s.issue.k = true → s.cur.running = false ∨ s.reg 4 = 0 ∨ s.cancelledK s.issue.k = true →
    (s.cluster (s.issue.k / 8)).deque = [] →
    ∃ t, exec .exit s = .next t ∧ s.onlyStrand t s.issue.k ∧ t.cur = s.cur.ended) ∧
  (∀ (s : State) (l : Launch) (x : Task) (rest : List Task), s.cancelledK s.issue.k = false → s.cur.depth = 0 →
    s.cur.running = false ∨ s.reg 4 = 0 → s.launchOf s.issue.k = some l → (s.cluster (s.issue.k / 8)).deque = x :: rest →
    ∃ t, exec .exit s = .next t ∧ s.onlyStrand { t with clusters := s.clusters } s.issue.k ∧
      s.dequeSet t (s.issue.k / 8) rest ∧ s.started t s.issue.k l x) ∧
  (∀ (s : State) (pa : Nat), s.cancelledK s.issue.k = false → s.reg 4 ≠ 0 → s.cur.posted = [] →
    s.reaches (s.reg 4) 32 true 2 pa → s.feOk pa → s.cleanAt pa → s.quiet pa → s.writeHeld pa = false →
    (s.countAt pa = 1 → s.plainCell (s.strandJob s.issue.k) (s.reg 4).toNat) →
    (s.cur.depth = 0 → s.cur.running = true → (s.cluster (s.issue.k / 8)).deque = [] →
      ∃ t, exec .exit s = .next t ∧ s.counted t pa 0 ∧ s.unitsKept t ∧ t.cur = s.cur.ended) ∧
    (s.cur.depth ≠ 0 → s.reg 31 ≠ 0 → (s.reg 31).toNat % 4 = 0 →
      ∃ t, exec .exit s = .next t ∧ s.counted t pa 0 ∧ s.unitsKept t ∧
        t.cur = { s.cur with depth := s.cur.depth - 1, pc := s.reg 31, mode := .ready, pend := none })) ∧
  (∀ (s : State) (k : Nat) (l : Launch) (x : Task) (rest : List Task), s.launchOf k = some l →
    (s.cluster (k / 8)).deque = x :: rest → (s.strand k).mode = .idle →
    ∃ t, exec (.taskPop k) s = .next t ∧ s.onlyStrand { t with clusters := s.clusters } k ∧ s.dequeSet t (k / 8) rest ∧
      s.started t k l x)

/-- R329 to R333: CTXSAVE of a launch that waits with its image takes it from the dispatcher and returns the image's address, or,
with an address in gb, copies the image there; of a placed launch at a boundary it saves the region first, to a slot of the cask
or to gb. CTXLOAD of an image whose headers pass enters its launch at the head of the queue, as ready; one with a field out of
range is rejected with that field's offset. Without PRIV each is refused. -/
def Obligations.ContextCommands : Prop :=
  (∀ (gd ga gb : GReg) (s : State) (l : Launch),
    let b := (s.reg gb).toNat
    s.cur.priv = true → s.savable (s.reg ga).toNat = some l → (s.mem.sideAt (s.reg ga).toNat).fe ≠ 2 → b % 32 = 0 →
    (∀ addr, l.stage = .ready → l.image = some addr →
      (b = 0 → ∃ t, exec (.ctxsave gd ga gb) s = .next t ∧
        s.wrote { t with launches := s.launches } gd (BitVec.ofNat 64 addr) s.after ∧
        t.launches = s.launches.filter (fun y => y.id != l.id)) ∧
      (b ≠ 0 → s.mayAccess 2 b (s.mem.good (addr + 4) 4) = true → s.noWaiters →
        ∃ t, exec (.ctxsave gd ga gb) s = .next t ∧ s.curWrote t gd (s.reg gb) s.after ∧
          t.launches = s.launches.filter (fun y => y.id != l.id) ∧
          ∀ j, j < s.mem.good (addr + 4) 4 → t.mem.cell (b + 32 * j) =
            { s.mem.cell (addr + 32 * j) with w := (s.mem.sideAt (b + 32 * j)).w })) ∧
    (∀ addr, s.stoppable l → superStrand s.issue.k = true → s.noWaiters → l.job ≤ 192 → l.record.a ≤ 12 → l.record.b ≤ 12 →
      addr % 32 = 0 → (b = 0 ∧ s.slotFor l addr) ∨ (b ≠ 0 ∧ s.mayAccess 2 b (s.imageCells l) = true ∧ addr = b) →
      ∃ t, exec (.ctxsave gd ga gb) s = .next t ∧ s.curWrote t gd (BitVec.ofNat 64 addr) s.after ∧
        t.launches = s.launches.filter (fun y => y.id != l.id) ∧ t.headerAt l addr ∧
        ∀ c ∈ l.clusters, (t.cluster c).owner ≠ some l.id)) ∧
  (∀ (ga gb : GReg) (s : State),
    let a := (s.reg ga).toNat
    let d := (s.mem.cell a).data
    let r := s.launchIn a (s.reg gb).toNat d
    s.cur.priv = true → (s.reg gb).toNat ≤ 192 → a % 32 = 0 → s.mayAccess 1 a 1 = true → s.cur.posted = [] → s.feOk a →
    s.cleanAt a →
    (headerBad d = none → s.headersPass a r.2 r.1 (s.mem.nat (a + 4) 4) (s.mem.nat (a + 12) 4) 1 (0, 0) →
      ∃ t y, exec (.ctxload ga gb) s = .next t ∧ s.went { t with launches := s.launches, launchNo := s.launchNo } s.after ∧
        t.launches = y :: s.launches ∧ t.launchNo = s.launchNo + 1 ∧ y.id = s.launchNo ∧ y.job = (s.reg gb).toNat ∧
        y.stage = .ready ∧ y.readyAt = s.fc ∧ y.image = some a ∧
        { y with id := r.2.id, parent := r.2.parent, stage := r.2.stage, readyAt := r.2.readyAt, image := r.2.image } = r.2) ∧
    (∀ o, headerBad d = some o → s.handler → s.issue.hi = none →
      ∃ t, exec (.ctxload ga gb) s = .next t ∧ s.handled t 0x0B (BitVec.ofNat 64 o) s.cur.pc)) ∧
  (∀ (gd ga gb : GReg) (s : State), s.cur.priv = false → s.handler → s.issue.hi = none →
    (∃ t, exec (.ctxsave gd ga gb) s = .next t ∧ s.handled t 0x02
      (BitVec.ofNat 64 (0xD0000001 + gd.toNat * 2 ^ 21 + ga.toNat * 2 ^ 16 + gb.toNat * 2 ^ 11)) s.cur.pc) ∧
    (∃ t, exec (.ctxload ga gb) s = .next t ∧ s.handled t 0x02
      (BitVec.ofNat 64 (0xD0000002 + ga.toNat * 2 ^ 16 + gb.toNat * 2 ^ 11)) s.cur.pc))

/-- R295 to R297, R299, R301 to R305: a phase starts from a full start cell, and its chain ends with a decrement of its cell; a
decrement of a completion cell counts it down, and the one that fills a phase's cell ends the phase; a launch that has nothing
left to do, or that was cancelled before it ran, ends: FWORD is written and DONE takes a decrement with its status, and when that
fills DONE the parent gets one; then the launch gives its region back. -/
def Obligations.CompletionLevels : Prop :=
  ((∀ (s : State) (j : Nat),
    let a := s.phaseStart j (s.phaseNo j)
    j ≤ 192 → (s.job j).running = none → s.jobOpen j = true → a % 32 = 0 → (s.mem.sideAt a).fe = 2 → s.cleanAt a →
    s.quiet a → s.quiet (a + 32) →
    ∃ t, exec (.phaseStart j) s = .next t ∧ (t.mem.sideAt a).fe = 1 ∧ (t.mem.sideAt (a + 32)).fe = 1 ∧
      t.countAt (a + 32) = 1 ∧ t.mem.nat (a + 40) 2 = 256 * 3 ∧ t.cleanAt (a + 32) ∧ (t.job j).running = some (a + 32) ∧
      (t.job j).chain = some { next := BitVec.ofNat 64 (s.mem.nat a 8), parent := a + 32 } ∧
      (∀ i, i ≠ j → t.job i = s.job i) ∧ t.launches = s.launches ∧ t.strands = s.strands) ∧
  (∀ (s : State) (j pa : Nat) (ch : Chain), (s.job j).running = some pa → (s.job j).chain = some ch → ch.next = 0 →
    ∃ t, exec (.phaseStart j) s = .next t ∧ { t with jobs := s.jobs, decrs := s.decrs } = s ∧
      t.decrs = s.decrs ++ [{ addr := pa, virt := false, bits := 0, job := j }] ∧
      t.job j = { s.job j with chain := none } ∧ ∀ i, i ≠ j → t.job i = s.job i)) ∧
  (∀ (s : State) (d : Decr) (rest : List Decr) (pa : Nat), s.decrs = d :: rest →
    (d.virt = false ∧ pa = d.addr) ∨ (d.virt = true ∧ (s.xrecOf d.job).inHeap d.addr = true ∧
      pa = (d.addr + (s.xrecOf d.job).hoff) % 2 ^ 44) →
    pa % 32 = 0 → s.feOk pa → s.cleanAt pa → s.quiet pa → s.writeHeld pa = false →
    ((s.countAt pa = 1 → if d.virt then s.plainCell d.job d.addr else (s.job d.job).running ≠ some d.addr) →
      ∃ t, exec .completionDecrement s = .next t ∧ s.counted t pa d.bits.toNat ∧ t.decrs = rest ∧
        t.launches = s.launches ∧ t.strands = s.strands ∧ t.jobs = s.jobs) ∧
    (d.virt = false → s.countAt pa = 1 → (s.job d.job).running = some pa → s.workRec d.job % 32 = 0 →
      s.cleanAt (s.workRec d.job) → s.workRec d.job ≠ pa → s.jobDone d.job / 32 ≠ s.workRec d.job / 32 →
      ∃ t, exec .completionDecrement s = .next t ∧ t.decrs = rest ∧ t.launches = s.launches ∧
        t.job d.job = { s.job d.job with running := none, chain := none, phCancel := false } ∧
        t.phaseNo d.job = (s.phaseNo d.job + 1) % 2 ^ 64)) ∧
  (∀ (s : State) (id : Nat) (l : Launch), s.launch? id = some l →
    (∀ pa,
      let va := l.record.done.toNat
      let x := s.launchX l
      (l.stage = .placed ∧ s.launchDone l = true ∧ l.window = none) ∨ (l.stage = .ready ∧ l.cancelled = true) →
      l.image = none → x.inHeap va = true → pa = (va + x.hoff) % 2 ^ 44 → pa % 32 = 0 → s.feOk pa → s.cleanAt pa →
      s.quiet pa → s.writeHeld pa = false → s.plainCell l.job va →
      ∃ t, exec (.launchComplete id) s = .next t ∧ s.endedAt t pa l.status.toNat l.fword ∧ t.strands = s.strands ∧
        t.launches = s.launches.map (fun y => if y.id = id then
          { y with stage := .ended, window := none, image := none, xrec := x,
                   full := if s.countAt pa = 1 then true else y.full } else y) ∧
        t.decrs = s.decrs ++ (if s.countAt pa = 1 then [{ addr := l.parent, virt := l.parentVa, job := l.job,
                                                          bits := BitVec.ofNat 7 (t.mem.nat (pa + 8) 1) }] else [])) ∧
    (∀ pa, l.stage = .ended → l.full = false → s.doneOfLaunch l = some pa → (s.mem.sideAt pa).fe = 2 →
      ∃ t, exec (.launchComplete id) s = .next t ∧ { t with launches := s.launches, decrs := s.decrs } = s ∧
        t.launches = s.launches.map (fun y => if y.id = id then { y with full := true } else y) ∧
        t.decrs = s.decrs ++ [{ addr := l.parent, virt := l.parentVa, job := l.job,
                                bits := BitVec.ofNat 7 (s.mem.nat (pa / 32 * 32 + 8) 1) }]) ∧
    (l.stage = .ended → l.full = true →
      ∃ t, exec (.launchComplete id) s = .next t ∧ { t with launches := s.launches, strands := s.strands,
                                                            clusters := s.clusters } = s ∧
        t.launches = s.launches.filter (fun y => y.id != id) ∧
        ∀ c ∈ l.clusters, (t.cluster c).owner ≠ some id ∧ ((s.cluster c).owner = some id →
          ∀ i, i < 8 → superStrand (8 * c + i) = false → (t.strand (8 * c + i)).mode = .idle)))

/-- R302 to R304, R329, R332 and 01 R12: a pass places the one ready launch at the first origin where it fits, the launch holds
the clusters there and its declared strands start, with PATCH in g3 only in a launch of a graph; one whose image has lost its
header completes with FAULT and "context lost". A class target that has passed chooses victims and reserves a rectangle; a victim
is saved and waits again at the head of its queue. -/
def Obligations.Dispatching : Prop :=
  (∀ (s : State) (l : Launch) (o : Nat × Nat), s.launch? l.id = some l → l.stage = .ready → l.cancelled = false →
    (∀ y ∈ s.launches, y.id ≠ l.id → y.stage ≠ .ready ∨ y.cancelled = true) → (s.launches.map (·.id)).Nodup →
    l.job ≤ 192 → l.record.cls < 4 → 0 < s.weight l.job l.record.cls → s.fit l = some o →
    (l.image = none →
      ∃ t y, exec .dispatchPass s = .next t ∧ t.mem = s.mem ∧ t.launch? l.id = some y ∧ y.stage = .placed ∧ y.x = o.1 ∧
        y.y = o.2 ∧ y.record = l.record ∧ y.xrec = s.xrecOf l.job ∧ (∀ c ∈ y.clusters, (t.cluster c).owner = some l.id ∧
          (t.cluster c).deque = []) ∧ (∀ c, c ∉ y.clusters → t.cluster c = s.cluster c) ∧
        ∀ e ∈ l.record.entries, (t.strand (y.strandAt e.rcl e.strand)).mode = .ready ∧
          (t.strand (y.strandAt e.rcl e.strand)).declared = true ∧
          (∀ r, (t.strand (y.strandAt e.rcl e.strand)).reg r = if r = 1 then l.record.param else if r = 2 then l.record.image
            else if r = 3 then (if l.parentVa then l.record.patch else 0) else 0)) ∧
    (∀ addr, l.image = some addr → (check (s.mem.cell addr).data (s.mem.cell addr).code).data? = none →
      ∃ t y, exec .dispatchPass s = .next t ∧ t.mem = s.mem ∧ t.clusters = s.clusters ∧ t.launch? l.id = some y ∧
        y.stage = .ready ∧ y.cancelled = true ∧ y.status = l.status ||| 2 ∧
        (l.fword = 0 → y.fword.toNat / 2 ^ 40 % 2 ^ 8 = 0x12))) ∧
  (∀ (s : State) (id : Nat) (l : Launch) (o : Nat × Nat),
    let tgt := (vget s.dv.classTgt l.record.cls 0).toNat
    s.launch? id = some l → tgt ≠ 0 → l.readyAt + 1024 * tgt < s.fc → l.reserved = none →
    (s.longest l.record.cls).map (·.id) = some id → s.preemptAt l = some o →
    ∃ t, exec (.classTargetTimeout id) s = .next t ∧ { t with launches := s.launches } = s ∧
      t.launches = s.launches.map (fun y =>
        { y with reserved := if y.id = id then some o else y.reserved,
                 preempt := y.preempt || (s.holders (l.atOrigin o).clusters).any (fun z => z.id == y.id) })) ∧
  (∀ (s : State) (id addr : Nat) (l : Launch), s.launch? id = some l → l.preempt = true → s.stoppable l → s.noWaiters →
    s.slotFor l addr → addr % 32 = 0 → l.job ≤ 192 → l.record.a ≤ 12 → l.record.b ≤ 12 →
    ∃ t y, exec (.preempt id) s = .next t ∧ t.launch? id = some y ∧ t.launches.head? = some y ∧ y.stage = .ready ∧
      y.preempt = false ∧ y.image = some addr ∧ y.readyAt = s.fc ∧ y.record = l.record ∧ t.headerAt l addr ∧
      ∀ c ∈ l.clusters, (t.cluster c).owner ≠ some id)

/-- 22 R320 and R321: the oldest trap record is written to its ring cell, which it fills; a suspended strand resumes, ends
with FAULT in its launch, or takes its trap as a translation fault, as ACT says. -/
def Obligations.TrapRing : Prop :=
  (∀ (s : State) (r : TrapRec) (rest : List TrapRec),
    let a := s.trapCell
    s.traps = r :: rest → s.ringOn → (s.mem.sideAt a).fe = 1 → s.quiet a → s.writeHeld a = false →
    ∃ t, exec .trapRecordPost s = .next t ∧ t.traps = rest ∧ t.dv = { s.dv with posted := s.dv.posted + 1 } ∧
      t.mem.nat a 8 = r.epc.toNat ∧ t.mem.nat (a + 8) 8 = r.tval.toNat ∧ t.mem.nat (a + 16) 2 = r.unit.toNat ∧
      t.mem.nat (a + 18) 1 = r.code.toNat ∧ t.mem.nat (a + 19) 1 = r.pair.toNat ∧ t.mem.nat (a + 20) 1 = r.job.toNat ∧
      t.mem.nat (a + 21) 11 = 0 ∧ (t.mem.sideAt a).fe = 2 ∧ t.cleanAt a ∧ t.strands = s.strands ∧
      ∀ b, b < a ∨ a + 32 ≤ b → t.mem.byte b = s.mem.byte b) ∧
  (∀ (s : State) (k : Nat) (v : Word64), (s.strand k).mode = .suspended →
    (v.toNat % 4 = 0 → ∃ t, exec (.sqResumeResume k v) s = .next t ∧ s.onlyStrand t k ∧
      t.strand k = { s.strand k with mode := .ready, pc := v, susp := none, pend := none }) ∧
    (v.toNat % 4 = 1 → (s.cluster (k / 8)).deque = [] → ∃ t, exec (.sqResumeEnd k v) s = .next t ∧
      s.onlyStrand { t with launches := s.launches } k ∧ t.strand k = (s.strand k).ended ∧
      ∀ l, s.launchOf k = some l → ∃ y, t.launch? l.id = some y ∧ y.status = l.status ||| 2 ∧ y.fword ≠ 0) ∧
    (∀ r, v.toNat % 4 = 2 → (s.strand k).susp = some r → (s.strand k).intrap = false → (s.strand k).tvec ≠ 0 →
      ∃ t, exec (.sqResumeDeliver k v) s = .next t ∧ s.onlyStrand t k ∧
        t.strand k = { s.strand k with susp := none, epc := v &&& ~~~3, tval := r.tval,
                                       cause := BitVec.ofNat 9 (256 * r.pair.toNat + 5), intrap := true,
                                       pc := (s.strand k).tvec, mode := .ready, pend := none }))

/-- 18 R270, 22 R325, R327 and R328: a window that is asked to close, or that would outlive its 8,192 cycles, commits at an
admissible boundary: its held effects perform and the next opens; a fault that one of them would meet keeps all back. A voided one
restores the region's units and groups to its records, but for caches, and its commands leave the merge groups; it runs again once
the page is mapped, at a cycle of the round grid, and with no mapping the launch takes "translation fault". 20 R293 and R294: a
governor window begins with nothing spent and the budget last written. -/
def Obligations.Windows : Prop :=
  (∀ (s : State) (id : Nat) (l : Launch) (w : Window), s.launch? id = some l → l.window = some w →
    (w.close = true ∨ w.opened + 8192 < s.fc + s.boundaryStep l → w.committing = false → w.voided = false → w.fault = none →
      s.admissible l = true → l.halted = false → l.cancelled = false → l.record.direct = false →
      let opens (t : State) : Prop := ∃ y v, t.launch? id = some y ∧ y.window = some v ∧ v.opened = s.fc ∧ v.held = [] ∧
        v.close = false ∧ v.voided = false ∧ v.committing = false ∧ v.fault = none ∧ v.lmUndo = [] ∧ v.tlUndo = [] ∧
        y.ver = l.ver ∧ y.groups = l.groups ∧
        (∀ e, l.holds (e / 12) = true → tabGet Element.reset v.elems e = s.element e) ∧
        ∀ u, l.holds (u / 6) = true → tabGet Tile.reset v.tiles u = t.tile u
      (w.held = [] → ∃ t, exec (.windowCommit id) s = .next t ∧ t.mem = s.mem ∧ t.strands = s.strands ∧
        t.elements = s.elements ∧ t.tiles = s.tiles ∧ opens t) ∧
      (∀ p va pa c fe, w.held = [.write p va c fe] → s.engAcc l p va true = (.ok pa, s) → pa % 32 = 0 → s.feOk pa →
        s.quiet pa → s.writeHeld pa = false →
        ∃ t, exec (.windowCommit id) s = .next t ∧ cellPut s.mem t.mem pa c.data c.code (fe.getD (s.mem.sideAt pa).fe) ∧
          t.strands = s.strands ∧ t.elements = s.elements ∧ t.tiles = s.tiles ∧ opens t) ∧
      (∀ u off d, w.held = [.area u off [d]] → off % 32 = 0 →
        ∃ t, exec (.windowCommit id) s = .next t ∧ t.mem = s.mem ∧ t.strands = s.strands ∧ t.elements = s.elements ∧
          s.otherTiles t u ∧ cellPut (s.tile u).sram (t.tile u).sram off d (gen d) 2 ∧ opens t) ∧
      (∀ p va c fe rest noMap, w.held = .write p va c fe :: rest → s.engAcc l p va true = (.page noMap, s) →
        ∃ t y v f, exec (.windowCommit id) s = .next t ∧ t.mem = s.mem ∧ t.strands = s.strands ∧ t.elements = s.elements ∧
          t.tiles = s.tiles ∧ t.launch? id = some y ∧ y.window = some v ∧ { v with fault := none } = w ∧
          v.fault = some (f, va, true))) ∧
    (w.fault.isSome = true → w.voided = false → w.committing = false → (w.elems.map (·.1)).Nodup →
      (∀ x ∈ w.elems, l.holds (x.1 / 12) = true) → (w.tiles.map (·.1)).Nodup →
      (∀ x ∈ w.tiles, l.holds (x.1 / 6) = true) → (∀ x ∈ w.ports, x.1 ∈ s.ports.map (·.1)) →
      ∃ t y v, exec (.windowVoid id) s = .next t ∧ t.mem = s.mem ∧ t.strands = s.strands ∧
        (∀ e, t.element e = if l.holds (e / 12) then tabGet Element.reset w.elems e else s.element e) ∧
        (∀ u, t.tile u = if l.holds (u / 6) then tabGet Tile.reset w.tiles u else s.tile u) ∧
        (∀ p, t.port p = if l.holds (p / 3) then { tabGet Port.reset w.ports p with
            l1 := (s.port p).l1, tlb := (s.port p).tlb, asked := (s.port p).asked } else s.port p) ∧
        (∀ h, t.slice h = { s.slice h with merges := (s.slice h).merges.map (fun m =>
          { m with who := m.who.filter (fun j => !l.holds (j.p / 3)) }) }) ∧
        t.launch? id = some y ∧ y.groups = w.groups ∧ y.ver = w.ver ∧ y.window = some v ∧ v.voided = true ∧ v.held = [] ∧
        v.fault = w.fault) ∧
    (∀ word va write, w.fault = some (word, va, write) → w.voided = true → l.halted = false → l.cancelled = false →
      let later (g : Group) : Group := { g with t0 := g.t0 + (s.fc - w.opened) }
      (s.paged l va = .mapped → (s.fc - w.opened) % l.grid = 0 →
        ∃ t y v, exec (.windowRerun id) s = .next t ∧ { t with launches := s.launches } = s ∧ t.launch? id = some y ∧
          y.window = some v ∧ v.opened = s.fc ∧ v.voided = false ∧ v.fault = none ∧ v.close = false ∧
          y.groups = l.groups.map later ∧ v.groups = w.groups.map later ∧ v.elems = w.elems ∧ v.tiles = w.tiles) ∧
      (∀ u, s.paged l va = .never → l.unit? (word.toNat / 2 ^ 48) = some u →
        ∃ t, exec (.windowRerun id) s = .next t ∧ t.mem = s.mem ∧ t.faultMet l 0x0A))) ∧
  (∀ (s : State) (c : Nat), (s.cluster c).window ≠ s.cycle / 256 →
    ∃ t, exec (.governorWindow c) s = .next t ∧ { t with clusters := s.clusters } = s ∧
      (∀ d, d ≠ c → t.cluster d = s.cluster d) ∧
      t.cluster c = { s.cluster c with window := s.cycle / 256, spent := 0, budgetDue := none,
                                       budget := ((s.cluster c).budgetDue.getD (s.cluster c).budget) })

/-- 02 R32, 20 R294, 23 R340 and 00 R6: a write of CL_PRESENT keeps the bits of units that a launch holds until it ends or is
cancelled; one of CL_ISSUEBUDGET is clamped and waits for the next window; DV_ACCGEN reloads the access table; any other register
takes its writable fields. -/
def Obligations.OutsideWrites : Prop :=
  (∀ (s : State) (c : Nat) (v : Word64), ∃ t, exec (.clPresentWrite c v) s = .next t ∧ { t with clusters := s.clusters } = s ∧
    (∀ d, d ≠ c → t.cluster d = s.cluster d) ∧
    { t.cluster c with present := (s.cluster c).present, held := (s.cluster c).held } = s.cluster c ∧
    (∀ i, i < 22 → (t.cluster c).present.getLsbD i =
      (v.getLsbD i || ((s.cluster c).present.getLsbD i && (s.heldBits c).getLsbD i))) ∧
    ((t.cluster c).held = none ∨ (t.cluster c).held = some (BitVec.ofNat 22 v.toNat)) ∧
    (∀ l, s.ownerOf c = some l → l.cancelled = true →
      t.cluster c = { s.cluster c with present := BitVec.ofNat 22 v.toNat, held := none })) ∧
  (∀ (s : State) (c : Nat) (v : Word64), ∃ t, exec (.clIssuebudgetWrite c v) s = .next t ∧
    { t with clusters := s.clusters } = s ∧ (∀ d, d ≠ c → t.cluster d = s.cluster d) ∧
    let x := s.cluster c
    let due := some (BitVec.ofNat 12 (min (v.toNat % 4096) 3072))
    t.cluster c = if x.window = s.cycle / 256 then { x with budgetDue := due }
      else { x with window := s.cycle / 256, spent := 0, budget := x.budgetDue.getD x.budget, budgetDue := due }) ∧
  (∀ (s : State) (v : Word64), ∃ t, exec (.dvAccgenWrite v) s = .next t ∧
    { t with dv := s.dv } = s ∧ { t.dv with accgen := s.dv.accgen, access := s.dv.access, loaded := s.dv.loaded } = s.dv ∧
    t.dv.accgen = v ∧ t.dv.loaded = true ∧
    ∀ i, i < 256 * 1273 → tabGet 0 t.dv.access i = s.mem.byte (s.dv.acctab.toNat + i)) ∧
  (∀ (s : State) (k : Nat) (n : BitVec 16) (v : Word64), k < 1152 → n.toNat < 9 →
    ∃ t, exec (.controlRegisterWrite (.unit (BitVec.ofNat 16 (256 * (k / 8) + 96 + k % 8)) n) v) s = .next t ∧
      s.onlyStrand t k ∧ t.strand k = sqWritten (s.strand k) n.toNat v) ∧
  (∀ (s : State) (e i : Nat) (v : Word64), e < 1728 → i < 4 →
    ∃ t, exec (.controlRegisterWrite (.unit (BitVec.ofNat 16 (256 * (e / 12) + e % 12)) (BitVec.ofNat 16 (0x204 + i))) v) s =
      .next t ∧ { t with elements := s.elements } = s ∧ (∀ j, j ≠ e → t.element j = s.element j) ∧
      { t.element e with kc := (s.element e).kc } = s.element e ∧
      ∀ n, n < 4 → vget (t.element e).kc n 0 = if n = i then BitVec.ofNat 32 v.toNat else vget (s.element e).kc n 0) ∧
  (∀ (s : State) (f : Nat) (v : Word64), f ≤ 192 →
    ∃ t, exec (.controlRegisterWrite (.host f 0x0008) v) s = .next t ∧ { t with funcs := s.funcs } = s ∧
      t.func f = { s.func f with werr := (s.func f).werr && !v.getLsbD 2 } ∧ ∀ g, g ≠ f → t.func g = s.func g)

/-- 09 R140 to R145, R152 and R160: a reader sends the token of the cells its walk comes to, with the pattern's tag and bank,
when its fork has room, and empties them under FEMODE 2; a writer puts the head token's data and codes into them, and fills
them under FEMODE 3 and 4; each in every mode of the tile, under HALF, PERM and CBUF, in a direct and a windowed launch. After
a run a marker goes out or is taken under MARK. The walk's transfers are numbered with I0 fastest. A transfer that its ring or
its cells' states hold up waits; a write wakes what waits for its cells, and a re-examination costs a unit of budget, the last
of which is a fault. -/
def Obligations.GeneratorTransfers : Prop :=
  (∀ (s : State) (t g a : Nat) (l : Launch) (w : Walk) (cs : List Nat), s.liveAt (t / 6) = some l → s.transfers t g w a cs →
    let x := s.tile t
    let y := x.gen g
    let f := l.fork (l.relId (.tile t)) g
    (patWrite w.pat = false → s.forkRoom l f = true →
      let lo := x.sram.cell (cs.headD 0)
      let hi := x.sram.cell (cs.getLastD 0)
      let s1 := if patFe w.pat = 2 then
          s.putCells t (cs.map (fun c => (c, (x.sram.cell c).data, (x.sram.cell c).code))) (some 1) else s
      let s2 := (s1.setTile t ((s1.tile t).setGen g { y with sent := y.sent + 1 })).forkPush l f
        { data := (if patHalf w.pat then 0 else hi.data) ++ lo.data, code0 := lo.code,
          code1 := if patHalf w.pat then 0 else hi.code, tag := BitVec.ofNat 4 (patTag w.pat),
          bank := BitVec.ofNat 2 (patBank w.pat), fin := false, ver := w.ver, sw := false }
      ∃ u, exec (.generatorTransfer t g) s = .next u ∧ s2.walked u t g w true ∧ (u.tile t).put = x.put ∧
        (u.tile t).take = if x.mode = 1 then x.take + 1 else x.take) ∧
    (∀ tok rest, patWrite w.pat = true → y.wire = tok :: rest →
      (∀ s0, tok.fin = false → (∀ c ∈ cs, s.watchArea l t c = false) → s.noteCells l t cs = some s0 →
        let s2 := (s0.setTile t (x.setGen g { y with wire := rest })).putCells t
          (cs.zip [(tok.data.extractLsb' 0 256, tok.code0), (tok.data.extractLsb' 256 256, tok.code1)])
          (if patFe w.pat = 3 ∨ patFe w.pat = 4 then some 2 else none)
        ∃ u, exec (.generatorTransfer t g) s = .next u ∧ s2.walked u t g w true ∧ (u.tile t).take = x.take ∧
          (u.tile t).put = if x.mode = 1 then x.put + 1 else if x.mode = 2 then max x.put (a / x.lrow + 1) else x.put) ∧
      (tok.fin = true → ∃ u, exec (.generatorTransfer t g) s = .next u ∧ u.mem = s.mem ∧ u.faultMet l 0x08))) ∧
  (∀ (s : State) (t g : Nat) (l : Launch) (w : Walk), s.liveAt (t / 6) = some l → s.walking t g w → w.mark = true →
    w.i0 + 1 = patCount w.pat 0 →
    let x := s.tile t
    let y := x.gen g
    let f := l.fork (l.relId (.tile t)) g
    (patWrite w.pat = false → s.forkRoom l f = true →
      let s2 := (s.setTile t (x.setGen g { y with sent := y.sent + 1 })).forkPush l f
        { data := 0, code0 := 0, code1 := 0, tag := BitVec.ofNat 4 (patTag w.pat), bank := BitVec.ofNat 2 (patBank w.pat),
          fin := true, ver := w.ver, sw := false }
      ∃ u, exec (.generatorTransfer t g) s = .next u ∧ s2.walked u t g w false) ∧
    (∀ tok rest, patWrite w.pat = true → y.wire = tok :: rest →
      (tok.fin = true → ∃ u, exec (.generatorTransfer t g) s = .next u ∧
        (s.setTile t (x.setGen g { y with wire := rest })).walked u t g w false) ∧
      (tok.fin = false → ∃ u, exec (.generatorTransfer t g) s = .next u ∧ u.mem = s.mem ∧ u.faultMet l 0x08))) ∧
  (∀ (s : State) (t g a : Nat) (l : Launch) (w : Walk) (cs : List Nat), s.liveAt (t / 6) = some l → s.walking t g w →
    w.mark = false → ((s.tile t).mode ≠ 1 → w.comesTo (s.tile t) a) → (s.tile t).cellsAt w a cs →
    let x := s.tile t
    let y := x.gen g
    (x.overrun g w = true → ∃ u, exec (.generatorTransfer t g) s = .next u ∧ u.mem = s.mem ∧ u.faultMet l 0x08) ∧
    (x.overrun g w = false → x.ringStall g w = true →
      exec (.generatorTransfer t g) s = .next (s.setTile t (x.setGen g { y with waiting := true }))) ∧
    (x.overrun g w = false → x.ringStall g w = false →
      (patWrite w.pat = false → s.forkRoom l (l.fork (l.relId (.tile t)) g) = true) →
      (patWrite w.pat = true → ∃ tok rest, y.wire = tok :: rest ∧ tok.fin = false) →
      ((∃ c ∈ cs, badFe (x.sram.sideAt c).fe = true) →
        ∃ u, exec (.generatorTransfer t g) s = .next u ∧ u.mem = s.mem ∧ u.faultMet l 0x11) ∧
      ((∀ c ∈ cs, badFe (x.sram.sideAt c).fe = false) → ¬x.statesFit w cs →
        ∃ u, exec (.generatorTransfer t g) s = .next u ∧ { u with tiles := s.tiles } = s ∧ s.otherTiles u t ∧
          u.tile t = x.setGen g { y with waiting := true, celled := true, poked := 0 }))) ∧
  (∀ (s : State) (t g : Nat) (l : Launch) (w : Walk), s.liveAt (t / 6) = some l → g < 4 →
    let x := s.tile t
    let y := x.gen g
    let cs := (x.walkCells w).getD []
    let z := { y with poked := y.poked - 1, retry := BitVec.ofNat 16 (y.retry.toNat - 1) }
    y.swOut = none → x.failed = false → y.walk = some w → (∀ k ∈ y.wire.head?, k.sw = false) →
    (patCbuf w.pat = true → w.slot.isSome = true) → y.celled = true → 0 < y.poked →
    (x.statesFit w cs → ∃ u, exec (.generatorReexamine t g) s = .next u ∧
      exec (.generatorTransfer t g) (s.setTile t (x.setGen g { z with celled := false, waiting := false })) = .next u) ∧
    ((∀ c ∈ cs, badFe (x.sram.sideAt c).fe = false) → ¬x.statesFit w cs →
      (1 < y.retry.toNat → ∃ u, exec (.generatorReexamine t g) s = .next u ∧ { u with tiles := s.tiles } = s ∧
        s.otherTiles u t ∧ u.tile t = x.setGen g { z with waiting := true }) ∧
      (y.retry.toNat ≤ 1 → ∃ u, exec (.generatorReexamine t g) s = .next u ∧ u.mem = s.mem ∧ u.faultMet l 0x09))) ∧
  (∀ (s : State) (t g : Nat) (l : Launch) (v : BitVec 4), s.liveAt (t / 6) = some l → g < 4 → (s.tile t).failed = false →
    let y := (s.tile t).gen g
    y.swOut = some v → s.forkRoom l (l.fork (l.relId (.tile t)) g) = true →
    exec (.generatorTransfer t g) s = .next
      ((s.setTile t ((s.tile t).setGen g { y with swOut := none, sent := y.sent + 1 })).forkPush l
        (l.fork (l.relId (.tile t)) g)
        { data := 0, code0 := 0, code1 := 0, tag := 0, bank := 0, fin := false, ver := v, sw := true })) ∧
  (∀ (s : State) (t : Nat) (cs : List (Nat × CellData × BitVec 28)) (fe : Option (BitVec 2)),
    (cs.map (fun c => c.1)).Nodup → (∀ c ∈ cs, c.1 % 32 = 0) →
    let u := s.putCells t cs fe
    { u with tiles := s.tiles, ports := s.ports } = s ∧ s.otherTiles u t ∧
    { u.tile t with sram := (s.tile t).sram, gens := (s.tile t).gens } = s.tile t ∧
    cellsPut (s.tile t).sram (u.tile t).sram cs fe ∧
    (∀ g, g < 4 → let y := (s.tile t).gen g
      (u.tile t).gen g = { y with poked := y.poked + cs.countP (fun c => y.celled && (match y.walk with
        | some w => (((s.tile t).walkCells w).getD []).contains c.1
        | none => false)) }) ∧
    (∀ p, u.port p = { s.port p with cmds := (s.port p).cmds.map (fun c =>
      if p / 3 = t / 6 ∧ cs.any (fun q => s.awaits c t q.1) = true then { c with place := .woken none } else c) })) ∧
  (∀ (s : State) (t : Nat) (l : Launch) (cs : List Nat), s.launch? l.id = some l →
    (l.window = none → s.noteCells l t cs = some s) ∧
    (∀ w, l.window = some w → (tabGet [] w.tlUndo t).length + cs.length ≤ 1024 →
      ∃ s0 y v, s.noteCells l t cs = some s0 ∧ { s0 with launches := s.launches } = s ∧ s0.launch? l.id = some y ∧
        y.window = some v ∧ (∀ c, c ∈ tabGet [] v.tlUndo t ↔ c ∈ tabGet [] w.tlUndo t ∨ ∃ a ∈ cs, c = a / 32) ∧
        (∀ j, j ≠ t → tabGet [] v.tlUndo j = tabGet [] w.tlUndo j) ∧
        { y with window := l.window } = l ∧ { v with tlUndo := w.tlUndo } = w))

/-- 09 R141: the oldest producer request takes the slot at the producer index while FREE > 0, the oldest consumer request
that at the consumer index while FILLED > 0; the slot claimed first becomes filled, and a read one free. A generator and a
command under CBUF ask for the slots they need. -/
def Obligations.CircularBuffers : Prop :=
  (∀ (s : State) (t b : Nat), b < 8 → (s.liveAt (t / 6)).isSome = true →
    let y := (s.tile t).buf b
    (∀ who rest, y.preq = who :: rest → 0 < y.free → y.slots ≠ 0 →
      ∃ u, exec (.bufferProducerClaim t b) s = .next u ∧ s.grantedTo u t y.prod who ∧
        s.bufSet u t b { y with preq := rest, free := y.free - 1, prod := (y.prod + 1) % y.slots,
                                claims := y.claims ++ [{ who := who, slot := y.prod, full := false }] }) ∧
    (∀ c rest, y.claims = c :: rest → c.full = true →
      ∃ u, exec (.bufferProducerComplete t b) s = .next u ∧ (u.tile t).gens = (s.tile t).gens ∧ u.ports = s.ports ∧
        s.bufSet u t b { y with claims := rest, filled := y.filled + 1 }) ∧
    (∀ who rest, y.creq = who :: rest → 0 < y.filled → y.slots ≠ 0 →
      ∃ u, exec (.bufferConsumerClaim t b) s = .next u ∧ s.grantedTo u t y.cons who ∧
        s.bufSet u t b { y with creq := rest, filled := y.filled - 1, cons := (y.cons + 1) % y.slots,
                                taken := y.taken ++ [{ who := who, slot := y.cons, full := false }] }) ∧
    (∀ c, y.taken.find? (·.full) = some c →
      ∃ u, exec (.bufferConsumerRelease t b) s = .next u ∧ (u.tile t).gens = (s.tile t).gens ∧ u.ports = s.ports ∧
        s.bufSet u t b { y with taken := y.taken.erase c, free := y.free + 1 })) ∧
  (∀ (s : State) (t g : Nat) (w : Walk), (s.liveAt (t / 6)).isSome = true → g < 4 →
    let x := s.tile t
    let y := x.gen g
    x.failed = false → y.swOut = none → y.walk = some w → (∀ k ∈ y.wire.head?, k.sw = false) → patCbuf w.pat = true →
    w.slot = none → w.asked = false →
    ∃ u, exec (.generatorTransfer t g) s = .next u ∧ { u with tiles := s.tiles } = s ∧ s.otherTiles u t ∧
      { u.tile t with bufs := x.bufs } = x.setGen g { y with walk := some { w with asked := true }, waiting := true } ∧
      ∀ b, b < 8 → (u.tile t).buf b = if b ≠ patBuf w.pat then x.buf b
        else if patWrite w.pat then { x.buf b with preq := (x.buf b).preq ++ [.gen g y.walks] }
        else { x.buf b with creq := (x.buf b).creq ++ [.gen g y.walks] }) ∧
  (∀ (s : State) (p id : Nat) (l : Launch) (c : Cmd), s.liveAt (p / 3) = some l → s.cmd? p id = some c → c.place = .none →
    c.ended = false → c.next < crCells c.record → crCbuf c.record = true → c.asked = false → s.earlierAsked p id = true →
    let ts := (c.tiles l p).map (·.1)
    ts.Nodup →
    ∃ u, exec (if crHist c.record then .historyCompress p id else .copyTransfer p id) s = .next u ∧
      { u with tiles := s.tiles, ports := s.ports } = s ∧ u.cmd? p id = some { c with asked := true } ∧
      (∀ t, { u.tile t with bufs := (s.tile t).bufs } = s.tile t) ∧
      ∀ t b, b < 8 → (u.tile t).buf b =
        if ts.contains t = false ∨ b ≠ crBuf c.record then (s.tile t).buf b
        else if crDir c.record then { (s.tile t).buf b with creq := ((s.tile t).buf b).creq ++ [.cmd p id] }
        else { (s.tile t).buf b with preq := ((s.tile t).buf b).preq ++ [.cmd p id] })

/-- 09 R148, 14 R219, R220, 16 R236 and 18 R270: a copy in sends each cell, with its code and, under COMP, compressed on the
way, to the landing generators of its tiles, whatever buffer they lie in; a landing generator writes it with its code and the
state that FE selects. A copy out writes the tile's cell to memory, at once in a direct launch and held in a windowed one. FE 3
takes a full cell, which becomes empty, and waits for it while it is not. A finished command completes its slots, sends its
start tokens, decrements DONE and leaves its queue. -/
def Obligations.Copies : Prop :=
  (∀ (s s1 : State) (p id n pa : Nat) (l : Launch) (c : Cmd), s.copies p id n l c → crDir c.record = false →
    (c.tiles l p).Nodup → (∀ d ∈ c.tiles l p, d.2 < 4 ∧ ((s.tile d.1).gen d.2).land.length < 4) →
    s.engReaches s1 l p (crMem c.record n) false pa → s.feOk pa →
    (crFe c.record ≠ 3 → s1.hasRoom pa →
      ∃ u, exec (.copyTransfer p id) s = .next u ∧ u.mem = s.mem ∧ s1.sentOn u l p c n (s.mem.cell pa)) ∧
    (crFe c.record = 3 → s1.quiet pa →
      ((s.mem.sideAt pa).fe = 2 → s1.writeHeld pa = false →
        ∃ u, exec (.copyTransfer p id) s = .next u ∧ s.feSet u pa 1 ∧ s1.sentOn u l p c n (s.mem.cell pa)) ∧
      ((s.mem.sideAt pa).fe = 1 →
        ∃ u, exec (.copyTransfer p id) s = .next u ∧ u.mem = s.mem ∧ u.tiles = s.tiles ∧ u.strands = s.strands ∧
          u.cmd? p id = some { c with place := .table (homeOf pa) } ∧
          (u.slice (homeOf pa)).waits =
            [{ pa := pa / 32 * 32, va := crMem c.record n, who := .engine p id, kind := 3 }]))) ∧
  (∀ (w : Nat) (cs : List Cell), w ∈ [8, 16, 32, 64] → cs.length = 8 →
    let q := compress w cs
    let n := (List.range (2048 / w)).countP (fun i =>
      decide ((cs.getD (w * i / 256) { data := 0, fe := 0, w := false, code := 0 }).data.toNat / 2 ^ (w * i % 256) % 2 ^ w ≠ 0))
    let beats := (2048 / w + n * w + 511) / 512
    expand q = cs ∧ q.head.toNat / 8 = n ∧ q.head.getLsbD 2 = decide (3 < beats) ∧ 8 * 2 ^ (q.head.toNat % 4) = w ∧
    q.data.length = 512 * (if 3 < beats then 4 else beats)) ∧
  (∀ (q : Packed),
    let w := 8 * 2 ^ (q.head.toNat % 4)
    let n := 2048 / w
    let count := q.head.toNat / 8 % 512
    q.head.toNat / 4096 ≠ 0 ∨ (q.head.getLsbD 2 = true ∧ q.data.length ≠ 2048) ∨
      (q.head.getLsbD 2 = false ∧ ((q.data.take n).countP id ≠ count ∨ q.data.length ≠ 512 * ((n + count * w + 511) / 512))) →
    (expand q).length = q.side.length ∧ ∀ (i : Nat) (x : Cell), (expand q)[i]? = some x →
      check x.data x.code = .poison ∧ ∃ y : Side, q.side[i]? = some y ∧ x.fe = y.fe ∧ x.w = y.w) ∧
  (∀ (s s0 : State) (t g : Nat) (l : Launch) (q : Landing) (rest : List Landing), g < 4 → s.landAt (t / 6) = some l →
    ((s.tile t).gen g).land = q :: rest → s.noteCells l t [q.addr] = some s0 →
    (badFe ((s.tile t).sram.sideAt q.addr).fe = false → s.watchArea l t q.addr = false →
      let s2 := (s0.setTile t ((s.tile t).setGen g { (s.tile t).gen g with land := rest })).putCells t
        [(q.addr, q.cell.data, q.cell.code)] (some q.cell.fe)
      ∃ u, exec (.landingWrite t g) s = .next u ∧ { u with ports := s2.ports } = s2 ∧ (∀ p, p ≠ q.p → u.port p = s2.port p) ∧
        { u.port q.p with cmds := (s2.port q.p).cmds } = s2.port q.p ∧
        (u.port q.p).cmds = (s2.port q.p).cmds.map (fun c => if c.id = q.id then { c with landed := c.landed + 1 } else c)) ∧
    (s.liveAt (t / 6) = some l →
      (badFe ((s.tile t).sram.sideAt q.addr).fe = true →
        ∃ u, exec (.landingWrite t g) s = .next u ∧ u.mem = s.mem ∧ u.faultMet l 0x11) ∧
      (badFe ((s.tile t).sram.sideAt q.addr).fe = false → s.watchArea l t q.addr = true →
        ∃ u, exec (.landingWrite t g) s = .next u ∧ u.mem = s.mem ∧ u.faultMet l 0x0E))) ∧
  (∀ (s s0 s1 : State) (p id t g pa : Nat) (l : Launch) (c : Cmd) (rest : List (Nat × Nat)),
    let r := c.record
    let a := crOff r (s.copyBase c t) c.next
    let x := (s.tile t).sram.cell a
    let fe := if crFe r = 0 then x.fe else if crFe r = 2 then 1 else 2
    let s2 := if crFe r = 3 then s1.putCells t [(a, x.data, x.code)] (some 1) else s1
    s.copies p id c.next l c → crDir r = true → c.tiles l p = (t, g) :: rest → x.fe = 1 ∨ x.fe = 2 →
    (crFe r = 3 → x.fe = 1 → ∃ u, exec (.copyTransfer p id) s = .next u ∧ { u with ports := s.ports } = s ∧
      u.cmd? p id = some { c with place := .unlisted s.fc }) ∧
    ((crFe r = 3 → x.fe = 2) → (if crFe r = 3 then s.noteCells l t [a] else some s) = some s0 →
      s0.engReaches s1 l p (crMem r c.next) true pa → s.feOk pa →
      (l.window = none → s1.writeHeld pa = false → s1.quiet pa) →
      ∃ u, exec (.copyTransfer p id) s = .next u ∧ u.strands = s.strands ∧ s2.otherTiles u t ∧
        u.cmd? p id = some { c with next := c.next + 1, landed := c.landed + 1 } ∧
        { u.tile t with bufs := (s2.tile t).bufs } = s2.tile t ∧
        (∀ b, b < 8 → (u.tile t).buf b = match c.slots with
          | k :: _ => if c.next + 1 = crCells r ∧ crCbuf r = true ∧ b = crBuf r
              then ((s2.tile t).buf b).slotEnded false (.cmd p id) k.2 else (s2.tile t).buf b
          | [] => (s2.tile t).buf b) ∧
        (l.window = none → u.launches = s.launches ∧ cellPut s.mem u.mem pa x.data x.code fe) ∧
        (l.window.isSome = true → s2.holds u l (.write p (crMem r c.next) { x with w := false } (some fe))))) ∧
  (∀ (s : State) (p id : Nat) (l : Launch) (c : Cmd), s.liveAt (p / 3) = some l → s.cmd? p id = some c → c.ended = false →
    c.next = crCells c.record →
    c.landed = (if crDir c.record then crCells c.record else crCells c.record * (c.tiles l p).length) →
    let r := c.record
    (crCbuf r = true → crDir r = false → c.drained = false → (c.slots.map (·.1)).Nodup →
      ∃ u, exec (.copyFinish p id) s = .next u ∧ { u with tiles := s.tiles, ports := s.ports } = s ∧
        u.cmd? p id = some { c with drained := true } ∧
        (∀ t, { u.tile t with bufs := (s.tile t).bufs } = s.tile t) ∧
        (∀ k ∈ c.slots, (u.tile k.1).buf (crBuf r) = ((s.tile k.1).buf (crBuf r)).slotEnded true (.cmd p id) k.2) ∧
        ∀ t b, b < 8 → (∀ k ∈ c.slots, k.1 ≠ t) ∨ b ≠ crBuf r → (u.tile t).buf b = (s.tile t).buf b) ∧
    (crCbuf r = false ∨ crDir r = true ∨ c.drained = true → s.slotsDone l p c = true →
      (∀ e rest, c.follow = e :: rest → s.inputRoom e (crChan r) = true →
        ∃ u, exec (.followStartToken p id) s = .next u ∧ s.onlyStreams u ∧ u.tiles = s.tiles ∧
          u.cmd? p id = some { c with follow := rest } ∧ (∀ j, j ≠ e → u.element j = s.element j) ∧
          u.element e = (s.element e).setInp (crChan r) { (s.element e).inp (crChan r) with
            wire := ((s.element e).inp (crChan r)).wire ++ [
              { data := 0, code0 := 0, code1 := 0, tag := 11, bank := BitVec.ofNat 2 (crBank r), fin := false,
                ver := l.ver, sw := false }] }) ∧
      (c.follow = [] → crDone r = 0 →
        ∃ u, exec (.copyFinish p id) s = .next u ∧ { u with ports := s.ports } = s ∧ (∀ q, q ≠ p → u.port q = s.port q) ∧
          u.cmd? p id = if l.window = none then none else some { c with ended := true }) ∧
      (∀ s1 pa, c.follow = [] → crDone r ≠ 0 → s.engReaches s1 l p (crDone r) true pa →
        (l.window = none → pa % 32 = 0 → s.feOk pa → s.cleanAt pa → s1.quiet pa → s1.writeHeld pa = false →
          (s.countAt pa = 1 → s.plainCell l.job (crDone r)) →
          ∃ u, exec (.copyFinish p id) s = .next u ∧ s.counted u pa 0 ∧ u.cmd? p id = none ∧ u.tiles = s.tiles) ∧
        (l.window.isSome = true →
          ∃ u, exec (.copyFinish p id) s = .next u ∧ s1.holds u l (.dec p (crDone r)) ∧ u.tiles = s.tiles ∧
            u.cmd? p id = some { c with ended := true }))))

/-- 09 R150: a history command writes the record of its values, with codes of its own, and leaves the new references in the
tile; under FE 3 its source cells become empty. An uncorrectable source or reference is a fault, and nothing is written. -/
def Obligations.HistoryRecords : Prop :=
  (∀ (s s3 s4 : State) (p id t g : Nat) (l : Launch) (c : Cmd) (rest : List (Nat × Nat)),
    let r := c.record
    let m := (s.tile t).sram
    let src := (List.range (crCells r)).map (crOff r (s.copyBase c t))
    let refs := (List.range ((4 * crValues r + 31) / 32)).map (fun n => crHref r + 32 * n)
    let F := if crHfmt r = 1 then FloatFmt.f64 else FloatFmt.f32
    let x (i : Nat) : Val := F.value ((cellLanes F.width (src.map (fun a => (m.cell a).data))).getD i 0)
    let old (i : Nat) : BitVec 32 := BitVec.ofNat 32 (m.nat (crHref r + 4 * i) 4)
    let h (i : Nat) : Hist := histValue (FloatFmt.f32.value (crBeta r)) (x i) (old i)
    s.hasTurn p id l c c.todo → crHist r = true → c.tiles l p = (t, g) :: rest → crHref r % 32 = 0 →
    (∀ a ∈ src ++ refs, badFe (m.sideAt a).fe = false) → (crFe r = 3 → ∀ a ∈ src, (m.sideAt a).fe = 2) →
    (∀ a ∈ refs, s.watchArea l t a = false) → crValues r = crCells r * 256 / F.width →
    ((∀ a ∈ src ++ refs, (m.cell a).code = gen (m.cell a).data) → (crCbuf r = false → c.slots = []) →
      s.noteCells l t (refs ++ (if crFe r = 3 then src else [])) = some s3 →
      s3.histWrite l p (crComp r) (if crFe r = 0 then none else if crFe r = 2 then some 1 else some 2) (crVa r)
        (histRecord r ((List.range (crValues r)).map h)) = .done s4 → s4.tiles = s.tiles → s4.cmd? p id = some c →
      ∃ u, exec (.historyCompress p id) s = .next u ∧ u.mem = s4.mem ∧ u.strands = s4.strands ∧ s.otherTiles u t ∧
        u.cmd? p id = some { c with next := crCells r, landed := crCells r } ∧
        (∀ i, i < crValues r → (u.tile t).sram.nat (crHref r + 4 * i) 4 = (BitVec.ofInt 32 (h i).n).toNat) ∧
        (∀ a ∈ refs, ((u.tile t).sram.cell a).code = gen ((u.tile t).sram.cell a).data) ∧
        (∀ b, b < crHref r ∨ crHref r + 4 * crValues r ≤ b → (u.tile t).sram.byte b = m.byte b) ∧
        (∀ b, ((u.tile t).sram.sideAt b).fe =
          if crFe r = 3 ∧ src.any (fun a => a / 32 == b / 32) = true then 1 else (m.sideAt b).fe) ∧
        ∀ b, b < 8 → (u.tile t).buf b = match c.slots with
          | k :: _ => if b = crBuf r then ((s.tile t).buf b).slotEnded false (.cmd p id) k.2 else (s.tile t).buf b
          | [] => (s.tile t).buf b) ∧
    ((∃ a ∈ src ++ refs, (check (m.cell a).data (m.cell a).code).data? = none) →
      ∃ u, exec (.historyCompress p id) s = .next u ∧ u.mem = s.mem ∧ u.faultMet l 0x03)) ∧
  (∀ (s t : State) (l : Launch) (p va pa : Nat) (comp : Bool) (fe : Option (BitVec 2)) (d : CellData) (ds : List CellData),
    s.launch? l.id = some l → va < 2 ^ 64 → s.engReaches t l p va true pa → s.feOk pa →
    s.histWrite l p comp fe va [] = .done s ∧
    (l.window = none → t.writeHeld pa = false → t.quiet pa →
      ∃ u : State, s.histWrite l p comp fe va (d :: ds) = u.histWrite l p comp fe (va + 32) ds ∧ u.tiles = s.tiles ∧
        u.strands = s.strands ∧ u.cmd? p = s.cmd? p ∧ cellPut s.mem u.mem pa d (gen d) (fe.getD (s.mem.sideAt pa).fe)) ∧
    (l.window.isSome = true →
      ∃ u : State, s.histWrite l p comp fe va (d :: ds) = u.histWrite l p comp fe (va + 32) ds ∧ u.tiles = s.tiles ∧
        t.holds u l (.write p va { data := d, fe := 2, w := false, code := gen d } fe))) ∧
  (∀ (beta : Val) (b : Bool) (n d : Nat) (ref : BitVec 32), (∃ i j, beta = .num false i j ∧ 0 < i ∧ 0 < j) →
    let v := histN beta (.num b n d)
    (histValue beta (.num b n d) ref).n = v ∧ (histValue beta (.num b n d) ref).d = BitVec.ofInt 32 v - ref ∧
    (histValue beta (.num b n d) ref).nonfin = false ∧ (histValue beta .nan ref).n = 0 ∧
    (histValue beta .nan ref).nonfin = true ∧ (histValue beta (.inf b) ref).n = (if b then -(2 ^ 30 - 1) else 2 ^ 30 - 1) ∧
    (histValue beta (.inf b) ref).sat = true) ∧
  (∀ (r : Line) (hs : List Hist), hs.length < 2 ^ 31 →
    let n := hs.length
    let m := hs.countP (fun h => h.d != 0)
    ∃ h rest, histRecord r hs = h :: rest ∧ (h :: rest).length = 1 + (n + 255) / 256 + (m + 7) / 8 ∧
      h.toNat = n + 2 ^ 32 * m + 2 ^ 64 * crBeta r + 2 ^ 96 * (h :: rest).length + 2 ^ 128 * crHfmt r +
        2 ^ 136 * ((if hs.any (·.sat) then 1 else 0) + (if hs.any (·.nonfin) then 2 else 0)) ∧
      ∀ i v, hs[i]? = some v → (rest.getD (i / 256) 0).getLsbD (i % 256) = (v.d != 0))

/-- 14 R221 to R223 and 09 R149: a multicast with a GROUP sends a request for the cells of each granule to its home slice, where
it joins the running merge group of its key from the next line on, opens one, or leaves the cells to the command; a group sends
its next cell to the landing generators of the members that take it; a group's window closes after 64 sc, and the group goes
once it has sent everything. -/
def Obligations.MulticastMerging : Prop :=
  (∀ (s s1 : State) (p id : Nat) (l : Launch) (c : Cmd) (cells : List (Nat × Nat)) (own : List Nat),
    let ns := List.range (crCells c.record)
    s.hasTurn p id l c c.todo → c.mcast = true → crGroup c.record ≠ 0 → c.fetch = none →
    s.locate l p c.record ns = .found cells own s1 →
    (¬(ns.map (crOff c.record 0)).Nodup →
      exec (.multicastRequest p id) s = .next (s1.modCmd p id (fun y => { y with fetch := some ns }))) ∧
    ((ns.map (crOff c.record 0)).Nodup → exec (.multicastRequest p id) s =
      .next (((cells.map (fun q => q.2 / 8192)).eraseDups).foldl (fun t g =>
        t.mergeRequest l p c (((cells.find? (fun q => q.1 == 0)).map (·.2)).getD 0)
          (sortCells (cells.filter (fun q => q.2 / 8192 == g))))
        (s1.modCmd p id (fun y => { y with fetch := some own }))))) ∧
  (∀ (s : State) (l : Launch) (p : Nat) (r : Line) (ns : List Nat) (f : Nat → Nat),
    (∀ n ∈ ns, s.engAcc l p (crMem r n) false = (.ok (f n), s)) →
    s.locate l p r ns = .found (ns.map (fun n => (n, f n))) [] s) ∧
  (∀ cs : List (Nat × Nat), (sortCells cs).Perm cs ∧ (sortCells cs).Pairwise (fun x y => x.2 ≤ y.2)) ∧
  (∀ (s : State) (p first : Nat) (l : Launch) (c : Cmd) (cells : List (Nat × Nat)),
    let h := homeOf ((cells.headD (0, 0)).2)
    let x := (s.slice h).merges
    let u := s.mergeRequest l p c first cells
    (∀ i m, x[i]? = some m → s.mergesWith m l c.record first cells → x.Nodup →
      (∀ k ∈ x, s.mergesWith k l c.record first cells → k = m) → m.sent ≤ m.cells.length →
      ∃ k, nextLine cells m.sent k ∧ { u with slices := s.slices } = s ∧ (∀ j, j ≠ h → u.slice j = s.slice j) ∧
        u.slice h = { s.slice h with
          merges := x.set i { m with who := m.who ++ [{ p := p, id := c.id, start := k, got := 0 }] } }) ∧
    ((∀ k ∈ x, ¬s.mergesWith k l c.record first cells) →
      (x.length < 16 → { u with slices := s.slices } = s ∧ (∀ j, j ≠ h → u.slice j = s.slice j) ∧
        u.slice h = { s.slice h with merges := x ++ [
          { job := l.job, group := BitVec.ofNat 24 (crGroup c.record), va := crVa c.record, pa := first,
            shape := crShape c.record, cells := cells, opened := s.fc, isOpen := true, sent := 0,
            who := [{ p := p, id := c.id, start := 0, got := 0 }] }] }) ∧
      (16 ≤ x.length → u = s.modCmd p c.id (fun y => { y with fetch := y.fetch.map (· ++ cells.map (·.1)) })))) ∧
  (∀ (s : State) (h k i n pa : Nat) (g g' : Merge) (js : List Joiner),
    let ts := js.filterMap s.member
    (s.slice h).merges[k]? = some g → (s.slice h).merges.Nodup → g.sends i js g' → g.cells[i]? = some (n, pa) →
    ts.length = js.length → (js.map (fun j => (j.p, j.id))).Nodup →
    (∀ q ∈ ts, (q.2.2.tiles q.2.1 q.1.p).Nodup ∧
      ∀ d ∈ q.2.2.tiles q.2.1 q.1.p, d.2 < 4 ∧ ((s.tile d.1).gen d.2).land.length < 4) →
    s.feOk pa → s.hasRoom pa →
    ∃ u, exec (.multicastLineSend h k) s = .next u ∧ u.mem = s.mem ∧ u.strands = s.strands ∧ u.launches = s.launches ∧
      (∀ q ∈ ts, u.cmd? q.1.p q.1.id = some { q.2.2 with next := q.2.2.next + 1 }) ∧
      (u.slice h).merges = (s.slice h).merges.set k g' ∧
      ∀ t f, f < 4 → ((u.tile t).gen f).land = ((s.tile t).gen f).land ++
        (ts.filter (fun q => (q.2.2.tiles q.2.1 q.1.p).contains (t, f))).map (fun q =>
          { p := q.1.p, id := q.2.2.id, addr := crOff q.2.2.record (s.copyBase q.2.2 t) n,
            cell := { s.mem.cell pa with fe := copyFe (crFe q.2.2.record) (s.mem.sideAt pa).fe } })) ∧
  (∀ (s : State) (h n : Nat) (g : Merge), (s.slice h).merges[n]? = some g →
    (g.isOpen = true → g.opened + 128 ≤ s.fc →
      ∃ u, exec (.mergeWindowExpire h n) s = .next u ∧ { u with slices := s.slices } = s ∧
        (∀ k, k ≠ h → u.slice k = s.slice k) ∧
        { u.slice h with merges := (s.slice h).merges } = s.slice h ∧
        (u.slice h).merges = (s.slice h).merges.set n { g with isOpen := false }) ∧
    (g.cells.length ≤ g.sent → (∀ j ∈ g.who, j.start ≤ j.got) → g.isOpen = false ∨ g.opened + 128 ≤ s.fc →
      ∃ u, exec (.multicastLineSend h n) s = .next u ∧ { u with slices := s.slices } = s ∧
        (∀ k, k ≠ h → u.slice k = s.slice k) ∧
        u.slice h = { s.slice h with merges := (s.slice h).merges.eraseIdx n }))

/-- 23 R336 to R339, R346 and 18 R271: the host's writes, fills and reads of cells of a job's heap, in order, a write to the end
of a cell at a time; a write without the right, and a fill that does not fit a cell, are discarded; the wait slots; and the
reads of a control window, which a barred function gets as 0 and CW_SCAN as the PF's stream of a frozen module. -/
def Obligations.HostAccesses : Prop :=
  (∀ (s : State) (f pa : Nat) (o : BitVec 41) (d : List Byte),
    let va := ((s.func f).membase.toNat + o.toNat) % 2 ^ 52
    0 < d.length → (s.func f).posted = [] →
    (va % 32 + d.length ≤ 32 → s.hostReaches f va 2 pa → s.cleanAt pa → s.quiet pa →
      (s.writeHeld pa = false →
        (s.feOk pa → ∃ t, exec (.hostMemoryWrite f o d) s = .next t ∧ s.hostKept t ∧
          s.stored t pa d.length (littleEndian d) (s.mem.sideAt pa).fe) ∧
        ((s.mem.sideAt pa).fe = 1 → ∃ t, exec (.hostFillWrite f o d) s = .next t ∧ s.hostKept t ∧
          s.stored t pa d.length (littleEndian d) 2) ∧
        ((s.mem.sideAt pa).fe = 2 → ∃ t, exec (.hostFillWrite f o d) s = .next t ∧ t.mem = s.mem ∧
          t.func f = { s.func f with posted := [{ va := va, bytes := d, fill := true, place := .table (homeOf pa) }] } ∧
          (t.slice (homeOf pa)).waits = [{ pa := pa / 32 * 32, va := va, who := .fill f, kind := 2 }])) ∧
      (s.writeHeld pa = true → s.feOk pa →
        ∃ t, exec (.hostMemoryWrite f o d) s = .next t ∧ t.mem = s.mem ∧ t.func f = { s.func f with
          posted := [{ va := va, bytes := d, fill := false, place := .none }] })) ∧
    (va % 32 + d.length ≤ 32 → s.hostReaches f va 0 pa → s.access (homeOf pa) (256 + f) < 2 →
      ∃ t, exec (.hostMemoryWrite f o d) s = .next t ∧ exec (.hostFillWrite f o d) s = .next t ∧ t.mem = s.mem ∧
        t.strands = s.strands ∧ t.func f = { s.func f with werr := true } ∧ ∀ g, g ≠ f → t.func g = s.func g) ∧
    (32 < va % 32 + d.length → d.length ≤ 512 → f ≤ 192 →
      ∃ t, exec (.hostFillWrite f o d) s = .next t ∧ t.mem = s.mem ∧ t.strands = s.strands ∧
        t.func f = { s.func f with werr := true } ∧ ∀ g, g ≠ f → t.func g = s.func g)) ∧
  (∀ (s : State) (f pa : Nat) (o : BitVec 41) (d e : List Byte),
    let va := ((s.func f).membase.toNat + o.toNat) % 2 ^ 52
    (s.func f).posted = [] → 0 < d.length → va % 32 + d.length = 32 → 0 < e.length → (d ++ e).length ≤ 512 →
    va + 32 < 2 ^ 52 → o.toNat + d.length < 2 ^ 41 → s.hostReaches f va 2 pa → s.cleanAt pa → s.quiet pa →
    s.writeHeld pa = false → s.feOk pa →
    ∃ t, exec (.hostMemoryWrite f o d) s = .next t ∧
      exec (.hostMemoryWrite f o (d ++ e)) s = exec (.hostMemoryWrite f (o + BitVec.ofNat 41 d.length) e) t) ∧
  (∀ (s : State) (f : Nat) (o : BitVec 41) (d : List Byte),
    let va := ((s.func f).membase.toNat + o.toNat) % 2 ^ 52
    f ≤ 192 → d.length ≤ 512 → (s.func f).posted ≠ [] →
    ∀ fill, ∃ t, exec (if fill then .hostFillWrite f o d else .hostMemoryWrite f o d) s = .next t ∧
      { t with funcs := s.funcs } = s ∧ (∀ g, g ≠ f → t.func g = s.func g) ∧ t.func f = { s.func f with
        posted := (s.func f).posted ++ [{ va := va, bytes := d, fill := fill, place := .none }] }) ∧
  (∀ (s : State) (f pa n : Nat) (o : BitVec 41),
    let va := ((s.func f).membase.toNat + o.toNat) % 2 ^ 52
    f ≤ 192 → n ≤ 4096 →
    ((s.func f).posted = [] → s.dv.frozen = false → pa = (va + (s.xrecOf f).hoff) % 2 ^ 44 → pa % 32 = va % 32 →
      va + n ≤ 2 ^ 52 → pa + n ≤ 2 ^ 44 → s.noWaiters →
      (∀ i, i < n → (s.xrecOf f).inHeap (va + i) = true ∧ 1 ≤ s.access (homeOf (pa + i)) (256 + f) ∧ s.feOk (pa + i) ∧
        s.cleanAt (pa + i)) →
      ∃ t, exec (.hostMemoryRead f o n) s = .next t ∧ t.mem = s.mem ∧ t.strands = s.strands ∧
        t.func f = { s.func f with reads := (s.func f).reads ++ [
          .data ((List.range n).map (fun i => s.mem.byte (pa + i))) false] } ∧ ∀ g, g ≠ f → t.func g = s.func g) ∧
    ((s.func f).posted ≠ [] → s.dv.frozen = false → exec (.hostMemoryRead f o n) s = .next s)) ∧
  (∀ (s : State) (f n : Nat) (o : BitVec 41), f ≤ 192 →
    ∃ t, exec (.hostFillRead f o n) s = .next t ∧ { t with funcs := s.funcs } = s ∧
      (s.dv.frozen = true ∨ 4096 < n → exec (.hostMemoryRead f o n) s = .next t) ∧
      t.func f = { s.func f with reads := (s.func f).reads ++ [.unsupported] } ∧ ∀ g, g ≠ f → t.func g = s.func g) ∧
  (∀ (s : State) (f n pa : Nat) (v : Word64),
    let va : BitVec 52 := v.extractLsb' 0 52 &&& ~~~31
    n < 16 → 2 ≤ s.access (1080 + f) (256 + f) → ((s.func f).slot n).place = .none → s.hostReaches f va.toNat 1 pa →
    s.cleanAt pa →
    ((s.mem.sideAt pa).fe = 2 → ∃ t, exec (.cwWaitArm f n v) s = .next t ∧
      s.waitOver t f n va (BitVec.ofNat 64 (s.mem.nat pa 8))) ∧
    ((s.mem.sideAt pa).fe = 1 → (s.slice (homeOf pa)).waits.length < 64 → s.hasRoom pa →
      ∃ t, exec (.cwWaitArm f n v) s = .next t ∧
        (t.func f).slot n = { va := va, armed := true, place := .table (homeOf pa), value := ((s.func f).slot n).value } ∧
        (t.slice (homeOf pa)).waits = (s.slice (homeOf pa)).waits ++ [
          { pa := pa, va := va.toNat, who := .host f n, kind := 0 }] ∧ t.mem = s.mem ∧ t.strands = s.strands)) ∧
  (∀ (s : State) (f n pa : Nat),
    let w := (s.func f).slot n
    n < 16 → w.armed = true →
    w.place = .none ∨ w.place = .woken none ∨ (∃ t, w.place = .unlisted t ∧ t + 512 ≤ s.fc) → w.va.toNat % 32 = 0 →
    s.hostReaches f w.va.toNat 1 pa → s.cleanAt pa → (s.mem.sideAt pa).fe = 2 →
    ∃ t, exec (.cwWaitComplete f n) s = .next t ∧ s.waitOver t f n w.va (BitVec.ofNat 64 (s.mem.nat pa 8))) ∧
  (∀ (s : State) (f off : Nat), f ≤ 192 → off % 8 = 0 → off < 2 ^ 16 →
    let u := s.readWindow f off
    let x := s.func f
    let scan : Prop := 1 ≤ s.access (1080 + f) (256 + f) ∧ 0x8000 ≤ off ∧ f = 0 ∧ s.dv.frozen = true
    ∃ v, { u with funcs := s.funcs, dv := s.dv } = s ∧ (∀ g, g ≠ f → u.func g = s.func g) ∧
      { u.dv with scanPos := s.dv.scanPos } = s.dv ∧ u.dv.scanPos = s.dv.scanPos + (if scan then 8 else 0) ∧
      u.func f = { x with reads := x.reads ++ [.data ((List.range 8).map (fun i => BitVec.ofNat 8 (v / 256 ^ i))) false] } ∧
      (s.access (1080 + f) (256 + f) = 0 → v = 0) ∧
      (1 ≤ s.access (1080 + f) (256 + f) →
        (off = 0 → v = 257 * f) ∧
        (off = 0x0008 → v = 4 * x.werr.toNat + 2 * s.dv.frozen.toNat + s.dv.readyBit.toNat) ∧
        (off = 0x0010 → v = x.membase.toNat) ∧
        (∀ n, n < 16 → off = 0x0100 + 16 * n → (x.slot n).va.toNat % 2 = 0 →
          v = (x.slot n).va.toNat + (x.slot n).armed.toNat) ∧
        (∀ n, n < 16 → off = 0x0108 + 16 * n → v = (x.slot n).value.toNat) ∧
        (off = 0x1000 ∨ off = 0x2000 → v = 0) ∧ (off = 0x1008 → v = if f = 0 then s.dv.hostCap.toNat else 0) ∧
        (0x4000 ≤ off → off < 0x8000 → v = littleEndian ((x.report.drop (off - 0x4000)).take 8)) ∧
        (0x8000 ≤ off → ¬scan → v = 0) ∧ (scan → v = littleEndian ((s.scanBytes.drop s.dv.scanPos).take 8))))

/-- 23 R337, R338, R341 to R346, R348 and 02 R32: resets, firmware, freezing, the power limit and the power governor, the
nonce of a report, the reset of a virtual function, and a unit that fails. The fabric clock goes on through a warm reset,
which is the model's choice (log 3). -/
def Obligations.ModuleControl : Prop :=
  (∀ (s : State), ∃ t, exec (.cwControlWarmReset 0 0x5A) s = .next t ∧ exec .pfHotReset s = .next t ∧
    t = { State.reset with
      fc := s.fc, turns := s.turns, freeCount := s.freeCount, launchNo := s.launchNo, mem := s.backing, trub := s.trub,
      dv := { Device.reset with fused := s.dv.fused, resetAt := s.fc, wiped := s.dv.wiped } } ∧
    ((∀ x ∈ s.slices, ∀ y ∈ x.2.lines, y.back = []) → s.backing = s.mem)) ∧
  (∀ (s : State), exec .coldReset s = .next
      { State.reset with turns := s.turns, freeCount := s.freeCount, dv := { Device.reset with fused := s.dv.fused } }) ∧
  (∀ (s : State), exec (.cwControlFreeze 0 0x5A) s = .next { s with dv := { s.dv with frozen := true } }) ∧
  (∀ (s : State) (f img : Nat) (key : BitVec 56), f ≠ 0 ∨ key ≠ 0x5A →
    exec (.cwControlWarmReset f key) s = .next s ∧ exec (.cwControlFreeze f key) s = .next s ∧
    exec (.cwControlBoot f key img) s = .next s) ∧
  (∀ (s : State) (img : Nat), ∃ t, exec (.cwControlBoot 0 0x5A img) s = .next t ∧
    (s.imageOk img = false → { t with trub := s.trub } = s) ∧
    (s.imageOk img = true → t.dv.fused = BitVec.ofNat 64 (s.mem.nat (img + 8) 8) ∧ t.dv.fwVer = t.dv.fused ∧
      t.dv.fwDigest = BitVec.ofNat 256 (s.mem.nat (img + 16) 32) ∧ t.dv.readyBit = true ∧ t.dv.wiped = true ∧
      t.mem = (if s.dv.wiped = true then s.mem else { bytes := [], side := [] }) ∧
      (∀ u x c, u ∈ t.service → unitAbs u.toNat = some x → x.cluster = some c → c < 144 →
        (t.cluster c).present.getLsbD x.needBit = false) ∧
      (∀ c, c < 144 → (t.cluster c).budgetDue = some 3072) ∧
      (∀ k, superStrand k = true → (t.strand k).mode = .ready ∧ (t.strand k).priv = true ∧ (t.strand k).pc &&& 3 = 0 ∧
        ∀ r, (t.strand k).reg r = 0) ∧
      ∀ k, superStrand k = false → t.strand k = s.strand k)) ∧
  (∀ (s : State) (cap : BitVec 16), exec (.cwPowercapWrite 0 cap) s =
    .next { s with dv := { s.dv with hostCap := cap, powerCap := BitVec.ofNat 16 (max 600 (min 3600 cap.toNat)) } }) ∧
  (∀ (s : State), s.dv.readyBit = true → s.dv.tick < s.cycle / 4000000 → ∃ t, exec .powerGovernorTick s = .next t ∧
    let T := t.dv.powerTemp.toNat
    let W := t.dv.powerMeas.toNat
    let cap := s.dv.powerCap.toNat
    let b := ((s.cluster 0).budgetDue.getD (s.cluster 0).budget).toNat
    t.dv.powerCap = s.dv.powerCap ∧ t.dv.tick = s.cycle / 4000000 ∧ (t.dv.hot = true ↔ 60 * 16 < T ∨ s.dv.hot = true ∧ 55 * 16 ≤ T) ∧
    (t.dv.frozen = true ↔ s.dv.frozen = true ∨ 70 * 16 ≤ T) ∧ t.mem = s.mem ∧ t.strands = s.strands ∧
    ∀ c, c < 144 → (t.cluster c).budgetDue = some (BitVec.ofNat 12 (min 3072
      (if t.dv.hot then 0 else if cap < W then b - 64 else if W + 100 < cap then b + 16 else b)))) ∧
  (∀ (s : State) (f : Nat) (nonce : BitVec 256), f ≤ 192 → 2 ≤ s.access (1080 + f) (256 + f) →
    ∃ t, exec (.cwAttnonceWrite f nonce) s = .next t ∧ { t with funcs := s.funcs, freeCount := s.freeCount } = s ∧
      (∀ g, g ≠ f → t.func g = s.func g) ∧ (t.func f).nonce = nonce ∧
      (s.dv.readyBit = false → t.func f = { s.func f with nonce := nonce }) ∧
      (s.dv.readyBit = true → ∃ sig, (t.func f).report = s.reportBody f nonce ++ sig)) ∧
  (∀ (s : State) (f : Nat), 1 ≤ f → f ≤ 192 → ∃ t, exec (.vfFlr f) s = .next t ∧ (t.job f).cancel = true ∧
    ∀ n, n < 16 → ((t.func f).slot n).armed = false) ∧
  (∀ (s : State) (u : BitVec 16) (x : UnitRef), unitAbs u.toNat = some x →
    ∃ t, exec (.unitFailure u) s = .next t ∧
      t.service = s.service ++ [x.abs] ∧ (∀ n, x = .tile n → (t.tile n).failed = true) ∧
      (s.holderOf x = none → ∃ e, (t.ring x.die).entries.getLast? = some e ∧ e.kind = 5 ∧ e.unit = u ∧ e.code = 0x13) ∧
      (∀ c, x.cluster = some c → (∀ a b, x ≠ .seam a b) → s.ownerOf c = none → (t.cluster c).present.getLsbD x.needBit = false) ∧
      ∀ l, s.holderOf x = some l → l.halted = false → (∀ n, x = .tile n → (s.tile n).watch = []) →
        ∃ y, t.launch? l.id = some y ∧ y.halted = true ∧ y.status.getLsbD 1 = true)

/-- 23 R349 to R352 and 03 R56: a portal's requests, replies and their status, a FADD that was performed setting FPUNSEQ, its PUT
runs, and the requests of a peer. What a host or peer answers, and whether one that did not answer performed a FADD, are free
values (log 10). -/
def Obligations.Portals : Prop :=
  (∀ (s : State) (p : Nat) (l : Launch) (q : Portal), s.portalIs p l q →
    (∀ t rest, q.wire = t :: rest → q.word.toNat % 16 ≠ 11 → q.reqs.length < 64 → t.fin = false → t.sw = false → t.tag = 12 →
      codesFit t.data t.code0 t.code1 →
      ∃ u, exec (.portalRequest p) s = .next u ∧ { u with ports := s.ports } = s ∧
        u.port p = { s.port p with portal := some { q with wire := rest, reqs := q.reqs ++ [
          { tok := t, sent := s.fc, reply := none }] } } ∧ ∀ r, r ≠ p → u.port r = s.port r) ∧
    (∀ i r, q.waiting i r → s.forkRoom l (l.replyFork p) = false →
      (∃ u v st, exec (.portalReply p) s = .next u ∧ st ≠ 2 ∧
        { u with ports := s.ports, freeCount := s.freeCount, launches := s.launches } = s ∧
        u.launches = s.launches.map (fun y => if y.id = l.id ∧ q.word.toNat % 16 = 9 ∧ st = 0
          then { y with status := y.status ||| 8 } else y) ∧
        u.port p = { s.port p with portal := some { q with reqs := q.reqs.set i { r with reply := some (v, st) } } } ∧
        (q.word.getLsbD 4 = false → v.toNat < 2 ^ 32)) ∧
      (r.sent + 200000000 ≤ s.fc → ∃ (u : State) (v : Word64) (b : Bool), exec (.portalTimeout p) s = .next u ∧
        { u with ports := s.ports, freeCount := s.freeCount, launches := s.launches } = s ∧
        u.launches = s.launches.map (fun y => if y.id = l.id ∧ q.word.toNat % 16 = 9 ∧ b = true
          then { y with status := y.status ||| 8 } else y) ∧
        u.port p = { s.port p with portal := some { q with reqs := q.reqs.set i { r with reply := some (v, 2) } } })) ∧
    (∀ r rest v st, q.reqs = r :: rest → r.reply = some (v, st) → (∀ x ∈ q.reqs, x.reply.isSome = true) →
      s.forkRoom l (l.replyFork p) = true →
      ∃ u, exec (.portalReply p) s = .next u ∧
        u = (s.setPort p { s.port p with portal := some { q with reqs := rest } }).forkPush l (l.replyFork p)
          { data := BitVec.ofNat 512 (v.toNat + 2 ^ 64 * st.toNat), code0 := gen (BitVec.ofNat 256 (v.toNat + 2 ^ 64 * st.toNat)),
            code1 := gen 0, tag := 12, bank := 0, fin := false, ver := l.ver, sw := false }) ∧
    (∀ t rest, q.wire = t :: rest → q.word.toNat % 16 = 11 →
      (t.fin = false → t.sw = false → ∃ u st, exec (.portalPutData p) s = .next u ∧
        { u with ports := s.ports, freeCount := s.freeCount } = s ∧ (∀ r, r ≠ p → u.port r = s.port r) ∧
        u.port p = { s.port p with portal := some { q with wire := rest, count := q.count + 1, worst := st } } ∧
        q.worst ≤ st) ∧
      (t.fin = true → s.forkRoom l (l.replyFork p) = true → ∃ u, exec (.portalPutMarker p) s = .next u ∧
        u = (s.setPort p { s.port p with portal := some { q with wire := rest, count := 0, worst := 0 } }).forkPush l
          (l.replyFork p)
          { data := BitVec.ofNat 512 (q.count % 2 ^ 64 + 2 ^ 64 * q.worst.toNat),
            code0 := gen (BitVec.ofNat 256 (q.count % 2 ^ 64 + 2 ^ 64 * q.worst.toNat)), code1 := gen 0, tag := 12, bank := 0,
            fin := false, ver := l.ver, sw := false }))) ∧
  (∀ (s : State) (u job pa op : Nat) (dbl : Bool) (va b c : Word64),
    let n := if dbl then 8 else 4
    u < 16 → 1 ≤ job → job ≤ 192 → op ≤ 10 → va.toNat % n = 0 → (s.xrecOf job).inHeap va.toNat = true →
    va.toNat < 2 ^ 52 → pa = (va.toNat + (s.xrecOf job).hoff) % 2 ^ 44 → pa % 32 = va.toNat % 32 →
    3 ≤ s.access (homeOf pa) (512 + u) → s.feOk pa → s.writeHeld pa = false → s.cleanAt pa → s.hasRoom pa →
    ∃ t, exec (.peerRequest u (.atomic job op dbl va b c)) s = .next t ∧ s.hostKept t ∧
      s.stored t pa n (let x := s.mem.nat pa n; let y := b.toNat % 256 ^ n
        match op with
        | 0 => (x + y) % 256 ^ n
        | 1 => x &&& y
        | 2 => x ||| y
        | 3 => x ^^^ y
        | 4 => if (BitVec.ofNat (8 * n) y).slt (BitVec.ofNat (8 * n) x) then y else x
        | 5 => if (BitVec.ofNat (8 * n) x).slt (BitVec.ofNat (8 * n) y) then y else x
        | 6 => min x y
        | 7 => max x y
        | 8 => y
        | 9 => elementSum (if dbl then 1 else 0) x y
        | _ => if x = c.toNat % 256 ^ n then y else x) (s.mem.sideAt pa).fe) ∧
  (∀ (s : State) (u job pa : Nat) (va : Word64) (d0 d1 : CellData) (c0 c1 : BitVec 28) (fill : Bool),
    u < 16 → 1 ≤ job → job ≤ 192 → va.toNat % 64 = 0 → va.toNat + 64 ≤ 2 ^ 52 → (s.xrecOf job).inHeap va.toNat = true →
    (s.xrecOf job).inHeap (va.toNat + 32) = true → pa = (va.toNat + (s.xrecOf job).hoff) % 2 ^ 44 → pa % 64 = 0 →
    2 ≤ s.access (homeOf pa) (512 + u) → 2 ≤ s.access (homeOf (pa + 32)) (512 + u) → s.feOk pa → s.feOk (pa + 32) →
    s.writeHeld pa = false → s.writeHeld (pa + 32) = false → s.quiet pa → s.quiet (pa + 32) →
    (∀ a, s.dv.jobtab.toNat + 64 * job ≤ a → a < s.dv.jobtab.toNat + 64 * job + 48 → a / 64 ≠ pa / 64) →
    ∃ t m, exec (.peerRequest u (.put job va d0 d1 c0 c1 fill)) s = .next t ∧ s.hostKept t ∧
      cellPut s.mem m pa d0 c0 (if fill then 2 else (s.mem.sideAt pa).fe) ∧
      cellPut m t.mem (pa + 32) d1 c1 (if fill then 2 else (s.mem.sideAt (pa + 32)).fe))

/-- 04 to 09: words written out in the spec decode to the instructions they stand for. -/
def Obligations.SpecWordsDecode : Prop :=
  decode (bytesOf 0x78A00005) = .ok (.mfc 5 5, []) ∧ decode (bytesOf 0x7C050004) = .ok (.mtc 5 4, []) ∧
  decode (bytesOf 0x0C000001) = .ok (.jal 1, []) ∧ decode (bytesOf 0x40BF0040) = .ok (.addI 5 31 0x40, []) ∧
  decode (bytesOf 0x00C32005) = .ok (.div 6 3 4, []) ∧ decode (bytesOf 0x15000002) = .ok (.bne 8 0 2, []) ∧
  decode (bytesOf 0x94000005) = .ok (.trap 5, []) ∧ decode (bytesOf 0xD0000000) = .ok (.rett, []) ∧
  decode (bytesOf 0xC4074005) = .ok (.scopy 7 8, []) ∧ decode (bytesOf 0xC5A00002) = .ok (.confWait 13, []) ∧
  decode (bytesOf 0xC40C5804) = .ok (.sbind 12 11, []) ∧ decode (bytesOf 0xC4000003) = .ok (.sparge, []) ∧
  decode (bytesOf 0xFFFFFFFE ++ bytesOf 0x40A07960) = .ok (.xiPrefix 0x3FFFFFE 0x40A07960, []) ∧
  decodeSlot 0x330C8300 = .ok (.cvt 3 { trig := 12, dst := 4, srcA := 3, srcB := 0, deqA := false, deqB := false, bit0 := false }) ∧
  decodeSlot 0x1F9D21F0 = .ok (.pcmplt { trig := 7, dst := 9, srcA := 1, srcB := 30, deqA := false, deqB := false, bit0 := false })

/-- 04 R56 to R66, R77 and 05 R78 to R84: every well-formed instruction that has a word is read back from its own words,
with every operand at every value. -/
def Obligations.DecodeUndoesEncode : Prop := ∀ i : Instr, Laws.Enc.Statement i

/-- 04 R58 and R77: an accepted word is the encoding of the instruction it decodes to, so no instruction has two words and no
word that sets a bit its instruction does not use is accepted. -/
def Obligations.NoInstructionHasTwoWords : Prop :=
  (∀ (w : Word32) (i : Instr), decodeWord w = .ok i → encode i = [w]) ∧
  (∀ (w : Word32) (i : Instr), decodeSlot w = .ok i → encode i = [w])

/-- 06 R87, R88, 04 R61 to R63, R77 and 07 R113: a step in which a strand issues runs the instruction that its word, or its
pair, decodes to, after the fetch; a word that decodes to none, and a fetch that fails, run their traps. A step in which an
element has one eligible slot fires it. A step whose turn is an event runs it, and one whose turn is the host's read of a
control window reads it. A frozen module's other steps do nothing (23 R346). -/
def Obligations.StepRunsTheDecodedInstruction : Prop :=
  (∀ (s s1 : State) (c i : Nat) (home : Bool) (rest : List Turn) (w : Word32), s.issues c i home rest →
    let s0 := s.atIssue c i home rest
    s0.fetchWord s0.cur.pc = (.word w, s1) →
    (∀ ins, w.extractLsb' 26 6 ≠ 0x3F → decode (bytesOf w) = .ok (ins, []) → step s = exec ins s1) ∧
    (w.extractLsb' 26 6 ≠ 0x3F → (∀ r, decode (bytesOf w) ≠ .ok r) → step s = exec (.illegalInstruction w) s1) ∧
    (∀ w2 s2, w.extractLsb' 26 6 = 0x3F → s1.fetchWord (s1.cur.pc + 4) = (.word w2, s2) →
      (∀ ins, decode (bytesOf w ++ bytesOf w2) = .ok (ins, []) → step s = exec ins s2) ∧
      ((∀ r, decode (bytesOf w ++ bytesOf w2) ≠ .ok r) → step s = exec (.illegalInstruction w2) s2)) ∧
    (∀ code tval s2, w.extractLsb' 26 6 = 0x3F → s1.fetchWord (s1.cur.pc + 4) = (.trap code tval, s2) →
      step s = exec (.instructionFetchFault code (if code = 0x1F then tval else s1.cur.pc + 4))
        (s2.withHi (w.extractLsb' 0 26))) ∧
    (∀ s2, w.extractLsb' 26 6 = 0x3F → s1.fetchWord (s1.cur.pc + 4) = (.wait, s2) → step s = .next s2)) ∧
  (∀ (s s1 : State) (c i : Nat) (home : Bool) (rest : List Turn) (code : BitVec 8) (tval : Word64), s.issues c i home rest →
    let s0 := s.atIssue c i home rest
    (s0.fetchWord s0.cur.pc = (.trap code tval, s1) → step s = exec (.instructionFetchFault code tval) s1) ∧
    (s0.fetchWord s0.cur.pc = (.wait, s1) → step s = .next s1)) ∧
  (∀ (s : State) (e n : Nat) (l : Launch) (rest : List Turn) (ins : Instr), s.oneSlot e n l rest →
    let s1 := s.atCycle e rest
    let x := s1.element e
    decodeSlot (x.slotWord n) = .ok ins →
    ∃ y, { y with ages := x.ages, lifting := x.lifting } = x ∧
      step s = exec ins { s1.setElement e y with firing := { e := e, slot := n, bank := x.slotBank n, before := x } }) ∧
  (∀ (s : State) (ins : Instr) (rest : List Turn), s.turns = .event ins :: rest → turnEvent ins = true →
    s.dv.frozen = false ∨ outsideEvent ins = true → step s = exec ins { s with turns := rest }) ∧
  (∀ (s : State) (f off : Nat) (rest : List Turn), s.turns = .cwRead f off :: rest →
    step s = .next (State.readWindow { s with turns := rest } f off)) ∧
  (∀ (s : State) (u : Turn) (rest : List Turn), s.turns = u :: rest → s.dv.frozen = true →
    (∀ ins, u = .event ins → outsideEvent ins = false) → (∀ f off, u ≠ .cwRead f off) → step s = .next { s with turns := rest })

/-- Every step goes on, and it keeps the invariant: device memory stays in canonical form, PRIV stays on supervisor strands
alone (02 R27, 06 R90), bits 1:0 of SQ_EPC and SQ_TVEC stay zero (06 R91), and the power limit stays within 600 to 3,600 W
(23 R343). -/
def Obligations.EveryStepGoesOnAndKeepsTheState : Prop := ∀ s : State, ∃ t, step s = .next t ∧ (Kept s → Kept t)

/-- 23 R345, 06 R90, R91, 03 R48 and 23 R337, R343: after reset the invariant holds, memory reads as the log says, every strand
is idle with its registers 0 and SQ_RETRY 0x0400, DV_FPREV is 1, the power limit 3,600 W, and no unit has work. -/
def Obligations.ResetState : Prop :=
  Kept State.reset ∧ (∀ a, State.reset.mem.byte a = 0) ∧
  (∀ k, (State.reset.strand k).mode = .idle ∧ (State.reset.strand k).retry = 0x0400 ∧ (State.reset.strand k).priv = false ∧
    (State.reset.strand k).tvec = 0 ∧ ∀ r, (State.reset.strand k).reg r = 0) ∧
  State.reset.dv.fprev = 1 ∧ State.reset.dv.powerCap = 3600 ∧ State.reset.dv.frozen = false ∧
  State.reset.dv.readyBit = false ∧ State.reset.launches = [] ∧
  (∀ e, (State.reset.element e).plane = none) ∧ (∀ f, (State.reset.func f).membase = 0 ∧ (State.reset.func f).posted = [])

/-- 16 R228 and R239 to R243 over the model's memory (log 2): two memories in canonical form that read alike are one; a cell
written is read back, with its code, and no other cell changes; a code of its data is clean, one with the poison syndrome is
poisoned. -/
def Obligations.CanonicalMemory : Prop :=
  (∀ m n : Memory, m.wf = true → n.wf = true → (∀ a, m.byte a = n.byte a) → (∀ a, m.sideAt a = n.sideAt a) →
    (∀ x ∈ m.side ++ n.side, x.1 % 32 = 0) → m = n) ∧
  (∀ (m : Memory) (a : Nat) (x : Cell), (m.wf = true → (m.setCell a x).wf = true) ∧
    (∀ b, b / 32 = a / 32 → (m.setCell a x).cell b = x) ∧ ∀ b, b / 32 ≠ a / 32 → (m.setCell a x).cell b = m.cell b) ∧
  (∀ d : CellData, check d (gen d) = .clean d ∧ check d (gen d ^^^ 0xF) = .poison)
end

