-- ==== Sys2Proof/Laws/Memory.lean ====
section
/-! SUPPORT. The canonical form of memories: every memory operation keeps it, and a read after a write, to a memory in any
form, gives what was written at the place written and what stood there before everywhere else. -/

namespace Sys2Proof.Machine

/-! ### Tables -/

/-- A read of a table after a put. -/
@[simp] theorem tabGet_tabPut {α : Type} (d x : α) (k j : Nat) (m : List (Nat × α)) :
    tabGet d (tabPut k x m) j = if j = k then x else tabGet d m j := by
  induction m with
  | nil => simp only [tabPut, tabGet, eq_comm]
  | cons p t ih =>
    obtain ⟨i, y⟩ := p
    simp only [tabPut]
    split
    · simp only [tabGet, eq_comm]
    · split
      · subst_vars
        by_cases h : i = j
        · simp [tabGet, h]
        · have : ¬ j = i := fun e => h e.symm
          simp [tabGet, h, this]
      · by_cases h : i = j
        · subst h
          have : i ≠ k := by omega
          simp [tabGet, this]
        · simp [tabGet, h, ih]

/-! ### Sparse lists -/

/-- Every key of the list is above k. -/
def keysAbove {α : Type} (k : Nat) (l : List (Nat × α)) : Prop := ∀ p ∈ l, k < p.1

theorem sparseWf_cons {α : Type} [DecidableEq α] (d : α) (k : Nat) (x : α) (t : List (Nat × α)) :
    sparseWf d ((k, x) :: t) = true ↔ x ≠ d ∧ keysAbove k t ∧ sparseWf d t = true := by
  induction t generalizing k x with
  | nil => simp [sparseWf, keysAbove]
  | cons p t ih =>
    obtain ⟨j, y⟩ := p
    simp only [sparseWf, Bool.and_eq_true, decide_eq_true_eq]
    constructor
    · rintro ⟨⟨hx, hk⟩, h⟩
      refine ⟨hx, ?_, h⟩
      intro q hq
      rcases List.mem_cons.mp hq with rfl | hq
      · exact hk
      · exact lt_trans hk (((ih j y).mp h).2.1 q hq)
    · rintro ⟨hx, hk, h⟩
      exact ⟨⟨hx, hk _ List.mem_cons_self⟩, h⟩

theorem mem_tabPut {α : Type} (x : α) (k : Nat) (l : List (Nat × α)) (p : Nat × α) (h : p ∈ tabPut k x l) :
    p = (k, x) ∨ p ∈ l := by
  induction l with
  | nil => simp_all [tabPut]
  | cons q t ih =>
    obtain ⟨j, y⟩ := q
    simp only [tabPut] at h
    split at h
    · simp_all
    · split at h <;> rcases List.mem_cons.mp h with h | h
      · exact .inl h
      · exact .inr (List.mem_cons_of_mem _ h)
      · exact .inr (h ▸ List.mem_cons_self)
      · exact (ih h).imp id (List.mem_cons_of_mem _)

/-- Dropping entries keeps the canonical form. -/
theorem sparseWf_filter {α : Type} [DecidableEq α] (d : α) (f : Nat × α → Bool) (l : List (Nat × α))
    (h : sparseWf d l = true) : sparseWf d (l.filter f) = true := by
  induction l with
  | nil => rfl
  | cons p t ih =>
    obtain ⟨j, y⟩ := p
    have hc := (sparseWf_cons d j y t).mp h
    simp only [List.filter_cons]
    split
    · exact (sparseWf_cons d j y _).mpr ⟨hc.1, fun q hq => hc.2.1 q (List.mem_of_mem_filter hq), ih hc.2.2⟩
    · exact ih hc.2.2

/-- Putting a value that is not the default keeps the canonical form. -/
theorem tabPut_wf {α : Type} [DecidableEq α] (d x : α) (k : Nat) (l : List (Nat × α)) (hx : x ≠ d)
    (h : sparseWf d l = true) : sparseWf d (tabPut k x l) = true := by
  induction l with
  | nil => simpa [tabPut, sparseWf] using hx
  | cons p t ih =>
    obtain ⟨j, y⟩ := p
    have hc := (sparseWf_cons d j y t).mp h
    simp only [tabPut]
    split
    · refine (sparseWf_cons d k x _).mpr ⟨hx, ?_, h⟩
      intro q hq
      rcases List.mem_cons.mp hq with rfl | hq
      · assumption
      · exact lt_trans ‹k < j› (hc.2.1 q hq)
    · split
      · subst_vars
        exact (sparseWf_cons d _ x t).mpr ⟨hx, hc.2⟩
      · refine (sparseWf_cons d j y _).mpr ⟨hc.1, ?_, ih hc.2.2⟩
        intro q hq
        rcases mem_tabPut x k t q hq with rfl | hq
        · show j < k
          omega
        · exact hc.2.1 q hq

/-- The default value removes every entry of its key. -/
theorem sparsePut_default {α : Type} [DecidableEq α] (d : α) (k : Nat) (l : List (Nat × α)) :
    sparsePut d k d l = l.filter (fun p => p.1 != k) := by
  unfold sparsePut
  rw [if_pos rfl]
  split
  · rfl
  · rename_i h
    refine (List.filter_eq_self.2 fun p hp => ?_).symm
    simpa using fun he => h (List.any_eq_true.2 ⟨p, hp, by simpa using he⟩)
theorem sparsePut_other {α : Type} [DecidableEq α] {d x : α} (h : x ≠ d) (k : Nat) (l : List (Nat × α)) :
    sparsePut d k x l = tabPut k x l := if_neg h
/-- A put keeps the canonical form. -/
theorem sparsePut_wf {α : Type} [DecidableEq α] (d x : α) (k : Nat) (l : List (Nat × α)) (h : sparseWf d l = true) :
    sparseWf d (sparsePut d k x l) = true := by
  by_cases hx : x = d
  · rw [hx, sparsePut_default]
    exact sparseWf_filter d _ l h
  · rw [sparsePut_other hx]
    exact tabPut_wf d x k l hx h

/-- A read of a list from which the entries of one key are dropped. -/
theorem tabGet_drop {α : Type} (d : α) (k j : Nat) (l : List (Nat × α)) :
    tabGet d (l.filter (fun p => p.1 != k)) j = if j = k then d else tabGet d l j := by
  induction l with
  | nil => simp [tabGet]
  | cons p t ih =>
    obtain ⟨i, y⟩ := p
    simp only [List.filter_cons]
    split
    · rename_i hk
      have hi : i ≠ k := by simpa using hk
      simp only [tabGet, ih]
      by_cases hj : i = j
      · subst hj
        simp only [hi, if_false]
      · simp only [hj, if_false]
    · rename_i hk
      have hi : i = k := by simpa using hk
      subst hi
      rw [ih]
      by_cases hj : j = i
      · rw [if_pos hj, if_pos hj]
      · rw [if_neg hj, if_neg hj]
        have : ¬i = j := fun e => hj e.symm
        simp only [tabGet, this, if_false]

/-- A read after a put, whatever the form of the list. -/
theorem tabGet_sparsePut {α : Type} [DecidableEq α] (d x : α) (k j : Nat) (l : List (Nat × α)) :
    tabGet d (sparsePut d k x l) j = if j = k then x else tabGet d l j := by
  by_cases hx : x = d
  · rw [hx, sparsePut_default, tabGet_drop]
  · rw [sparsePut_other hx, tabGet_tabPut]

/-! ### Memories -/

theorem Memory.wf_iff (m : Memory) :
    m.wf = true ↔ sparseWf defaultByte m.bytes = true ∧ sparseWf defaultSide m.side = true := by
  simp [Memory.wf]

theorem Memory.setByte_wf {m : Memory} (a : Nat) (b : Byte) (h : m.wf = true) : (m.setByte a b).wf = true :=
  (Memory.wf_iff _).mpr ⟨sparsePut_wf _ _ _ _ ((Memory.wf_iff m).mp h).1, ((Memory.wf_iff m).mp h).2⟩

theorem Memory.setSide_wf {m : Memory} (a : Nat) (x : Side) (h : m.wf = true) : (m.setSide a x).wf = true :=
  (Memory.wf_iff _).mpr ⟨((Memory.wf_iff m).mp h).1, sparsePut_wf _ _ _ _ ((Memory.wf_iff m).mp h).2⟩

theorem Memory.setNat_wf {m : Memory} (a n v : Nat) (h : m.wf = true) : (m.setNat a n v).wf = true := by
  induction n generalizing m a v with
  | zero => exact h
  | succ n ih => exact ih _ _ (Memory.setByte_wf a _ h)

theorem Memory.setCell_wf {m : Memory} (a : Nat) (x : Cell) (h : m.wf = true) : (m.setCell a x).wf = true :=
  Memory.setSide_wf _ _ (Memory.setNat_wf _ _ _ h)

theorem Memory.filter_wf {m : Memory} (f : Host.Cell → Bool) (h : m.wf = true) :
    ({ m with bytes := m.bytes.filter f } : Memory).wf = true :=
  (Memory.wf_iff _).mpr ⟨sparseWf_filter _ _ _ ((Memory.wf_iff m).mp h).1, ((Memory.wf_iff m).mp h).2⟩

/-- Reading a byte after a byte was written. -/
theorem Memory.byte_setByte (m : Memory) (a c : Nat) (b : Byte) :
    (m.setByte a b).byte c = if c = a then b else m.byte c :=
  tabGet_sparsePut _ _ _ _ _

@[simp] theorem Memory.byte_setSide (m : Memory) (a c : Nat) (x : Side) : (m.setSide a x).byte c = m.byte c := rfl
@[simp] theorem Memory.sideAt_setByte (m : Memory) (a c : Nat) (b : Byte) : (m.setByte a b).sideAt c = m.sideAt c := rfl

/-- Reading a side band after one was written. -/
theorem Memory.sideAt_setSide (m : Memory) (a c : Nat) (x : Side) :
    (m.setSide a x).sideAt c = if c / 32 = a / 32 then x else m.sideAt c := by
  have hk : (c / 32 * 32 = a / 32 * 32) ↔ c / 32 = a / 32 := by omega
  unfold Memory.sideAt Memory.setSide
  rw [tabGet_sparsePut]
  simp only [hk]

/-- Reading a byte after n bytes were written. -/
theorem Memory.byte_setNat (m : Memory) (a n v c : Nat) :
    (m.setNat a n v).byte c = if a ≤ c ∧ c < a + n then BitVec.ofNat 8 (v / 256 ^ (c - a)) else m.byte c := by
  induction n generalizing m a v with
  | zero =>
    have : ¬ (a ≤ c ∧ c < a + 0) := by omega
    simp only [Memory.setNat, this, if_false]
  | succ n ih =>
    simp only [Memory.setNat]
    rw [ih, Memory.byte_setByte]
    by_cases h0 : c = a
    · subst h0
      simp
    · by_cases h1 : a + 1 ≤ c ∧ c < a + 1 + n
      · have h2 : a ≤ c ∧ c < a + (n + 1) := by omega
        rw [if_pos h1, if_pos h2]
        have h3 : c - a = (c - (a + 1)) + 1 := by omega
        rw [h3, pow_succ', Nat.div_div_eq_div_mul]
      · have h2 : ¬ (a ≤ c ∧ c < a + (n + 1)) := by omega
        rw [if_neg h1, if_neg h2, if_neg h0]

@[simp] theorem Memory.sideAt_setNat (m : Memory) (a n v c : Nat) : (m.setNat a n v).sideAt c = m.sideAt c := by
  induction n generalizing m a v with
  | zero => rfl
  | succ n ih => exact ih _ _ _

/-- A number of bytes depends on those bytes alone. -/
theorem Memory.nat_congr {m m' : Memory} (a n : Nat) (h : ∀ i, i < n → m.byte (a + i) = m'.byte (a + i)) :
    m.nat a n = m'.nat a n := by
  induction n generalizing a with
  | zero => rfl
  | succ n ih =>
    have h0 := h 0 (by omega)
    have hs : m.nat (a + 1) n = m'.nat (a + 1) n := ih (a + 1) fun i hi => by
      have := h (i + 1) (by omega)
      rwa [← Nat.add_assoc, Nat.add_right_comm] at this
    simp only [Nat.add_zero] at h0
    simp only [Memory.nat, h0, hs]

/-- The number of n bytes that are the low bytes of v. -/
theorem Memory.nat_of_bytes {m : Memory} (a n v : Nat)
    (h : ∀ i, i < n → m.byte (a + i) = BitVec.ofNat 8 (v / 256 ^ i)) : m.nat a n = v % 256 ^ n := by
  induction n generalizing a v with
  | zero => simp [Memory.nat, Nat.mod_one]
  | succ n ih =>
    have h0 : m.byte a = BitVec.ofNat 8 v := by simpa using h 0 (by omega)
    have hs := ih (a + 1) (v / 256) fun i hi => by
      have := h (i + 1) (by omega)
      rw [← Nat.add_assoc, Nat.add_right_comm] at this
      rw [this, pow_succ', Nat.div_div_eq_div_mul]
    have h8 : (BitVec.ofNat 8 v).toNat = v % 256 := BitVec.toNat_ofNat v 8
    simp only [Memory.nat, h0, hs]
    rw [h8, Nat.pow_succ', Nat.mod_mul]

/-- Reading back the n bytes just written. -/
theorem Memory.nat_setNat (m : Memory) (a n v : Nat) : (m.setNat a n v).nat a n = v % 256 ^ n := by
  refine Memory.nat_of_bytes a n v fun i hi => ?_
  rw [Memory.byte_setNat, if_pos (by omega), Nat.add_sub_cancel_left]

/-- Two cells with the same side band and the same bytes are one. -/
theorem Memory.cell_congr {m m' : Memory} (c : Nat) (hs : m.sideAt (c / 32 * 32) = m'.sideAt (c / 32 * 32))
    (hn : m.nat (c / 32 * 32) 32 = m'.nat (c / 32 * 32) 32) : m.cell c = m'.cell c := by
  simp only [Memory.cell]
  rw [hs, hn]

/-- Reading back the cell just written. -/
theorem Memory.cell_setCell_same (m : Memory) (a c : Nat) (x : Cell) (hc : c / 32 = a / 32) :
    (m.setCell a x).cell c = x := by
  have hk : c / 32 * 32 / 32 = a / 32 * 32 / 32 := by rw [hc]
  simp only [Memory.cell, Memory.setCell]
  rw [Memory.sideAt_setSide, if_pos hk, hc]
  have e (y : Side) : ((m.setNat (a / 32 * 32) 32 x.data.toNat).setSide (a / 32 * 32) y).nat (a / 32 * 32) 32 =
      x.data.toNat := by
    have h1 : ((m.setNat (a / 32 * 32) 32 x.data.toNat).setSide (a / 32 * 32) y).nat (a / 32 * 32) 32 =
        (m.setNat (a / 32 * 32) 32 x.data.toNat).nat (a / 32 * 32) 32 := Memory.nat_congr _ _ fun i _ => Memory.byte_setSide _ _ _ _
    have h2 : (256 : Nat) ^ 32 = 2 ^ 256 := by norm_num
    rw [h1, Memory.nat_setNat, h2]
    exact Nat.mod_eq_of_lt x.data.isLt
  rw [e]
  cases x
  simp

/-- Another cell is what it was. -/
theorem Memory.cell_setCell_other (m : Memory) (a c : Nat) (x : Cell) (hc : c / 32 ≠ a / 32) :
    (m.setCell a x).cell c = m.cell c := by
  refine Memory.cell_congr c ?_ (Memory.nat_congr _ _ fun i hi => ?_)
  · simp only [Memory.setCell]
    rw [Memory.sideAt_setSide, if_neg (by omega), Memory.sideAt_setNat]
  · simp only [Memory.setCell]
    rw [Memory.byte_setSide, Memory.byte_setNat, if_neg (by omega)]

/-- The memory after reset is in canonical form. -/
theorem Memory.empty_wf : Memory.empty.wf = true := by decide

end Sys2Proof.Machine
end

