-- ==== Sys2Proof/Laws/Keep.lean ====
section
/-! SUPPORT. What it takes for a meaning to keep the invariant: the predicates on results of every shape, and how they pass through the ways a meaning is put together. -/

namespace Sys2Proof.Machine

/-- An outcome's next state is well kept. -/
def OutOk (o : Out) : Prop := ∀ t, o = .next t → Kept t
/-- A state that may be there is well kept. -/
def OptOk (o : Option State) : Prop := ∀ t, o = some t → Kept t
/-- A state that is there unless something failed is well kept. -/
def ExcOk (o : Except Nat State) : Prop := ∀ t, o = .ok t → Kept t
/-- The state of a pair that may be there is well kept. -/
def OptPairOk {α : Type} (o : Option (α × State)) : Prop := ∀ a t, o = some (a, t) → Kept t
/-- The state of a fetched cell is well kept. -/
def FetchedOk (o : Fetched) : Prop := ∀ t, (o = .stop t → Kept t) ∧ ∀ c, o = .got t c → Kept t

/-- The state of an engine's write is well kept. -/
def EngOk (o : EngOut) : Prop := ∀ t, (o = .done t → Kept t) ∧ (o = .wait t → Kept t) ∧ (o = .stop t → Kept t)
/-- The state of an engine's read is well kept. -/
def ReadOk (o : ReadOut) : Prop := ∀ t, (o = .stop t → Kept t) ∧ ∀ c, o = .got c t → Kept t

/-- The state in what a slice does with an access is well kept. -/
def GateOk : Gate → Prop
  | .pass s => Kept s
  | .invalid s => Kept s
  | .held s => Kept s
  | .damaged s => Kept s
/-- The state after finding cells is well kept. -/
def LocatedOk : Located → Prop
  | .found _ _ s => Kept s
  | .stop s => Kept s

theorem kept_mem {s : State} (h : Kept s) : s.mem.wf = true := h.mem
theorem kept_strands {s : State} (h : Kept s) : strandsKept s.strands := h.strands
theorem kept_dv {s : State} (h : Kept s) : s.dv.kept := h.dv
theorem kept_strand {s : State} {k : Nat} (h : Kept s) : (s.strand k).kept k := h.strands k
theorem kept_cur {s : State} (h : Kept s) : s.cur.kept s.issue.k := h.strands s.issue.k
theorem kept_priv {s : State} {k : Nat} (h : Kept s) : (s.strand k).priv = true → superStrand k = true := (h.strands k).1
theorem kept_epc {s : State} {k : Nat} (h : Kept s) : (s.strand k).epc &&& 3 = 0 := (h.strands k).2.1
theorem kept_tvec {s : State} {k : Nat} (h : Kept s) : (s.strand k).tvec &&& 3 = 0 := (h.strands k).2.2
theorem kept_cur_priv {s : State} (h : Kept s) : s.cur.priv = true → superStrand s.issue.k = true := (h.strands _).1
theorem kept_cur_epc {s : State} (h : Kept s) : s.cur.epc &&& 3 = 0 := (h.strands _).2.1
theorem kept_cur_tvec {s : State} (h : Kept s) : s.cur.tvec &&& 3 = 0 := (h.strands _).2.2
theorem kept_cap {s : State} (h : Kept s) : 600 ≤ s.dv.powerCap.toNat ∧ s.dv.powerCap.toNat ≤ 3600 := h.dv
theorem strand_mk_iff {n a b c d e f g i j l m o p q r u v w x y z} :
    (Strand.mk a b c d e f g i j l m o p q r u v w x y z).kept n ↔
      (d = true → superStrand n = true) ∧ i &&& 3 = 0 ∧ l &&& 3 = 0 := Iff.rfl
theorem device_mk_iff {a b c d e f g h i j k l m o p q r u v w x y z a1 b1 c1 d1 e1 f1} :
    (Device.mk a b c d e f g h i j k l m o p q r u v w x y z a1 b1 c1 d1 e1 f1).kept ↔ 600 ≤ k.toNat ∧ k.toNat ≤ 3600 := Iff.rfl
theorem capClamp_kept (v : BitVec 16) : 600 ≤ (capClamp v).toNat ∧ (capClamp v).toNat ≤ 3600 := by
  unfold capClamp
  split
  · decide
  · split
    · decide
    · omega
theorem align_and (v : Word64) : (v &&& ~~~3) &&& 3 = 0 := by
  have h : (~~~3 &&& 3 : Word64) = 0 := by decide
  rw [BitVec.and_assoc, h]
  exact BitVec.and_zero
theorem strand_reset (k : Nat) : Strand.reset.kept k := ⟨(fun h => by cases h), by decide, by decide⟩
theorem strand_start {k : Nat} (x : Strand) (pc g1 g2 g3 g4 tvec : Word64) (prio running : Bool) (h : x.kept k) :
    (x.start pc g1 g2 g3 g4 tvec prio running).kept k :=
  ⟨h.1, (by decide : (0 : Word64) &&& 3 = 0), align_and tvec⟩
theorem reset_priv {p : Prop} : Strand.reset.priv = true → p := fun h => by cases h
theorem reset_cap : 600 ≤ Device.reset.powerCap.toNat ∧ Device.reset.powerCap.toNat ≤ 3600 := by decide
theorem no_priv {p : Prop} : false = true → p := fun h => by cases h
theorem reset_epc : Strand.reset.epc &&& 3 = 0 := by decide
theorem reset_tvec : Strand.reset.tvec &&& 3 = 0 := by decide
theorem start_priv {p : Prop} {x : Strand} {pc g1 g2 g3 g4 tvec : Word64} {prio running : Bool}
    (h : x.priv = true → p) : (x.start pc g1 g2 g3 g4 tvec prio running).priv = true → p := h
theorem start_epc {x : Strand} {pc g1 g2 g3 g4 tvec : Word64} {prio running : Bool} :
    (x.start pc g1 g2 g3 g4 tvec prio running).epc &&& 3 = 0 := (by decide : (0 : Word64) &&& 3 = 0)
theorem start_tvec {x : Strand} {pc g1 g2 g3 g4 tvec : Word64} {prio running : Bool} :
    (x.start pc g1 g2 g3 g4 tvec prio running).tvec &&& 3 = 0 := align_and tvec
theorem setReg_priv {p : Prop} {x : Strand} {r : GReg} {v : Word64} (h : x.priv = true → p) :
    (x.setReg r v).priv = true → p := by
  unfold Strand.setReg
  split <;> exact h
theorem setReg_epc {x : Strand} {r : GReg} {v : Word64} (h : x.epc &&& 3 = 0) : (x.setReg r v).epc &&& 3 = 0 := by
  unfold Strand.setReg
  split <;> exact h
theorem setReg_tvec {x : Strand} {r : GReg} {v : Word64} (h : x.tvec &&& 3 = 0) : (x.setReg r v).tvec &&& 3 = 0 := by
  unfold Strand.setReg
  split <;> exact h
theorem strand_setReg {k : Nat} (x : Strand) (r : GReg) (v : Word64) (h : x.kept k) : (x.setReg r v).kept k := by
  unfold Strand.setReg
  split
  · exact h
  · exact h
theorem strand_writeSq {k : Nat} (x : Strand) (n : Nat) (v : Word64) (h : x.kept k) : (x.writeSq n v).kept k := by
  unfold Strand.writeSq
  split
  · exact h
  · exact h
  · exact ⟨h.1, align_and v, h.2.2⟩
  · exact h
  · exact ⟨h.1, h.2.1, align_and v⟩
  · exact h
  · exact h
  · exact h
theorem strands_put {l : List (Nat × Strand)} {k : Nat} {x : Strand} (h : strandsKept l) (hx : x.kept k) :
    strandsKept (tabPut k x l) := by
  intro j
  rw [tabGet_tabPut]
  split
  · rename_i e
    rw [e]
    exact hx
  · exact h j
theorem strands_nil : strandsKept [] := fun k => strand_reset k
theorem outOk_next {s : State} (h : Kept s) : OutOk (.next s) := by
  intro t e
  cases e
  exact h
theorem outOk_refused (r : Refusal) : OutOk (.refused r) := by
  intro t e
  cases e
theorem outOk_fault (r : Fault) : OutOk (.fault r) := by
  intro t e
  cases e
theorem optOk_some {s : State} (h : Kept s) : OptOk (some s) := by
  intro t e
  cases e
  exact h
theorem optOk_none : OptOk none := by
  intro t e
  cases e
theorem optPairOk_some {α : Type} {p : α × State} (h : Kept p.2) : OptPairOk (some p) := by
  intro a t e
  cases e
  exact h
theorem optPairOk_none {α : Type} : OptPairOk (none : Option (α × State)) := by
  intro a t e
  cases e
theorem optPairOk_map {α : Type} {o : Option α} {s : State} (h : Kept s) : OptPairOk (o.map (fun v => (v, s))) := by
  intro b t e
  cases o with
  | none => cases e
  | some a =>
    rw [Option.map_some, Option.some.injEq] at e
    cases e
    exact h
theorem optOk_map {α : Type} {o : Option α} {f : α → State} (h : ∀ a, Kept (f a)) : OptOk (o.map f) := by
  intro t e
  cases o with
  | none => cases e
  | some a =>
    cases e
    exact h a
theorem excOk_ok {s : State} (h : Kept s) : ExcOk (.ok s) := by
  intro t e
  cases e
  exact h
theorem excOk_error {n : Nat} : ExcOk (.error n) := by
  intro t e
  cases e
theorem of_ok {o : Except Nat State} {t : State} (e : o = .ok t) (h : ExcOk o) : Kept t := h t e
theorem of_findSome {α : Type} {f : α → Option State} {l : List α} {t : State} (e : l.findSome? f = some t)
    (h : ∀ a, OptOk (f a)) : Kept t := by
  induction l with
  | nil => cases e
  | cons a l ih =>
    rw [List.findSome?_cons] at e
    split at e
    · rename_i b hb
      cases e
      exact h a _ hb
    · exact ih e
theorem getD_keeps {o : Option State} {s : State} (ho : OptOk o) (h : Kept s) : Kept (o.getD s) := by
  cases o with
  | none => exact h
  | some t => exact ho t rfl
theorem fetchedOk_stop {s : State} (h : Kept s) : FetchedOk (.stop s) := by
  intro t
  refine ⟨fun e => ?_, fun c e => ?_⟩
  · cases e
    exact h
  · cases e
theorem fetchedOk_got {s : State} (c : Cell) (h : Kept s) : FetchedOk (.got s c) := by
  intro t
  refine ⟨fun e => ?_, fun d e => ?_⟩
  · cases e
  · cases e
    exact h
theorem of_snd {α : Type} {p : α × State} {a : α} {t : State} (e : p = (a, t)) (h : Kept p.2) : Kept t := by
  rw [e] at h
  exact h
theorem of_some {o : Option State} {t : State} (e : o = some t) (h : OptOk o) : Kept t := h t e
theorem of_some_pair {α : Type} {o : Option (α × State)} {a : α} {t : State} (e : o = some (a, t)) (h : OptPairOk o) :
    Kept t := h a t e
theorem of_next {o : Out} {t : State} (e : o = .next t) (h : OutOk o) : Kept t := h t e
theorem of_stop {o : Fetched} {t : State} (e : o = .stop t) (h : FetchedOk o) : Kept t := (h t).1 e
theorem of_got {o : Fetched} {t : State} {c : Cell} (e : o = .got t c) (h : FetchedOk o) : Kept t := (h t).2 c e
theorem engOk_done {s : State} (h : Kept s) : EngOk (.done s) := by
  intro t
  refine ⟨fun e => ?_, fun e => ?_, fun e => ?_⟩ <;> cases e
  exact h
theorem engOk_wait {s : State} (h : Kept s) : EngOk (.wait s) := by
  intro t
  refine ⟨fun e => ?_, fun e => ?_, fun e => ?_⟩ <;> cases e
  exact h
theorem engOk_stop {s : State} (h : Kept s) : EngOk (.stop s) := by
  intro t
  refine ⟨fun e => ?_, fun e => ?_, fun e => ?_⟩ <;> cases e
  exact h
theorem readOk_got {s : State} (c : Cell) (h : Kept s) : ReadOk (.got c s) := by
  intro t
  refine ⟨fun e => ?_, fun d e => ?_⟩ <;> cases e
  exact h
theorem readOk_stop {s : State} (h : Kept s) : ReadOk (.stop s) := by
  intro t
  refine ⟨fun e => ?_, fun d e => ?_⟩ <;> cases e
  exact h
theorem of_done {o : EngOut} {t : State} (e : o = .done t) (h : EngOk o) : Kept t := (h t).1 e
theorem of_wait {o : EngOut} {t : State} (e : o = .wait t) (h : EngOk o) : Kept t := (h t).2.1 e
theorem of_halt {o : EngOut} {t : State} (e : o = .stop t) (h : EngOk o) : Kept t := (h t).2.2 e
theorem of_read {o : ReadOut} {c : Cell} {t : State} (e : o = .got c t) (h : ReadOk o) : Kept t := (h t).2 c e
theorem of_unread {o : ReadOut} {t : State} (e : o = .stop t) (h : ReadOk o) : Kept t := (h t).1 e
theorem of_snd_snd {α β : Type} {p : α × β × State} {a : α} {b : β} {t : State} (e : p = (a, b, t)) (h : Kept p.2.2) :
    Kept t := by
  rw [e] at h
  exact h
theorem of_pass {o : Gate} {t : State} (e : o = .pass t) (h : GateOk o) : Kept t := by
  rw [e] at h
  exact h
theorem of_invalid {o : Gate} {t : State} (e : o = .invalid t) (h : GateOk o) : Kept t := by
  rw [e] at h
  exact h
theorem of_held {o : Gate} {t : State} (e : o = .held t) (h : GateOk o) : Kept t := by
  rw [e] at h
  exact h
theorem of_damaged {o : Gate} {t : State} (e : o = .damaged t) (h : GateOk o) : Kept t := by
  rw [e] at h
  exact h
theorem gateOk_pass {s : State} (h : Kept s) : GateOk (.pass s) := h
theorem gateOk_invalid {s : State} (h : Kept s) : GateOk (.invalid s) := h
theorem gateOk_held {s : State} (h : Kept s) : GateOk (.held s) := h
theorem gateOk_damaged {s : State} (h : Kept s) : GateOk (.damaged s) := h
theorem locatedOk_found {c : List (Nat × Nat)} {n : List Nat} {s : State} (h : Kept s) : LocatedOk (.found c n s) := h
theorem locatedOk_stop {s : State} (h : Kept s) : LocatedOk (.stop s) := h
theorem of_found {o : Located} {c : List (Nat × Nat)} {n : List Nat} {t : State} (e : o = .found c n t) (h : LocatedOk o) :
    Kept t := by
  rw [e] at h
  exact h
theorem of_unfound {o : Located} {t : State} (e : o = .stop t) (h : LocatedOk o) : Kept t := by
  rw [e] at h
  exact h
theorem strandsKept_map {f : Nat × Strand → Nat × Strand} (hf : ∀ x, (f x).1 = x.1)
    (hx : ∀ x k, x.2.kept k → (f x).2.kept k) {l : List (Nat × Strand)} (h : strandsKept l) : strandsKept (l.map f) := by
  intro k
  have hk := h k
  clear h
  induction l with
  | nil => exact hk
  | cons x t ih =>
    rw [List.map_cons, show f x = (x.1, (f x).2) from Prod.ext (hf x) rfl]
    unfold tabGet at hk ⊢
    by_cases hj : x.1 = k
    · rw [if_pos hj] at hk ⊢
      exact hx x k hk
    · rw [if_neg hj] at hk ⊢
      exact ih hk
theorem foldl_keeps {β : Type} (f : State → β → State) (l : List β) (s : State) (hf : ∀ t x, Kept t → Kept (f t x))
    (h : Kept s) : Kept (l.foldl f s) := by
  induction l generalizing s with
  | nil => exact h
  | cons x t ih => exact ih _ (hf s x h)

theorem kept_mk {a b c d e m g i j k l n o p q r u v w x z} (hm : m.wf = true) (hs : strandsKept i) (hd : z.kept) :
    Kept (State.mk a b c d e m g i j k l n o p q r u v w x z) := ⟨hm, hs, hd⟩
theorem kept_mk_iff {a b c d e m g i j k l n o p q r u v w x z} :
    Kept (State.mk a b c d e m g i j k l n o p q r u v w x z) ↔ m.wf = true ∧ strandsKept i ∧ z.kept :=
  ⟨fun h => ⟨h.mem, h.strands, h.dv⟩, fun h => ⟨h.1, h.2.1, h.2.2⟩⟩

theorem reviveSides_wf (m : Memory) (a : Nat) (w : Bool) (n : Nat) (hm : m.wf = true) :
    (reviveSides m a w n).wf = true := by
  induction n generalizing m a with
  | zero => exact hm
  | succ n ih => exact ih _ _ (Memory.setSide_wf _ _ hm)

theorem restoreCells_wf (m : Memory) (a : Nat) (l : List (Nat × Cell)) (hm : m.wf = true) :
    (restoreCells m a l).wf = true := by
  induction l generalizing m with
  | nil => exact hm
  | cons p t ih =>
    obtain ⟨j, c⟩ := p
    simp only [restoreCells]
    exact ih _ (Memory.setCell_wf _ _ hm)

theorem ite_keeps {c : Prop} [Decidable c] {s t : State} (h1 : Kept s) (h2 : Kept t) : Kept (if c then s else t) := by
  split <;> assumption
theorem ite_out {c : Prop} [Decidable c] {a b : Out} (h1 : OutOk a) (h2 : OutOk b) : OutOk (if c then a else b) := by
  split <;> assumption

end Sys2Proof.Machine
end

