-- ==== Sys2Proof/Laws/KeepOps.lean ====
section
/-! SUPPORT. The shared operations keep the invariant: one lemma per definition, citing the lemmas of what it calls. -/

set_option linter.unusedTactic false
set_option linter.unreachableTactic false
set_option linter.unusedVariables false
set_option linter.unusedSimpArgs false
set_option maxRecDepth 4096

namespace Sys2Proof.Machine

theorem State.setStrand_keeps (s : State) (k : Nat) (x : Strand) (hx : x.kept k) (hk : Kept s) : Kept (s.setStrand k x) :=
  ⟨hk.mem, strands_put hk.strands hx, hk.dv⟩
theorem State.setCluster_keeps (s : State) (c : Nat) (x : Cluster)
    (hk : Kept s) : Kept (State.setCluster s c x) := by
  unfold State.setCluster
  repeat' first
    | with_reducible assumption
    | with_reducible apply kept_mem
    | with_reducible apply kept_strands
    | with_reducible apply kept_dv
    | (simp -zeta -proj only [kept_mk_iff]; refine ⟨?_, ?_, ?_⟩)
theorem State.setElement_keeps (s : State) (e : Nat) (x : Element)
    (hk : Kept s) : Kept (State.setElement s e x) := by
  unfold State.setElement
  repeat' first
    | with_reducible assumption
    | with_reducible apply kept_mem
    | with_reducible apply kept_strands
    | with_reducible apply kept_dv
    | (simp -zeta -proj only [kept_mk_iff]; refine ⟨?_, ?_, ?_⟩)
theorem State.setTile_keeps (s : State) (t : Nat) (x : Tile) (hk : Kept s) :
    Kept (State.setTile s t x) := by
  unfold State.setTile
  repeat' first
    | with_reducible assumption
    | with_reducible apply kept_mem
    | with_reducible apply kept_strands
    | with_reducible apply kept_dv
    | (simp -zeta -proj only [kept_mk_iff]; refine ⟨?_, ?_, ?_⟩)
theorem State.setPort_keeps (s : State) (p : Nat) (x : Port) (hk : Kept s) :
    Kept (State.setPort s p x) := by
  unfold State.setPort
  repeat' first
    | with_reducible assumption
    | with_reducible apply kept_mem
    | with_reducible apply kept_strands
    | with_reducible apply kept_dv
    | (simp -zeta -proj only [kept_mk_iff]; refine ⟨?_, ?_, ?_⟩)
theorem State.setSlice_keeps (s : State) (h : Nat) (x : Slice) (hk : Kept s) :
    Kept (State.setSlice s h x) := by
  unfold State.setSlice
  repeat' first
    | with_reducible assumption
    | with_reducible apply kept_mem
    | with_reducible apply kept_strands
    | with_reducible apply kept_dv
    | (simp -zeta -proj only [kept_mk_iff]; refine ⟨?_, ?_, ?_⟩)
theorem State.setJob_keeps (s : State) (j : Nat) (x : Job) (hk : Kept s) :
    Kept (State.setJob s j x) := by
  unfold State.setJob
  repeat' first
    | with_reducible assumption
    | with_reducible apply kept_mem
    | with_reducible apply kept_strands
    | with_reducible apply kept_dv
    | (simp -zeta -proj only [kept_mk_iff]; refine ⟨?_, ?_, ?_⟩)
theorem State.setFunc_keeps (s : State) (f : Nat) (x : Func) (hk : Kept s) :
    Kept (State.setFunc s f x) := by
  unfold State.setFunc
  repeat' first
    | with_reducible assumption
    | with_reducible apply kept_mem
    | with_reducible apply kept_strands
    | with_reducible apply kept_dv
    | (simp -zeta -proj only [kept_mk_iff]; refine ⟨?_, ?_, ?_⟩)
theorem State.setMem_keeps (s : State) (m : Memory) (hm : m.wf = true) (hk : Kept s) : Kept (s.setMem m) :=
  ⟨hm, hk.strands, hk.dv⟩
theorem State.setDv_keeps (s : State) (d : Device) (hd : d.kept) (hk : Kept s) : Kept (s.setDv d) :=
  ⟨hk.mem, hk.strands, hd⟩
theorem State.setIssue_keeps (s : State) (i : Issue) (hk : Kept s) :
    Kept (State.setIssue s i) := by
  unfold State.setIssue
  repeat' first
    | with_reducible assumption
    | with_reducible apply kept_mem
    | with_reducible apply kept_strands
    | with_reducible apply kept_dv
    | (simp -zeta -proj only [kept_mk_iff]; refine ⟨?_, ?_, ?_⟩)
theorem State.setLaunch_keeps (s : State) (x : Launch) (hk : Kept s) :
    Kept (State.setLaunch s x) := by
  unfold State.setLaunch
  repeat' first
    | with_reducible assumption
    | with_reducible apply kept_mem
    | with_reducible apply kept_strands
    | with_reducible apply kept_dv
    | (simp -zeta -proj only [kept_mk_iff]; refine ⟨?_, ?_, ?_⟩)
theorem State.modLaunch_keeps (s : State) (l : Nat) (f : Launch → Launch)
    (hk : Kept s) : Kept (State.modLaunch s l f) := by
  unfold State.modLaunch
  repeat' first
    | with_reducible assumption
    | with_reducible apply kept_mem
    | with_reducible apply kept_strands
    | with_reducible apply kept_dv
    | (simp -zeta -proj only [kept_mk_iff]; refine ⟨?_, ?_, ?_⟩)
theorem State.nextFree_keeps (s : State) (hk : Kept s) :
    Kept (State.nextFree s).2 := by
  unfold State.nextFree
  repeat' first
    | with_reducible assumption
    | with_reducible apply kept_mem
    | with_reducible apply kept_strands
    | with_reducible apply kept_dv
    | (simp -zeta -proj only [kept_mk_iff]; refine ⟨?_, ?_, ?_⟩)
    | dsimp -zeta only
theorem State.setCur_keeps (s : State) (x : Strand) (hx : x.kept s.issue.k) (hk : Kept s) : Kept (s.setCur x) :=
  State.setStrand_keeps _ _ _ hx hk

theorem State.trubAdd_keeps (s : State) (die : Nat) (kind : Nat) (unit : BitVec 16) (job : Nat) (code : Nat) (detail : Word64)
    (hk : Kept s) : Kept (State.trubAdd s die kind unit job code detail) := by
  unfold State.trubAdd
  repeat' first
    | with_reducible assumption
    | with_reducible apply kept_mem
    | with_reducible apply kept_strands
    | with_reducible apply kept_dv
    | extract_lets
    | (simp -zeta -proj only [kept_mk_iff]; refine ⟨?_, ?_, ?_⟩)
theorem State.trubCorrection_keeps (s : State) (die : Nat) (unit : BitVec 16) (job : Nat) (detail : Word64)
    (hk : Kept s) : Kept (State.trubCorrection s die unit job detail) := by
  unfold State.trubCorrection
  repeat' first
    | with_reducible assumption
    | with_reducible apply kept_mem
    | with_reducible apply kept_strands
    | with_reducible apply kept_dv
    | with_reducible apply State.trubAdd_keeps
    | with_reducible apply ite_keeps
    | extract_lets
    | (simp -zeta -proj only [kept_mk_iff]; refine ⟨?_, ?_, ?_⟩)
theorem State.countCheck_keeps (s : State) (u : UnitRef) (job : Nat) (addr : Word64) (x : Checked)
    (hk : Kept s) : Kept (State.countCheck s u job addr x) := by
  unfold State.countCheck
  repeat' first
    | with_reducible assumption
    | with_reducible apply kept_cap
    | with_reducible apply State.setCluster_keeps
    | with_reducible apply State.setDv_keeps
    | with_reducible apply State.trubAdd_keeps
    | with_reducible apply State.trubCorrection_keeps
    | split
    | extract_lets
    | simp -zeta -proj only [device_mk_iff]
theorem State.feNote_keeps (s : State) (pa : Nat) (va : Nat) (job : Nat)
    (hk : Kept s) : Kept (State.feNote s pa va job) := by
  unfold State.feNote
  repeat' first
    | with_reducible assumption
    | with_reducible apply State.trubAdd_keeps
theorem State.countHome_keeps (s : State) (pa : Nat) (job : Nat) (va : Word64) (x : Checked)
    (hk : Kept s) : Kept (State.countHome s pa job va x) := by
  unfold State.countHome
  repeat' first
    | with_reducible assumption
    | with_reducible apply State.countCheck_keeps

theorem State.setReg_keeps (s : State) (r : GReg) (v : Word64) (hk : Kept s) :
    Kept (State.setReg s r v) := by
  unfold State.setReg
  repeat' first
    | with_reducible assumption
    | with_reducible apply kept_cur
    | with_reducible apply strand_setReg
    | with_reducible apply State.setCur_keeps
theorem State.goto_keeps (s : State) (a : Word64) (hk : Kept s) :
    Kept (State.goto s a) := by
  unfold State.goto
  repeat' first
    | with_reducible assumption
    | with_reducible refine kept_cur_priv ?_
    | with_reducible apply kept_cur_epc
    | with_reducible apply kept_cur_tvec
    | with_reducible apply State.setCur_keeps
    | extract_lets
    | (simp -zeta -proj only [strand_mk_iff]; refine ⟨?_, ?_, ?_⟩)
theorem State.retire_keeps (s : State) (hk : Kept s) :
    Kept (State.retire s) := by
  unfold State.retire
  repeat' first
    | with_reducible assumption
    | with_reducible apply State.goto_keeps
theorem State.retireReg_keeps (s : State) (r : GReg) (v : Word64)
    (hk : Kept s) : Kept (State.retireReg s r v) := by
  unfold State.retireReg
  repeat' first
    | with_reducible assumption
    | with_reducible apply State.retire_keeps
    | with_reducible apply State.setReg_keeps
theorem State.startTask_keeps (s : State) (k : Nat) (t : Task) (hk : Kept s) :
    Kept (State.startTask s k t) := by
  unfold State.startTask
  repeat' first
    | with_reducible assumption
    | with_reducible apply kept_strand
    | with_reducible apply strand_start
    | with_reducible apply State.setStrand_keeps
    | split
theorem State.endStrand_keeps (s : State) (k : Nat) (hk : Kept s) :
    Kept (State.endStrand s k) := by
  unfold State.endStrand
  repeat' first
    | with_reducible assumption
    | with_reducible refine kept_priv ?_
    | with_reducible apply kept_epc
    | with_reducible apply kept_tvec
    | with_reducible apply State.setCluster_keeps
    | with_reducible apply State.setStrand_keeps
    | with_reducible apply State.startTask_keeps
    | split
    | extract_lets
    | (simp -zeta -proj only [strand_mk_iff]; refine ⟨?_, ?_, ?_⟩)
theorem State.strandFault_keeps (s : State) (k : Nat) (hk : Kept s) :
    Kept (State.strandFault s k) := by
  unfold State.strandFault
  repeat' first
    | with_reducible assumption
    | with_reducible apply State.modLaunch_keeps
    | split
theorem State.suspend_keeps (s : State) (k : Nat) (code : BitVec 8) (tval : Word64) (epc : Word64) (pair : Bool)
    (hk : Kept s) : Kept (State.suspend s k code tval epc pair) := by
  unfold State.suspend
  repeat' first
    | with_reducible assumption
    | with_reducible apply kept_mem
    | with_reducible apply kept_strands
    | with_reducible apply kept_dv
    | with_reducible refine kept_priv ?_
    | with_reducible apply kept_epc
    | with_reducible apply kept_tvec
    | with_reducible apply State.endStrand_keeps
    | with_reducible apply State.setStrand_keeps
    | with_reducible apply State.strandFault_keeps
    | with_reducible apply State.trubAdd_keeps
    | with_reducible apply ite_keeps
    | extract_lets
    | (simp -zeta -proj only [kept_mk_iff]; refine ⟨?_, ?_, ?_⟩)
    | (simp -zeta -proj only [strand_mk_iff]; refine ⟨?_, ?_, ?_⟩)
theorem State.takeTrap_keeps (s : State) (k : Nat) (code : BitVec 8) (tval : Word64) (epc : Word64) (pair : Bool)
    (hk : Kept s) : Kept (State.takeTrap s k code tval epc pair) := by
  unfold State.takeTrap
  repeat' first
    | with_reducible assumption
    | with_reducible refine kept_priv ?_
    | with_reducible apply kept_tvec
    | with_reducible apply align_and
    | with_reducible apply State.setStrand_keeps
    | with_reducible apply State.suspend_keeps
    | with_reducible apply ite_keeps
    | extract_lets
    | (simp -zeta -proj only [strand_mk_iff]; refine ⟨?_, ?_, ?_⟩)
theorem State.trap_keeps (s : State) (code : BitVec 8) (tval : Word64)
    (hk : Kept s) : Kept (State.trap s code tval) := by
  unfold State.trap
  repeat' first
    | with_reducible assumption
    | with_reducible apply State.takeTrap_keeps
theorem State.asStrand_keeps (s : State) (k : Nat) (hi : Option (BitVec 26)) (f : State → State)
    (hf : ∀ x0, Kept x0 → Kept (f x0)) (hk : Kept s) : Kept (State.asStrand s k hi f) := by
  unfold State.asStrand
  repeat' first
    | with_reducible assumption
    | with_reducible apply State.setIssue_keeps
    | apply hf
theorem State.returnFromTrap_keeps (s : State) (hk : Kept s) :
    Kept (State.returnFromTrap s) := by
  unfold State.returnFromTrap
  repeat' first
    | with_reducible assumption
    | with_reducible refine kept_cur_priv ?_
    | with_reducible apply kept_cur_epc
    | with_reducible apply kept_cur_tvec
    | with_reducible apply State.setCur_keeps
    | extract_lets
    | (simp -zeta -proj only [strand_mk_iff]; refine ⟨?_, ?_, ?_⟩)
theorem State.illegal_keeps (s : State) (w : Word64) (hk : Kept s) :
    Kept (State.illegal s w) := by
  unfold State.illegal
  repeat' first
    | with_reducible assumption
    | with_reducible apply State.trap_keeps
theorem State.denied_keeps (s : State) (v : Word64) (hk : Kept s) :
    Kept (State.denied s v) := by
  unfold State.denied
  repeat' first
    | with_reducible assumption
    | with_reducible apply State.trap_keeps
theorem State.hold_keeps (s : State) (i : Instr) (parked : Bool) (f : Pend → Pend)
    (hk : Kept s) : Kept (State.hold s i parked f) := by
  unfold State.hold
  repeat' first
    | with_reducible assumption
    | with_reducible refine kept_cur_priv ?_
    | with_reducible apply kept_cur_epc
    | with_reducible apply kept_cur_tvec
    | with_reducible apply State.setCur_keeps
    | split
    | extract_lets
    | (simp -zeta -proj only [strand_mk_iff]; refine ⟨?_, ?_, ?_⟩)

theorem State.readEntry_keeps (s : State) (u : UnitRef) (job : Nat) (a : Nat)
    (hk : Kept s) : Kept (State.readEntry s u job a).2 := by
  unfold State.readEntry
  repeat' first
    | with_reducible assumption
    | with_reducible apply State.countCheck_keeps
    | with_reducible apply State.feNote_keeps
    | split
    | extract_lets
theorem State.walk_keeps (s : State) (u : UnitRef) (job : Nat) (x : XRec) (va : Nat)
    (hk : Kept s) : Kept (State.walk s u job x va).2 := by
  unfold State.walk
  repeat' first
    | with_reducible assumption
    | with_reducible apply State.readEntry_keeps
    | with_reducible refine of_snd (by assumption) ?_
    | split
    | extract_lets
theorem State.tlbAdd_keeps (s : State) (w : Site) (e : TlbEntry) (hk : Kept s) :
    Kept (State.tlbAdd s w e) := by
  unfold State.tlbAdd
  repeat' first
    | with_reducible assumption
    | with_reducible apply State.setCluster_keeps
    | with_reducible apply State.setPort_keeps
    | split
theorem State.translate_keeps (s : State) (w : Site) (job : Nat) (x : XRec) (va : Nat)
    (hk : Kept s) : Kept (State.translate s w job x va).2 := by
  unfold State.translate
  repeat' first
    | with_reducible assumption
    | with_reducible apply State.tlbAdd_keeps
    | with_reducible apply State.walk_keeps
    | with_reducible refine of_snd (by assumption) ?_
    | with_reducible apply ite_keeps
    | split
theorem State.translateFor_keeps (s : State) (w : Site) (job : Nat) (x : XRec) (va : Nat) (write : Bool)
    (hk : Kept s) : Kept (State.translateFor s w job x va write).2 := by
  unfold State.translateFor
  repeat' first
    | with_reducible assumption
    | with_reducible apply State.translate_keeps
    | with_reducible apply State.walk_keeps
    | with_reducible refine of_snd (by assumption) ?_
    | split
theorem State.tlbForget_keeps (s : State) (p : TlbEntry → Bool) (hk : Kept s) :
    Kept (State.tlbForget s p) := by
  unfold State.tlbForget
  repeat' first
    | with_reducible assumption
    | with_reducible apply kept_mem
    | with_reducible apply kept_strands
    | with_reducible apply kept_dv
    | extract_lets
    | (simp -zeta -proj only [kept_mk_iff]; refine ⟨?_, ?_, ?_⟩)

theorem State.dirtyCell_keeps (s : State) (pa : Nat) (hk : Kept s) :
    Kept (State.dirtyCell s pa) := by
  unfold State.dirtyCell
  repeat' first
    | with_reducible assumption
    | with_reducible apply State.setSlice_keeps
theorem State.l1Drop_keeps (s : State) (pa : Nat) (keep : Option Nat)
    (hk : Kept s) : Kept (State.l1Drop s pa keep) := by
  unfold State.l1Drop
  repeat' first
    | with_reducible assumption
    | with_reducible apply kept_mem
    | with_reducible apply kept_strands
    | with_reducible apply kept_dv
    | (simp -zeta -proj only [kept_mk_iff]; refine ⟨?_, ?_, ?_⟩)
theorem State.l1Fill_keeps (s : State) (p : Nat) (pa : Nat) (hk : Kept s) :
    Kept (State.l1Fill s p pa) := by
  unfold State.l1Fill
  repeat' first
    | with_reducible assumption
    | with_reducible apply State.setPort_keeps
    | with_reducible apply ite_keeps
theorem State.writeField_keeps (s : State) (a : Nat) (n : Nat) (v : Nat)
    (hk : Kept s) : Kept (State.writeField s a n v) := by
  unfold State.writeField
  repeat' first
    | with_reducible assumption
    | with_reducible apply kept_mem
    | with_reducible apply State.dirtyCell_keeps
    | with_reducible apply State.l1Drop_keeps
    | with_reducible apply State.setMem_keeps
    | with_reducible apply Memory.setCell_wf
theorem State.putField_keeps (s : State) (job : Nat) (a : Nat) (n : Nat) (v : Nat)
    (hk : Kept s) : Kept (State.putField s job a n v) := by
  unfold State.putField
  repeat' first
    | with_reducible assumption
    | with_reducible apply State.countHome_keeps
    | with_reducible apply State.writeField_keeps
theorem State.closeMerges_keeps (s : State) (pa : Nat) (hk : Kept s) :
    Kept (State.closeMerges s pa) := by
  unfold State.closeMerges
  repeat' first
    | with_reducible assumption
    | with_reducible apply kept_mem
    | with_reducible apply kept_strands
    | with_reducible apply kept_dv
    | (simp -zeta -proj only [kept_mk_iff]; refine ⟨?_, ?_, ?_⟩)
theorem State.machineCheck_keeps (s : State) (unit : BitVec 16) (job : Nat) (epc : Word64) (tval : Word64)
    (hk : Kept s) : Kept (State.machineCheck s unit job epc tval) := by
  unfold State.machineCheck
  repeat' first
    | with_reducible assumption
    | with_reducible apply kept_mem
    | with_reducible apply kept_strands
    | with_reducible apply kept_dv
    | with_reducible apply kept_cap
    | with_reducible apply State.setDv_keeps
    | with_reducible apply ite_keeps
    | extract_lets
    | (simp -zeta -proj only [kept_mk_iff]; refine ⟨?_, ?_, ?_⟩)
    | simp -zeta -proj only [device_mk_iff]
theorem State.parkVisit_keeps (s : State) (job : Nat) (a0 : List Nat)
    (hk : Kept s) : Kept (State.parkVisit s job a0) := by
  induction a0 generalizing s with
  | nil =>
    unfold State.parkVisit
    repeat' first
      | with_reducible assumption
  | cons y ys ih =>
    unfold State.parkVisit
    repeat' first
      | with_reducible assumption
      | with_reducible apply State.countHome_keeps
      | with_reducible apply ih
theorem State.setW_keeps (s : State) (pa : Nat) (w : Bool) (hk : Kept s) :
    Kept (State.setW s pa w) := by
  unfold State.setW
  repeat' first
    | with_reducible assumption
    | with_reducible apply kept_mem
    | with_reducible apply State.setMem_keeps
    | with_reducible apply Memory.setSide_wf
theorem State.park_keeps (s : State) (job : Nat) (pa : Nat) (va : Nat) (unit : BitVec 16) (kind : Nat)
    (hk : Kept s) : Kept (State.park s job pa va unit kind).2 := by
  unfold State.park
  repeat' first
    | with_reducible assumption
    | with_reducible apply State.parkVisit_keeps
    | with_reducible apply State.setW_keeps
    | with_reducible apply State.writeField_keeps
    | with_reducible apply ite_keeps
    | split
    | extract_lets
theorem State.setWoken_keeps (s : State) (rec_ : Nat) (b : Bool)
    (hk : Kept s) : Kept (State.setWoken s rec_ b) := by
  unfold State.setWoken
  repeat' first
    | with_reducible assumption
    | with_reducible apply State.writeField_keeps
theorem State.setPlace_keeps (s : State) (u : Waiter) (pl : Place)
    (hk : Kept s) : Kept (State.setPlace s u pl) := by
  unfold State.setPlace
  repeat' first
    | with_reducible assumption
    | with_reducible refine kept_priv ?_
    | with_reducible apply kept_epc
    | with_reducible apply kept_tvec
    | with_reducible apply State.setFunc_keeps
    | with_reducible apply State.setPort_keeps
    | with_reducible apply State.setStrand_keeps
    | split
    | extract_lets
    | (simp -zeta -proj only [strand_mk_iff]; refine ⟨?_, ?_, ?_⟩)
theorem State.unpark_keeps (s : State) (u : Waiter) (rec_ : Nat)
    (hk : Kept s) : Kept (State.unpark s u rec_) := by
  unfold State.unpark
  repeat' first
    | with_reducible assumption
    | with_reducible apply State.machineCheck_keeps
    | with_reducible apply State.parkVisit_keeps
    | with_reducible apply State.setW_keeps
    | with_reducible apply State.writeField_keeps
    | with_reducible apply ite_keeps
    | split
    | extract_lets
theorem State.dropWait_keeps (s : State) (u : Waiter) (hk : Kept s) :
    Kept (State.dropWait s u) := by
  unfold State.dropWait
  repeat' first
    | with_reducible assumption
    | with_reducible apply State.setPlace_keeps
    | with_reducible apply State.setSlice_keeps
    | with_reducible apply State.unpark_keeps
    | split
    | extract_lets
theorem State.parkFailed_keeps (s : State) (u : Waiter) (pa : Nat) (va : Nat)
    (hk : Kept s) : Kept (State.parkFailed s u pa va) := by
  unfold State.parkFailed
  repeat' first
    | with_reducible assumption
    | with_reducible intro _ _
    | with_reducible apply State.asStrand_keeps
    | with_reducible apply State.machineCheck_keeps
    | with_reducible apply State.setPlace_keeps
    | with_reducible apply State.trap_keeps
    | split
theorem State.parkWaiter_keeps (s : State) (u : Waiter) (pa : Nat) (va : Nat) (kind : Nat)
    (hk : Kept s) : Kept (State.parkWaiter s u pa va kind) := by
  unfold State.parkWaiter
  repeat' first
    | with_reducible assumption
    | with_reducible apply State.park_keeps
    | with_reducible apply State.parkFailed_keeps
    | with_reducible apply State.setPlace_keeps
    | with_reducible refine of_snd (by assumption) ?_
    | split
theorem State.evictLine_keeps (s : State) (h : Nat) (line : Nat)
    (hk : Kept s) : Kept (State.evictLine s h line) := by
  unfold State.evictLine
  repeat' first
    | with_reducible assumption
    | with_reducible intro _ _ _
    | with_reducible apply foldl_keeps
    | with_reducible apply kept_mem
    | with_reducible apply kept_strands
    | with_reducible apply kept_dv
    | with_reducible apply State.parkWaiter_keeps
    | with_reducible apply State.setSlice_keeps
    | extract_lets
    | (simp -zeta -proj only [kept_mk_iff]; refine ⟨?_, ?_, ?_⟩)
theorem State.fillLine_keeps (s : State) (job : Nat) (pa : Nat) (va : Nat)
    (hk : Kept s) : Kept (State.fillLine s job pa va) := by
  unfold State.fillLine
  repeat' first
    | with_reducible assumption
    | with_reducible apply State.evictLine_keeps
    | with_reducible apply State.setSlice_keeps
    | with_reducible apply ite_keeps
    | split
theorem State.storeCell_keeps (s : State) (job : Nat) (pa : Nat) (va : Nat) (x : Cell) (keep : Option Nat)
    (hk : Kept s) : Kept (State.storeCell s job pa va x keep) := by
  unfold State.storeCell
  repeat' first
    | with_reducible assumption
    | with_reducible apply kept_mem
    | with_reducible apply State.dirtyCell_keeps
    | with_reducible apply State.fillLine_keeps
    | with_reducible apply State.l1Drop_keeps
    | with_reducible apply State.setMem_keeps
    | with_reducible apply Memory.setCell_wf
theorem State.enterWait_keeps (s : State) (u : Waiter) (pa : Nat) (va : Nat) (kind : Nat) (discarded : Bool)
    (hk : Kept s) : Kept (State.enterWait s u pa va kind discarded) := by
  unfold State.enterWait
  repeat' first
    | with_reducible assumption
    | with_reducible apply State.fillLine_keeps
    | with_reducible apply State.parkWaiter_keeps
    | with_reducible apply State.setPlace_keeps
    | with_reducible apply State.setSlice_keeps
    | with_reducible apply ite_keeps
theorem State.reWait_keeps (s : State) (u : Waiter) (pa : Nat) (va : Nat) (kind : Nat)
    (hk : Kept s) : Kept (State.reWait s u pa va kind) := by
  unfold State.reWait
  repeat' first
    | with_reducible assumption
    | with_reducible apply State.parkWaiter_keeps
    | with_reducible apply State.setPlace_keeps
    | with_reducible apply State.setWoken_keeps
    | split
theorem State.wakeRecords_keeps (s : State) (full : Bool) (a0 : List Nat) (a1 : Bool)
    (hk : Kept s) : Kept (State.wakeRecords s full a0 a1).2 := by
  induction a0 generalizing s a1 with
  | nil =>
    unfold State.wakeRecords
    repeat' first
      | with_reducible assumption
  | cons y ys ih =>
    unfold State.wakeRecords
    repeat' first
      | with_reducible assumption
      | with_reducible apply State.setPlace_keeps
      | with_reducible apply State.setWoken_keeps
      | with_reducible apply ih
      | split
      | extract_lets
theorem State.wakeTable_keeps (s : State) (pa : Nat) (full : Bool) (a0 : List WaitEntry) (a1 : Bool)
    (hk : Kept s) : Kept (State.wakeTable s pa full a0 a1) := by
  induction a0 generalizing s a1 with
  | nil =>
    unfold State.wakeTable
    repeat' first
      | with_reducible assumption
  | cons y ys ih =>
    unfold State.wakeTable
    repeat' first
      | with_reducible assumption
      | with_reducible apply State.setPlace_keeps
      | with_reducible apply State.setSlice_keeps
      | with_reducible apply ih
      | with_reducible apply ite_keeps
theorem State.wake_keeps (s : State) (job : Nat) (pa : Nat) (va : Nat) (full : Bool)
    (hk : Kept s) : Kept (State.wake s job pa va full) := by
  unfold State.wake
  repeat' first
    | with_reducible assumption
    | with_reducible apply State.machineCheck_keeps
    | with_reducible apply State.parkVisit_keeps
    | with_reducible apply State.setW_keeps
    | with_reducible apply State.wakeRecords_keeps
    | with_reducible apply State.wakeTable_keeps
    | with_reducible apply ite_keeps
theorem State.latchReady_keeps (s : State) (pa : Nat) (hk : Kept s) :
    Kept (State.latchReady s pa) := by
  unfold State.latchReady
  repeat' first
    | with_reducible assumption
    | with_reducible apply kept_mem
    | with_reducible apply kept_strands
    | with_reducible apply kept_dv
    | with_reducible apply ite_keeps
    | extract_lets
    | (simp -zeta -proj only [kept_mk_iff]; refine ⟨?_, ?_, ?_⟩)
theorem State.setFe_keeps (s : State) (job : Nat) (pa : Nat) (va : Nat) (fe : BitVec 2)
    (hk : Kept s) : Kept (State.setFe s job pa va fe) := by
  unfold State.setFe
  repeat' first
    | with_reducible assumption
    | with_reducible apply kept_mem
    | with_reducible apply State.dirtyCell_keeps
    | with_reducible apply State.fillLine_keeps
    | with_reducible apply State.l1Drop_keeps
    | with_reducible apply State.latchReady_keeps
    | with_reducible apply State.setMem_keeps
    | with_reducible apply State.wake_keeps
    | with_reducible apply Memory.setSide_wf
    | with_reducible apply ite_keeps
theorem State.gate_keeps (s : State) (u : Option Waiter) (job : Nat) (pa : Nat) (va : Nat) (write : Bool) (fe : Option (BitVec 2))
    (hk : Kept s) : GateOk (State.gate s u job pa va write fe) := by
  unfold State.gate
  repeat' first
    | with_reducible assumption
    | with_reducible apply gateOk_pass
    | with_reducible apply gateOk_invalid
    | with_reducible apply gateOk_held
    | with_reducible apply gateOk_damaged
    | with_reducible apply State.closeMerges_keeps
    | with_reducible apply State.parkVisit_keeps
    | split
    | extract_lets
theorem State.partialWrite_keeps (s : State) (job : Nat) (pa : Nat) (va : Nat) (n : Nat) (v : Nat) (share : BitVec 28) (keep : Option Nat)
    (hk : Kept s) : Kept (State.partialWrite s job pa va n v share keep) := by
  unfold State.partialWrite
  repeat' first
    | with_reducible assumption
    | with_reducible apply State.countHome_keeps
    | with_reducible apply State.storeCell_keeps
    | split
    | extract_lets
theorem State.wholeWrite_keeps (s : State) (job : Nat) (pa : Nat) (va : Nat) (d : CellData) (code : BitVec 28)
    (hk : Kept s) : Kept (State.wholeWrite s job pa va d code) := by
  unfold State.wholeWrite
  repeat' first
    | with_reducible assumption
    | with_reducible apply State.storeCell_keeps
theorem State.sliceRmw_keeps (s : State) (job : Nat) (pa : Nat) (va : Nat) (n : Nat) (f : Nat → Nat)
    (hk : Kept s) : Kept (State.sliceRmw s job pa va n f).2 := by
  unfold State.sliceRmw
  repeat' first
    | with_reducible assumption
    | with_reducible apply State.countHome_keeps
    | with_reducible apply State.storeCell_keeps
    | split
    | extract_lets
theorem State.setWaiters_keeps (s : State) (job : Nat) (entry : Nat)
    (hk : Kept s) : Kept (State.setWaiters s job entry) := by
  unfold State.setWaiters
  repeat' first
    | with_reducible assumption
    | with_reducible apply State.putField_keeps
theorem State.revive_keeps (s : State) (job : Nat) (va : Nat) (entry : Nat) (big : Bool)
    (hk : Kept s) : Kept (State.revive s job va entry big) := by
  unfold State.revive
  repeat' first
    | with_reducible assumption
    | with_reducible apply kept_mem
    | with_reducible apply kept_strands
    | with_reducible apply kept_dv
    | with_reducible apply State.putField_keeps
    | with_reducible apply State.setMem_keeps
    | with_reducible apply State.tlbForget_keeps
    | with_reducible apply reviveSides_wf
    | with_reducible apply Memory.filter_wf
    | with_reducible apply ite_keeps
    | split
    | extract_lets
    | (simp -zeta -proj only [kept_mk_iff]; refine ⟨?_, ?_, ?_⟩)

theorem State.keepProgress_keeps (s : State) (l : Launch) (hk : Kept s) :
    Kept (State.keepProgress s l) := by
  unfold State.keepProgress
  repeat' first
    | with_reducible assumption
    | with_reducible apply kept_mem
    | with_reducible apply kept_strands
    | with_reducible apply kept_dv
    | (simp -zeta -proj only [kept_mk_iff]; refine ⟨?_, ?_, ?_⟩)
theorem State.openWindow_keeps (s : State) (l : Nat) (hk : Kept s) :
    Kept (State.openWindow s l) := by
  unfold State.openWindow
  repeat' first
    | with_reducible assumption
    | with_reducible apply State.modLaunch_keeps
    | with_reducible apply ite_keeps
    | split
theorem State.leaveMerges_keeps (s : State) (l : Launch) (hk : Kept s) :
    Kept (State.leaveMerges s l) := by
  unfold State.leaveMerges
  repeat' first
    | with_reducible assumption
    | with_reducible apply kept_mem
    | with_reducible apply kept_strands
    | with_reducible apply kept_dv
    | (simp -zeta -proj only [kept_mk_iff]; refine ⟨?_, ?_, ?_⟩)
theorem State.modGroup_keeps (s : State) (l : Nat) (num : BitVec 14) (f : Group → Group)
    (hk : Kept s) : Kept (State.modGroup s l num f) := by
  unfold State.modGroup
  repeat' first
    | with_reducible assumption
    | with_reducible apply State.modLaunch_keeps
theorem State.restoreWindow_keeps (s : State) (l : Nat) (hk : Kept s) :
    Kept (State.restoreWindow s l) := by
  unfold State.restoreWindow
  repeat' first
    | with_reducible assumption
    | with_reducible apply kept_mem
    | with_reducible apply kept_strands
    | with_reducible apply kept_dv
    | with_reducible apply State.leaveMerges_keeps
    | with_reducible apply State.modLaunch_keeps
    | with_reducible apply ite_keeps
    | split
    | extract_lets
    | (simp -zeta -proj only [kept_mk_iff]; refine ⟨?_, ?_, ?_⟩)
theorem State.keepFault_keeps (s : State) (u : UnitRef) (w : Word64)
    (hk : Kept s) : Kept (State.keepFault s u w) := by
  unfold State.keepFault
  repeat' first
    | with_reducible assumption
    | with_reducible apply State.setElement_keeps
    | with_reducible apply State.setPort_keeps
    | with_reducible apply State.setTile_keeps
    | split
theorem State.haltStrand_keeps (s : State) (l : Launch) (w : Word64) (k : Nat)
    (hk : Kept s) : Kept (State.haltStrand s l w k) := by
  unfold State.haltStrand
  repeat' first
    | with_reducible assumption
    | with_reducible intro _ _
    | with_reducible apply State.asStrand_keeps
    | with_reducible apply State.dropWait_keeps
    | with_reducible apply State.retireReg_keeps
    | with_reducible apply State.trap_keeps
    | with_reducible apply ite_keeps
    | split
theorem State.stepEnded_keeps (s : State) (l : Launch) (num : BitVec 14) (n : Nat)
    (hk : Kept s) : Kept (State.stepEnded s l num n) :=
  ⟨hk.mem, strandsKept_map (fun x => by dsimp only; split <;> rfl)
    (fun x k h => by dsimp only; split; exacts [⟨h.1, h.2.1, h.2.2⟩, h]) hk.strands, hk.dv⟩
theorem State.unstep_keeps (s : State) (l : Launch) (num : BitVec 14)
    (hk : Kept s) : Kept (State.unstep s l num) := by
  unfold State.unstep
  repeat' first
    | with_reducible assumption
    | with_reducible apply kept_mem
    | with_reducible apply kept_strands
    | with_reducible apply kept_dv
    | (simp -zeta -proj only [kept_mk_iff]; refine ⟨?_, ?_, ?_⟩)
theorem State.stopGroups_keeps (s : State) (l : Launch) (hk : Kept s) :
    Kept (State.stopGroups s l) := by
  unfold State.stopGroups
  repeat' first
    | with_reducible assumption
    | with_reducible intro _ _ _
    | with_reducible apply foldl_keeps
    | with_reducible apply State.modGroup_keeps
    | with_reducible apply State.stepEnded_keeps
    | with_reducible apply State.unstep_keeps
    | with_reducible apply ite_keeps
theorem State.dropCommands_keeps (s : State) (l : Launch) (hk : Kept s) :
    Kept (State.dropCommands s l) := by
  unfold State.dropCommands
  repeat' first
    | with_reducible assumption
    | with_reducible intro _ _ _
    | with_reducible apply foldl_keeps
    | with_reducible apply kept_mem
    | with_reducible apply kept_strands
    | with_reducible apply kept_dv
    | with_reducible apply State.dropWait_keeps
    | with_reducible apply State.leaveMerges_keeps
    | extract_lets
    | (simp -zeta -proj only [kept_mk_iff]; refine ⟨?_, ?_, ?_⟩)
theorem State.haltLaunch_keeps (s : State) (l : Nat) (w : Word64)
    (hk : Kept s) : Kept (State.haltLaunch s l w) := by
  unfold State.haltLaunch
  repeat' first
    | with_reducible assumption
    | with_reducible apply State.modLaunch_keeps
theorem State.keepFaults_keeps (s old : State) (l : Launch) (hk : Kept s) : Kept (State.keepFaults s old l) := by
  unfold State.keepFaults
  extract_lets s1 s2
  have h1 : Kept s1 := foldl_keeps _ _ _ (fun t x h => ite_keeps (State.keepFault_keeps _ _ _ h) h) hk
  have h2 : Kept s2 := foldl_keeps _ _ _ (fun t x h => ite_keeps (State.keepFault_keeps _ _ _ h) h) h1
  exact foldl_keeps _ _ _ (fun t x h => ite_keeps (State.keepFault_keeps _ _ _ h) h) h2
theorem State.halt_keeps (s : State) (x : Launch) (hk : Kept s) :
    Kept (State.halt s x) := by
  unfold State.halt
  repeat' first
    | with_reducible assumption
    | with_reducible intro _ _ _
    | with_reducible apply foldl_keeps
    | with_reducible apply State.dropCommands_keeps
    | with_reducible apply State.haltStrand_keeps
    | with_reducible apply State.keepFaults_keeps
    | with_reducible apply State.modLaunch_keeps
    | with_reducible apply State.restoreWindow_keeps
    | with_reducible apply State.stopGroups_keeps
    | split
theorem State.settle_keeps (s : State) (hk : Kept s) :
    Kept (State.settle s) := by
  unfold State.settle
  repeat' first
    | with_reducible assumption
    | with_reducible intro _ _ _
    | with_reducible apply foldl_keeps
    | with_reducible apply State.halt_keeps
theorem State.elementFault_keeps (s : State) (u : UnitRef) (l : Launch) (cause : Nat) (slot : Nat) (ecode : Nat) (bank : Nat) (info : Nat)
    (hk : Kept s) : Kept (State.elementFault s u l cause slot ecode bank info) := by
  unfold State.elementFault
  repeat' first
    | with_reducible assumption
    | with_reducible apply State.haltLaunch_keeps
    | with_reducible apply State.keepFault_keeps
    | with_reducible apply State.trubAdd_keeps
theorem State.unitFault_keeps (s : State) (u : UnitRef) (cause : Nat) (info : Nat)
    (hk : Kept s) : Kept (State.unitFault s u cause info) := by
  unfold State.unitFault
  repeat' first
    | with_reducible assumption
    | with_reducible apply State.elementFault_keeps
    | with_reducible apply State.keepFault_keeps
    | split
theorem State.cancelTrap_keeps (s : State) (hk : Kept s) :
    Kept (State.cancelTrap s) := by
  unfold State.cancelTrap
  repeat' first
    | with_reducible assumption
    | with_reducible apply State.dropWait_keeps
    | with_reducible apply State.trap_keeps
theorem State.waitOn_keeps (s : State) (i : Instr) (pa : Nat) (va : Nat) (kind : Nat) (discarded : Bool)
    (hk : Kept s) : Kept (State.waitOn s i pa va kind discarded) := by
  unfold State.waitOn
  repeat' first
    | with_reducible assumption
    | with_reducible apply State.cancelTrap_keeps
    | with_reducible apply State.dropWait_keeps
    | with_reducible apply State.enterWait_keeps
    | with_reducible apply State.hold_keeps
    | with_reducible apply State.reWait_keeps
    | with_reducible apply State.trap_keeps
    | with_reducible apply ite_keeps
theorem State.waitFor_keeps (s : State) (i : Instr) (hk : Kept s) :
    Kept (State.waitFor s i) := by
  unfold State.waitFor
  repeat' first
    | with_reducible assumption
    | with_reducible apply State.hold_keeps
theorem State.feCheck_keeps (s : State) (pa : Nat) (va : Nat) (hk : Kept s) :
    Kept (State.feCheck s pa va) := by
  unfold State.feCheck
  repeat' first
    | with_reducible assumption
    | with_reducible apply State.dropWait_keeps
    | with_reducible apply State.feNote_keeps
    | with_reducible apply State.trap_keeps
theorem State.strandGate_keeps (s : State) (i : Instr) (pa : Nat) (va : Nat) (write : Bool) (fe : Option (BitVec 2)) (f : State → State)
    (hf : ∀ x0, Kept x0 → Kept (f x0)) (hk : Kept s) : Kept (State.strandGate s i pa va write fe f) := by
  unfold State.strandGate
  repeat' first
    | with_reducible assumption
    | with_reducible apply State.feCheck_keeps
    | with_reducible apply State.gate_keeps
    | with_reducible apply State.trap_keeps
    | with_reducible apply State.waitFor_keeps
    | apply hf
    | with_reducible refine of_pass (by assumption) ?_
    | with_reducible refine of_invalid (by assumption) ?_
    | with_reducible refine of_held (by assumption) ?_
    | with_reducible refine of_damaged (by assumption) ?_
    | split

end Sys2Proof.Machine
end

