-- ==== Sys2Proof/Laws/KeepStrand.lean ====
section
/-! SUPPORT. The instructions of the sequencer that compute, branch, access memory and registers keep the invariant: one lemma per definition, citing the lemmas of what it calls. -/

set_option linter.unusedTactic false
set_option linter.unreachableTactic false
set_option linter.unusedVariables false
set_option linter.unusedSimpArgs false
set_option maxRecDepth 4096

namespace Sys2Proof.Machine

theorem State.aluR_keeps (s : State) (f : Word64 → Word64 → Word64) (gd : GReg) (ga : GReg) (gb : GReg)
    (hk : Kept s) : OutOk (State.aluR s f gd ga gb) := by
  unfold State.aluR
  repeat' first
    | with_reducible assumption
    | with_reducible apply outOk_next
    | with_reducible apply State.retireReg_keeps
theorem State.aluU_keeps (s : State) (f : Word64 → Word64) (gd : GReg) (ga : GReg)
    (hk : Kept s) : OutOk (State.aluU s f gd ga) := by
  unfold State.aluU
  repeat' first
    | with_reducible assumption
    | with_reducible apply outOk_next
    | with_reducible apply State.retireReg_keeps
theorem State.aluI_keeps (s : State) (f : Word64 → Word64 → Word64) (gd : GReg) (ga : GReg) (b : Word64)
    (hk : Kept s) : OutOk (State.aluI s f gd ga b) := by
  unfold State.aluI
  repeat' first
    | with_reducible assumption
    | with_reducible apply outOk_next
    | with_reducible apply State.retireReg_keeps
theorem execAdd_keeps (gd : GReg) (ga : GReg) (gb : GReg) (s : State)
    (hk : Kept s) : OutOk (execAdd gd ga gb s) := by
  unfold execAdd
  repeat' first
    | with_reducible assumption
    | with_reducible apply State.aluR_keeps
theorem execSub_keeps (gd : GReg) (ga : GReg) (gb : GReg) (s : State)
    (hk : Kept s) : OutOk (execSub gd ga gb s) := by
  unfold execSub
  repeat' first
    | with_reducible assumption
    | with_reducible apply State.aluR_keeps
theorem execMul_keeps (gd : GReg) (ga : GReg) (gb : GReg) (s : State)
    (hk : Kept s) : OutOk (execMul gd ga gb s) := by
  unfold execMul
  repeat' first
    | with_reducible assumption
    | with_reducible apply State.aluR_keeps
theorem execMulh_keeps (gd : GReg) (ga : GReg) (gb : GReg) (s : State)
    (hk : Kept s) : OutOk (execMulh gd ga gb s) := by
  unfold execMulh
  repeat' first
    | with_reducible assumption
    | with_reducible apply State.aluR_keeps
theorem execMulhu_keeps (gd : GReg) (ga : GReg) (gb : GReg) (s : State)
    (hk : Kept s) : OutOk (execMulhu gd ga gb s) := by
  unfold execMulhu
  repeat' first
    | with_reducible assumption
    | with_reducible apply State.aluR_keeps
theorem execDiv_keeps (gd : GReg) (ga : GReg) (gb : GReg) (s : State)
    (hk : Kept s) : OutOk (execDiv gd ga gb s) := by
  unfold execDiv
  repeat' first
    | with_reducible assumption
    | with_reducible apply State.aluR_keeps
theorem execDivu_keeps (gd : GReg) (ga : GReg) (gb : GReg) (s : State)
    (hk : Kept s) : OutOk (execDivu gd ga gb s) := by
  unfold execDivu
  repeat' first
    | with_reducible assumption
    | with_reducible apply State.aluR_keeps
theorem execRem_keeps (gd : GReg) (ga : GReg) (gb : GReg) (s : State)
    (hk : Kept s) : OutOk (execRem gd ga gb s) := by
  unfold execRem
  repeat' first
    | with_reducible assumption
    | with_reducible apply State.aluR_keeps
theorem execRemu_keeps (gd : GReg) (ga : GReg) (gb : GReg) (s : State)
    (hk : Kept s) : OutOk (execRemu gd ga gb s) := by
  unfold execRemu
  repeat' first
    | with_reducible assumption
    | with_reducible apply State.aluR_keeps
theorem execAnd_keeps (gd : GReg) (ga : GReg) (gb : GReg) (s : State)
    (hk : Kept s) : OutOk (execAnd gd ga gb s) := by
  unfold execAnd
  repeat' first
    | with_reducible assumption
    | with_reducible apply State.aluR_keeps
theorem execOr_keeps (gd : GReg) (ga : GReg) (gb : GReg) (s : State)
    (hk : Kept s) : OutOk (execOr gd ga gb s) := by
  unfold execOr
  repeat' first
    | with_reducible assumption
    | with_reducible apply State.aluR_keeps
theorem execXor_keeps (gd : GReg) (ga : GReg) (gb : GReg) (s : State)
    (hk : Kept s) : OutOk (execXor gd ga gb s) := by
  unfold execXor
  repeat' first
    | with_reducible assumption
    | with_reducible apply State.aluR_keeps
theorem execShl_keeps (gd : GReg) (ga : GReg) (gb : GReg) (s : State)
    (hk : Kept s) : OutOk (execShl gd ga gb s) := by
  unfold execShl
  repeat' first
    | with_reducible assumption
    | with_reducible apply State.aluR_keeps
theorem execShr_keeps (gd : GReg) (ga : GReg) (gb : GReg) (s : State)
    (hk : Kept s) : OutOk (execShr gd ga gb s) := by
  unfold execShr
  repeat' first
    | with_reducible assumption
    | with_reducible apply State.aluR_keeps
theorem execSar_keeps (gd : GReg) (ga : GReg) (gb : GReg) (s : State)
    (hk : Kept s) : OutOk (execSar gd ga gb s) := by
  unfold execSar
  repeat' first
    | with_reducible assumption
    | with_reducible apply State.aluR_keeps
theorem execClz_keeps (gd : GReg) (ga : GReg) (s : State) (hk : Kept s) :
    OutOk (execClz gd ga s) := by
  unfold execClz
  repeat' first
    | with_reducible assumption
    | with_reducible apply State.aluU_keeps
theorem execCtz_keeps (gd : GReg) (ga : GReg) (s : State) (hk : Kept s) :
    OutOk (execCtz gd ga s) := by
  unfold execCtz
  repeat' first
    | with_reducible assumption
    | with_reducible apply State.aluU_keeps
theorem execPopc_keeps (gd : GReg) (ga : GReg) (s : State) (hk : Kept s) :
    OutOk (execPopc gd ga s) := by
  unfold execPopc
  repeat' first
    | with_reducible assumption
    | with_reducible apply State.aluU_keeps
theorem execMin_keeps (gd : GReg) (ga : GReg) (gb : GReg) (s : State)
    (hk : Kept s) : OutOk (execMin gd ga gb s) := by
  unfold execMin
  repeat' first
    | with_reducible assumption
    | with_reducible apply State.aluR_keeps
theorem execMax_keeps (gd : GReg) (ga : GReg) (gb : GReg) (s : State)
    (hk : Kept s) : OutOk (execMax gd ga gb s) := by
  unfold execMax
  repeat' first
    | with_reducible assumption
    | with_reducible apply State.aluR_keeps
theorem execMinu_keeps (gd : GReg) (ga : GReg) (gb : GReg) (s : State)
    (hk : Kept s) : OutOk (execMinu gd ga gb s) := by
  unfold execMinu
  repeat' first
    | with_reducible assumption
    | with_reducible apply State.aluR_keeps
theorem execMaxu_keeps (gd : GReg) (ga : GReg) (gb : GReg) (s : State)
    (hk : Kept s) : OutOk (execMaxu gd ga gb s) := by
  unfold execMaxu
  repeat' first
    | with_reducible assumption
    | with_reducible apply State.aluR_keeps
theorem execSlt_keeps (gd : GReg) (ga : GReg) (gb : GReg) (s : State)
    (hk : Kept s) : OutOk (execSlt gd ga gb s) := by
  unfold execSlt
  repeat' first
    | with_reducible assumption
    | with_reducible apply State.aluR_keeps
theorem execSltu_keeps (gd : GReg) (ga : GReg) (gb : GReg) (s : State)
    (hk : Kept s) : OutOk (execSltu gd ga gb s) := by
  unfold execSltu
  repeat' first
    | with_reducible assumption
    | with_reducible apply State.aluR_keeps
theorem execAddI_keeps (gd : GReg) (ga : GReg) (imm : BitVec 16) (s : State)
    (hk : Kept s) : OutOk (execAddI gd ga imm s) := by
  unfold execAddI
  repeat' first
    | with_reducible assumption
    | with_reducible apply State.aluI_keeps
theorem execMulI_keeps (gd : GReg) (ga : GReg) (imm : BitVec 16) (s : State)
    (hk : Kept s) : OutOk (execMulI gd ga imm s) := by
  unfold execMulI
  repeat' first
    | with_reducible assumption
    | with_reducible apply State.aluI_keeps
theorem execAndI_keeps (gd : GReg) (ga : GReg) (imm : BitVec 16) (s : State)
    (hk : Kept s) : OutOk (execAndI gd ga imm s) := by
  unfold execAndI
  repeat' first
    | with_reducible assumption
    | with_reducible apply State.aluI_keeps
theorem execOrI_keeps (gd : GReg) (ga : GReg) (imm : BitVec 16) (s : State)
    (hk : Kept s) : OutOk (execOrI gd ga imm s) := by
  unfold execOrI
  repeat' first
    | with_reducible assumption
    | with_reducible apply State.aluI_keeps
theorem execXorI_keeps (gd : GReg) (ga : GReg) (imm : BitVec 16) (s : State)
    (hk : Kept s) : OutOk (execXorI gd ga imm s) := by
  unfold execXorI
  repeat' first
    | with_reducible assumption
    | with_reducible apply State.aluI_keeps
theorem execMinI_keeps (gd : GReg) (ga : GReg) (imm : BitVec 16) (s : State)
    (hk : Kept s) : OutOk (execMinI gd ga imm s) := by
  unfold execMinI
  repeat' first
    | with_reducible assumption
    | with_reducible apply State.aluI_keeps
theorem execMaxI_keeps (gd : GReg) (ga : GReg) (imm : BitVec 16) (s : State)
    (hk : Kept s) : OutOk (execMaxI gd ga imm s) := by
  unfold execMaxI
  repeat' first
    | with_reducible assumption
    | with_reducible apply State.aluI_keeps
theorem execSltI_keeps (gd : GReg) (ga : GReg) (imm : BitVec 16) (s : State)
    (hk : Kept s) : OutOk (execSltI gd ga imm s) := by
  unfold execSltI
  repeat' first
    | with_reducible assumption
    | with_reducible apply State.aluI_keeps
theorem execSltuI_keeps (gd : GReg) (ga : GReg) (imm : BitVec 16) (s : State)
    (hk : Kept s) : OutOk (execSltuI gd ga imm s) := by
  unfold execSltuI
  repeat' first
    | with_reducible assumption
    | with_reducible apply State.aluI_keeps
theorem execShlI_keeps (gd : GReg) (ga : GReg) (c : BitVec 6) (s : State)
    (hk : Kept s) : OutOk (execShlI gd ga c s) := by
  unfold execShlI
  repeat' first
    | with_reducible assumption
    | with_reducible apply outOk_next
    | with_reducible apply State.retireReg_keeps
theorem execShrI_keeps (gd : GReg) (ga : GReg) (c : BitVec 6) (s : State)
    (hk : Kept s) : OutOk (execShrI gd ga c s) := by
  unfold execShrI
  repeat' first
    | with_reducible assumption
    | with_reducible apply outOk_next
    | with_reducible apply State.retireReg_keeps
theorem execSarI_keeps (gd : GReg) (ga : GReg) (c : BitVec 6) (s : State)
    (hk : Kept s) : OutOk (execSarI gd ga c s) := by
  unfold execSarI
  repeat' first
    | with_reducible assumption
    | with_reducible apply outOk_next
    | with_reducible apply State.retireReg_keeps
theorem execLih_keeps (gd : GReg) (ga : GReg) (imm : BitVec 16) (s : State)
    (hk : Kept s) : OutOk (execLih gd ga imm s) := by
  unfold execLih
  repeat' first
    | with_reducible assumption
    | with_reducible apply outOk_next
    | with_reducible apply State.retireReg_keeps

theorem State.branch_keeps (s : State) (c : Bool) (off : BitVec 16)
    (hk : Kept s) : Kept (State.branch s c off) := by
  unfold State.branch
  repeat' first
    | with_reducible assumption
    | with_reducible apply State.goto_keeps
    | with_reducible apply State.retire_keeps
    | with_reducible apply ite_keeps
theorem execBeq_keeps (ga : GReg) (gb : GReg) (off : BitVec 16) (s : State)
    (hk : Kept s) : OutOk (execBeq ga gb off s) := by
  unfold execBeq
  repeat' first
    | with_reducible assumption
    | with_reducible apply outOk_next
    | with_reducible apply State.branch_keeps
theorem execBne_keeps (ga : GReg) (gb : GReg) (off : BitVec 16) (s : State)
    (hk : Kept s) : OutOk (execBne ga gb off s) := by
  unfold execBne
  repeat' first
    | with_reducible assumption
    | with_reducible apply outOk_next
    | with_reducible apply State.branch_keeps
theorem execBlt_keeps (ga : GReg) (gb : GReg) (off : BitVec 16) (s : State)
    (hk : Kept s) : OutOk (execBlt ga gb off s) := by
  unfold execBlt
  repeat' first
    | with_reducible assumption
    | with_reducible apply outOk_next
    | with_reducible apply State.branch_keeps
theorem execBge_keeps (ga : GReg) (gb : GReg) (off : BitVec 16) (s : State)
    (hk : Kept s) : OutOk (execBge ga gb off s) := by
  unfold execBge
  repeat' first
    | with_reducible assumption
    | with_reducible apply outOk_next
    | with_reducible apply State.branch_keeps
theorem execBltu_keeps (ga : GReg) (gb : GReg) (off : BitVec 16) (s : State)
    (hk : Kept s) : OutOk (execBltu ga gb off s) := by
  unfold execBltu
  repeat' first
    | with_reducible assumption
    | with_reducible apply outOk_next
    | with_reducible apply State.branch_keeps
theorem execBgeu_keeps (ga : GReg) (gb : GReg) (off : BitVec 16) (s : State)
    (hk : Kept s) : OutOk (execBgeu ga gb off s) := by
  unfold execBgeu
  repeat' first
    | with_reducible assumption
    | with_reducible apply outOk_next
    | with_reducible apply State.branch_keeps
theorem execJ_keeps (off : BitVec 26) (s : State) (hk : Kept s) :
    OutOk (execJ off s) := by
  unfold execJ
  repeat' first
    | with_reducible assumption
    | with_reducible apply outOk_next
    | with_reducible apply State.goto_keeps
theorem execJal_keeps (off : BitVec 26) (s : State) (hk : Kept s) :
    OutOk (execJal off s) := by
  unfold execJal
  repeat' first
    | with_reducible assumption
    | with_reducible apply outOk_next
    | with_reducible apply State.goto_keeps
    | with_reducible apply State.setReg_keeps
theorem execJalr_keeps (gd : GReg) (ga : GReg) (imm : BitVec 16) (s : State)
    (hk : Kept s) : OutOk (execJalr gd ga imm s) := by
  unfold execJalr
  repeat' first
    | with_reducible assumption
    | with_reducible apply outOk_next
    | with_reducible apply State.goto_keeps
    | with_reducible apply State.setReg_keeps

theorem State.prep_keeps (s : State) (a : Word64) (size : Nat) (write : Bool) (right : Right)
    (hk : Kept s) : Kept (State.prep s a size write right).2 := by
  unfold State.prep
  repeat' first
    | with_reducible assumption
    | with_reducible apply State.translateFor_keeps
    | split
    | extract_lets
theorem State.withAccess_keeps (s : State) (i : Instr) (a : Word64) (size : Nat) (write : Bool) (right : Right) (f : State → Nat → Nat → Bool → Nat → State)
    (hf : ∀ x0 x1 x2 x3 x4, Kept x0 → Kept (f x0 x1 x2 x3 x4)) (hk : Kept s) : Kept (State.withAccess s i a size write right f) := by
  unfold State.withAccess
  repeat' first
    | with_reducible assumption
    | with_reducible apply State.dropWait_keeps
    | with_reducible apply State.prep_keeps
    | with_reducible apply State.revive_keeps
    | with_reducible apply State.trap_keeps
    | with_reducible apply State.waitFor_keeps
    | apply hf
    | with_reducible refine of_snd (by assumption) ?_
    | with_reducible apply ite_keeps
    | split
theorem State.checkedCell_keeps (s : State) (pa : Nat) (va : Nat) (f : State → CellData → State)
    (hf : ∀ x0 x1, Kept x0 → Kept (f x0 x1)) (hk : Kept s) : Kept (State.checkedCell s pa va f) := by
  unfold State.checkedCell
  repeat' first
    | with_reducible assumption
    | with_reducible apply State.countCheck_keeps
    | with_reducible apply State.dropWait_keeps
    | with_reducible apply State.trap_keeps
    | apply hf
    | split
    | extract_lets
theorem State.cacheRead_keeps (s : State) (k : Nat) (pa : Nat) (va : Nat)
    (hk : Kept s) : Kept (State.cacheRead s k pa va) := by
  unfold State.cacheRead
  repeat' first
    | with_reducible assumption
    | with_reducible apply State.fillLine_keeps
    | with_reducible apply State.l1Fill_keeps
    | with_reducible apply ite_keeps
theorem State.readRecord_keeps (s : State) (i : Instr) (a : Word64) (a0 : Nat) (a1 : State → Nat → State)
    (ha1 : ∀ x0 x1, Kept x0 → Kept (a1 x0 x1)) (hk : Kept s) : Kept (State.readRecord s i a a0 a1) := by
  induction a0 generalizing s a a1 with
  | zero =>
    unfold State.readRecord
    repeat' first
      | with_reducible assumption
      | apply ha1
  | succ n ih =>
    unfold State.readRecord
    repeat' first
      | with_reducible assumption
      | with_reducible intro _ _ _
      | with_reducible apply State.cacheRead_keeps
      | with_reducible apply State.checkedCell_keeps
      | with_reducible apply State.feCheck_keeps
      | with_reducible apply State.withAccess_keeps
      | apply ha1
      | with_reducible apply ih
      | with_reducible apply ite_keeps
theorem State.performPosted_keeps (s : State) (k : Nat) (n : Nat) (p : Posted)
    (hk : Kept s) : Kept (State.performPosted s k n p) := by
  unfold State.performPosted
  repeat' first
    | with_reducible assumption
    | with_reducible refine kept_priv ?_
    | with_reducible apply kept_epc
    | with_reducible apply kept_tvec
    | with_reducible apply State.feNote_keeps
    | with_reducible apply State.gate_keeps
    | with_reducible apply State.machineCheck_keeps
    | with_reducible apply State.partialWrite_keeps
    | with_reducible apply State.setFe_keeps
    | with_reducible apply State.setStrand_keeps
    | with_reducible refine of_pass (by assumption) ?_
    | with_reducible refine of_invalid (by assumption) ?_
    | with_reducible refine of_held (by assumption) ?_
    | with_reducible refine of_damaged (by assumption) ?_
    | split
    | extract_lets
    | (simp -zeta -proj only [strand_mk_iff]; refine ⟨?_, ?_, ?_⟩)

theorem State.loaded_keeps (s : State) (gd : GReg) (d : CellData) (va : Nat) (n : Nat)
    (hk : Kept s) : Kept (State.loaded s gd d va n) := by
  unfold State.loaded
  repeat' first
    | with_reducible assumption
    | with_reducible apply State.retireReg_keeps
theorem execLd_keeps (size : BitVec 2) (gd : GReg) (ga : GReg) (disp : BitVec 11) (s : State)
    (hk : Kept s) : OutOk (execLd size gd ga disp s) := by
  unfold execLd
  repeat' first
    | with_reducible assumption
    | with_reducible intro _ _ _
    | with_reducible apply outOk_next
    | with_reducible apply State.cacheRead_keeps
    | with_reducible apply State.checkedCell_keeps
    | with_reducible apply State.feCheck_keeps
    | with_reducible apply State.loaded_keeps
    | with_reducible apply State.retireReg_keeps
    | with_reducible apply State.waitFor_keeps
    | with_reducible apply State.withAccess_keeps
    | with_reducible apply ite_keeps
theorem State.slowLoad_keeps (s : State) (i : Instr) (kind : Nat) (n : Nat) (gd : GReg) (a : Word64)
    (hk : Kept s) : Kept (State.slowLoad s i kind n gd a) := by
  unfold State.slowLoad
  repeat' first
    | with_reducible assumption
    | with_reducible intro _ _ _
    | with_reducible intro _ _
    | with_reducible apply State.checkedCell_keeps
    | with_reducible apply State.dropWait_keeps
    | with_reducible apply State.fillLine_keeps
    | with_reducible apply State.loaded_keeps
    | with_reducible apply State.setFe_keeps
    | with_reducible apply State.setWaiters_keeps
    | with_reducible apply State.strandGate_keeps
    | with_reducible apply State.waitFor_keeps
    | with_reducible apply State.waitOn_keeps
    | with_reducible apply State.withAccess_keeps
    | with_reducible apply ite_keeps
theorem execLdW_keeps (size : BitVec 2) (gd : GReg) (ga : GReg) (disp : BitVec 11) (s : State)
    (hk : Kept s) : OutOk (execLdW size gd ga disp s) := by
  unfold execLdW
  repeat' first
    | with_reducible assumption
    | with_reducible apply outOk_next
    | with_reducible apply State.slowLoad_keeps
theorem execLdC_keeps (size : BitVec 2) (gd : GReg) (ga : GReg) (disp : BitVec 11) (s : State)
    (hk : Kept s) : OutOk (execLdC size gd ga disp s) := by
  unfold execLdC
  repeat' first
    | with_reducible assumption
    | with_reducible apply outOk_next
    | with_reducible apply State.slowLoad_keeps
theorem State.post_keeps (s : State) (i : Instr) (size : BitVec 2) (gd : GReg) (a : Word64) (fill : Bool)
    (hk : Kept s) : Kept (State.post s i size gd a fill) := by
  unfold State.post
  repeat' first
    | with_reducible assumption
    | with_reducible intro _ _ _
    | with_reducible refine kept_cur_priv ?_
    | with_reducible apply kept_cur_epc
    | with_reducible apply kept_cur_tvec
    | with_reducible apply State.retire_keeps
    | with_reducible apply State.setCur_keeps
    | with_reducible apply State.withAccess_keeps
    | extract_lets
    | (simp -zeta -proj only [strand_mk_iff]; refine ⟨?_, ?_, ?_⟩)
theorem execSt_keeps (size : BitVec 2) (gd : GReg) (ga : GReg) (disp : BitVec 11) (s : State)
    (hk : Kept s) : OutOk (execSt size gd ga disp s) := by
  unfold execSt
  repeat' first
    | with_reducible assumption
    | with_reducible apply outOk_next
    | with_reducible apply State.post_keeps
theorem execStX_keeps (size : BitVec 2) (gd : GReg) (ga : GReg) (disp : BitVec 11) (s : State)
    (hk : Kept s) : OutOk (execStX size gd ga disp s) := by
  unfold execStX
  repeat' first
    | with_reducible assumption
    | with_reducible apply outOk_next
    | with_reducible apply State.post_keeps
theorem execStF_keeps (size : BitVec 2) (gd : GReg) (ga : GReg) (disp : BitVec 11) (s : State)
    (hk : Kept s) : OutOk (execStF size gd ga disp s) := by
  unfold execStF
  repeat' first
    | with_reducible assumption
    | with_reducible intro _ _ _
    | with_reducible intro _ _
    | with_reducible apply outOk_next
    | with_reducible apply State.dropWait_keeps
    | with_reducible apply State.partialWrite_keeps
    | with_reducible apply State.retire_keeps
    | with_reducible apply State.setFe_keeps
    | with_reducible apply State.strandGate_keeps
    | with_reducible apply State.waitFor_keeps
    | with_reducible apply State.waitOn_keeps
    | with_reducible apply State.withAccess_keeps
    | with_reducible apply ite_keeps
    | split
theorem execFeget_keeps (gd : GReg) (ga : GReg) (disp : BitVec 11) (s : State)
    (hk : Kept s) : OutOk (execFeget gd ga disp s) := by
  unfold execFeget
  repeat' first
    | with_reducible assumption
    | with_reducible intro _ _ _
    | with_reducible apply outOk_next
    | with_reducible apply State.feCheck_keeps
    | with_reducible apply State.retireReg_keeps
    | with_reducible apply State.waitFor_keeps
    | with_reducible apply State.withAccess_keeps
    | with_reducible apply ite_keeps
theorem execFeset_keeps (gd : GReg) (ga : GReg) (disp : BitVec 11) (s : State)
    (hk : Kept s) : OutOk (execFeset gd ga disp s) := by
  unfold execFeset
  repeat' first
    | with_reducible assumption
    | with_reducible intro _ _ _
    | with_reducible intro _ _
    | with_reducible apply outOk_next
    | with_reducible apply State.illegal_keeps
    | with_reducible apply State.retire_keeps
    | with_reducible apply State.setFe_keeps
    | with_reducible apply State.strandGate_keeps
    | with_reducible apply State.waitFor_keeps
    | with_reducible apply State.withAccess_keeps
    | split
    | extract_lets
theorem State.prefetch_keeps (s : State) (ga : GReg) (disp : BitVec 11) (l1 : Bool)
    (hk : Kept s) : Kept (State.prefetch s ga disp l1) := by
  unfold State.prefetch
  repeat' first
    | with_reducible assumption
    | with_reducible apply State.fillLine_keeps
    | with_reducible apply State.l1Fill_keeps
    | with_reducible apply State.prep_keeps
    | with_reducible apply State.retire_keeps
    | with_reducible apply State.trap_keeps
    | with_reducible refine of_snd (by assumption) ?_
    | with_reducible apply ite_keeps
    | split
theorem execPrefL2_keeps (ga : GReg) (disp : BitVec 11) (s : State)
    (hk : Kept s) : OutOk (execPrefL2 ga disp s) := by
  unfold execPrefL2
  repeat' first
    | with_reducible assumption
    | with_reducible apply outOk_next
    | with_reducible apply State.prefetch_keeps
theorem execPrefL1_keeps (ga : GReg) (disp : BitVec 11) (s : State)
    (hk : Kept s) : OutOk (execPrefL1 ga disp s) := by
  unfold execPrefL1
  repeat' first
    | with_reducible assumption
    | with_reducible apply outOk_next
    | with_reducible apply State.prefetch_keeps
theorem execHomeSliceAccess_keeps (k : Nat) (n : Nat) (s : State)
    (hk : Kept s) : OutOk (execHomeSliceAccess k n s) := by
  unfold execHomeSliceAccess
  repeat' first
    | with_reducible assumption
    | with_reducible apply outOk_next
    | with_reducible refine kept_priv ?_
    | with_reducible apply kept_epc
    | with_reducible apply kept_tvec
    | with_reducible apply State.closeMerges_keeps
    | with_reducible apply State.performPosted_keeps
    | with_reducible apply State.setStrand_keeps
    | split
    | extract_lets
    | (simp -zeta -proj only [strand_mk_iff]; refine ⟨?_, ?_, ?_⟩)
theorem execL1WriteAck_keeps (k : Nat) (n : Nat) (s : State) (hk : Kept s) :
    OutOk (execL1WriteAck k n s) := by
  unfold execL1WriteAck
  repeat' first
    | with_reducible assumption
    | with_reducible apply outOk_next
    | with_reducible apply State.l1Drop_keeps
    | with_reducible apply State.performPosted_keeps
    | split
    | extract_lets
theorem execL2LineEvict_keeps (h : Nat) (line : Nat) (s : State)
    (hk : Kept s) : OutOk (execL2LineEvict h line s) := by
  unfold execL2LineEvict
  repeat' first
    | with_reducible assumption
    | with_reducible apply outOk_next
    | with_reducible apply State.evictLine_keeps
    | with_reducible apply ite_keeps

theorem State.atomic_keeps (s : State) (i : Instr) (gd : GReg) (ga : GReg) (n : Nat) (f : Nat → Nat) (g : State → State)
    (hg : ∀ x0, Kept x0 → Kept (g x0)) (hk : Kept s) : Kept (State.atomic s i gd ga n f g) := by
  unfold State.atomic
  repeat' first
    | with_reducible assumption
    | with_reducible intro _ _ _
    | with_reducible intro _ _
    | with_reducible apply State.retireReg_keeps
    | with_reducible apply State.sliceRmw_keeps
    | with_reducible apply State.strandGate_keeps
    | with_reducible apply State.trap_keeps
    | with_reducible apply State.waitFor_keeps
    | with_reducible apply State.withAccess_keeps
    | apply hg
    | with_reducible refine of_snd (by assumption) ?_
    | with_reducible apply ite_keeps
    | split
theorem State.amo_keeps (s : State) (i : Instr) (dbl : Bool) (gd : GReg) (ga : GReg) (gb : GReg) (op : Nat → Nat → Nat → Nat)
    (hk : Kept s) : Kept (State.amo s i dbl gd ga gb op) := by
  unfold State.amo
  repeat' first
    | with_reducible assumption
    | with_reducible intro _ _
    | with_reducible apply State.atomic_keeps
theorem execAmoAdd_keeps (dbl : Bool) (gd : GReg) (ga : GReg) (gb : GReg) (s : State)
    (hk : Kept s) : OutOk (execAmoAdd dbl gd ga gb s) := by
  unfold execAmoAdd
  repeat' first
    | with_reducible assumption
    | with_reducible apply outOk_next
    | with_reducible apply State.amo_keeps
theorem execAmoAnd_keeps (dbl : Bool) (gd : GReg) (ga : GReg) (gb : GReg) (s : State)
    (hk : Kept s) : OutOk (execAmoAnd dbl gd ga gb s) := by
  unfold execAmoAnd
  repeat' first
    | with_reducible assumption
    | with_reducible apply outOk_next
    | with_reducible apply State.amo_keeps
theorem execAmoOr_keeps (dbl : Bool) (gd : GReg) (ga : GReg) (gb : GReg) (s : State)
    (hk : Kept s) : OutOk (execAmoOr dbl gd ga gb s) := by
  unfold execAmoOr
  repeat' first
    | with_reducible assumption
    | with_reducible apply outOk_next
    | with_reducible apply State.amo_keeps
theorem execAmoXor_keeps (dbl : Bool) (gd : GReg) (ga : GReg) (gb : GReg) (s : State)
    (hk : Kept s) : OutOk (execAmoXor dbl gd ga gb s) := by
  unfold execAmoXor
  repeat' first
    | with_reducible assumption
    | with_reducible apply outOk_next
    | with_reducible apply State.amo_keeps
theorem execAmoMin_keeps (dbl : Bool) (gd : GReg) (ga : GReg) (gb : GReg) (s : State)
    (hk : Kept s) : OutOk (execAmoMin dbl gd ga gb s) := by
  unfold execAmoMin
  repeat' first
    | with_reducible assumption
    | with_reducible apply outOk_next
    | with_reducible apply State.amo_keeps
theorem execAmoMax_keeps (dbl : Bool) (gd : GReg) (ga : GReg) (gb : GReg) (s : State)
    (hk : Kept s) : OutOk (execAmoMax dbl gd ga gb s) := by
  unfold execAmoMax
  repeat' first
    | with_reducible assumption
    | with_reducible apply outOk_next
    | with_reducible apply State.amo_keeps
theorem execAmoMinu_keeps (dbl : Bool) (gd : GReg) (ga : GReg) (gb : GReg) (s : State)
    (hk : Kept s) : OutOk (execAmoMinu dbl gd ga gb s) := by
  unfold execAmoMinu
  repeat' first
    | with_reducible assumption
    | with_reducible apply outOk_next
    | with_reducible apply State.amo_keeps
theorem execAmoMaxu_keeps (dbl : Bool) (gd : GReg) (ga : GReg) (gb : GReg) (s : State)
    (hk : Kept s) : OutOk (execAmoMaxu dbl gd ga gb s) := by
  unfold execAmoMaxu
  repeat' first
    | with_reducible assumption
    | with_reducible apply outOk_next
    | with_reducible apply State.amo_keeps
theorem execAmoSwap_keeps (dbl : Bool) (gd : GReg) (ga : GReg) (gb : GReg) (s : State)
    (hk : Kept s) : OutOk (execAmoSwap dbl gd ga gb s) := by
  unfold execAmoSwap
  repeat' first
    | with_reducible assumption
    | with_reducible apply outOk_next
    | with_reducible apply State.amo_keeps
theorem State.flagUnseq_keeps (s : State) (hk : Kept s) :
    Kept (State.flagUnseq s) := by
  unfold State.flagUnseq
  repeat' first
    | with_reducible assumption
    | with_reducible apply State.modLaunch_keeps
    | split
theorem execAmoFadd_keeps (dbl : Bool) (gd : GReg) (ga : GReg) (gb : GReg) (s : State)
    (hk : Kept s) : OutOk (execAmoFadd dbl gd ga gb s) := by
  unfold execAmoFadd
  repeat' first
    | with_reducible assumption
    | with_reducible intro _ _
    | with_reducible apply outOk_next
    | with_reducible apply State.atomic_keeps
    | with_reducible apply State.flagUnseq_keeps
theorem execCas_keeps (dbl : Bool) (gd : GReg) (ga : GReg) (gb : GReg) (gc : GReg) (s : State)
    (hk : Kept s) : OutOk (execCas dbl gd ga gb gc s) := by
  unfold execCas
  repeat' first
    | with_reducible assumption
    | with_reducible intro _ _
    | with_reducible apply outOk_next
    | with_reducible apply State.atomic_keeps
theorem State.setSeq_keeps (s : State) (q : Seq) (hk : Kept s) :
    Kept (State.setSeq s q) := by
  unfold State.setSeq
  repeat' first
    | with_reducible assumption
    | with_reducible apply State.setSlice_keeps
theorem State.wakeSamo_keeps (s : State) (h : Nat) (hk : Kept s) :
    Kept (State.wakeSamo s h) := by
  unfold State.wakeSamo
  repeat' first
    | with_reducible assumption
    | with_reducible intro _ _ _
    | with_reducible apply foldl_keeps
    | with_reducible apply State.setPlace_keeps
    | with_reducible apply State.setSlice_keeps
theorem State.samoApply_keeps (s : State) (q : Seq) (va : Nat) (c : Word64)
    (hk : Kept s) : Kept (State.samoApply s q va c) := by
  unfold State.samoApply
  repeat' first
    | with_reducible assumption
    | with_reducible apply State.nextFree_keeps
    | with_reducible apply State.setSeq_keeps
    | with_reducible apply State.sliceRmw_keeps
    | with_reducible apply State.storeCell_keeps
    | with_reducible apply State.wakeSamo_keeps
    | with_reducible refine of_snd (by assumption) ?_
    | with_reducible apply ite_keeps
    | split
theorem State.samoDrain_keeps (s : State) (pa : Nat) (va : Nat) (a0 : Nat)
    (hk : Kept s) : Kept (State.samoDrain s pa va a0) := by
  induction a0 generalizing s with
  | zero =>
    unfold State.samoDrain
    repeat' first
      | with_reducible assumption
  | succ n ih =>
    unfold State.samoDrain
    repeat' first
      | with_reducible assumption
      | with_reducible apply State.samoApply_keeps
      | with_reducible apply State.setFe_keeps
      | with_reducible apply State.setSlice_keeps
      | with_reducible apply ih
      | with_reducible apply ite_keeps
      | split
theorem State.samoWait_keeps (s : State) (i : Instr) (pa : Nat) (va : Nat)
    (hk : Kept s) : Kept (State.samoWait s i pa va) := by
  unfold State.samoWait
  repeat' first
    | with_reducible assumption
    | with_reducible apply State.cancelTrap_keeps
    | with_reducible apply State.dropWait_keeps
    | with_reducible apply State.hold_keeps
    | with_reducible apply State.setPlace_keeps
    | with_reducible apply State.setSlice_keeps
    | with_reducible apply State.trap_keeps
    | with_reducible apply ite_keeps
theorem State.samoArrive_keeps (s : State) (i : Instr) (fmt : SamoFmt) (pa : Nat) (va : Nat) (ga : Word64) (t : Nat) (n : Nat) (c : Word64)
    (hk : Kept s) : Kept (State.samoArrive s i fmt pa va ga t n c) := by
  unfold State.samoArrive
  repeat' first
    | with_reducible assumption
    | with_reducible apply State.denied_keeps
    | with_reducible apply State.dropWait_keeps
    | with_reducible apply State.retire_keeps
    | with_reducible apply State.samoApply_keeps
    | with_reducible apply State.samoDrain_keeps
    | with_reducible apply State.samoWait_keeps
    | with_reducible apply State.setFe_keeps
    | with_reducible apply State.setSlice_keeps
    | with_reducible apply ite_keeps
    | split
theorem State.samo_keeps (s : State) (i : Instr) (fmt : SamoFmt) (ga : GReg) (gb : GReg) (gc : GReg)
    (hk : Kept s) : Kept (State.samo s i fmt ga gb gc) := by
  unfold State.samo
  repeat' first
    | with_reducible assumption
    | with_reducible intro _ _ _
    | with_reducible intro _ _
    | with_reducible apply State.denied_keeps
    | with_reducible apply State.samoArrive_keeps
    | with_reducible apply State.strandGate_keeps
    | with_reducible apply State.waitFor_keeps
    | with_reducible apply State.withAccess_keeps
    | with_reducible apply ite_keeps
theorem execSamoF32_keeps (ga : GReg) (gb : GReg) (gc : GReg) (s : State)
    (hk : Kept s) : OutOk (execSamoF32 ga gb gc s) := by
  unfold execSamoF32
  repeat' first
    | with_reducible assumption
    | with_reducible apply outOk_next
    | with_reducible apply State.samo_keeps
theorem execSamoF64_keeps (ga : GReg) (gb : GReg) (gc : GReg) (s : State)
    (hk : Kept s) : OutOk (execSamoF64 ga gb gc s) := by
  unfold execSamoF64
  repeat' first
    | with_reducible assumption
    | with_reducible apply outOk_next
    | with_reducible apply State.samo_keeps
theorem execSamoI64_keeps (ga : GReg) (gb : GReg) (gc : GReg) (s : State)
    (hk : Kept s) : OutOk (execSamoI64 ga gb gc s) := by
  unfold execSamoI64
  repeat' first
    | with_reducible assumption
    | with_reducible apply outOk_next
    | with_reducible apply State.samo_keeps

theorem execFence_keeps (s : State) (hk : Kept s) :
    OutOk (execFence s) := by
  unfold execFence
  repeat' first
    | with_reducible assumption
    | with_reducible apply outOk_next
    | with_reducible apply State.retire_keeps
    | with_reducible apply State.waitFor_keeps
    | with_reducible apply ite_keeps
theorem execFenceEng_keeps (s : State) (hk : Kept s) :
    OutOk (execFenceEng s) := by
  unfold execFenceEng
  repeat' first
    | with_reducible assumption
    | with_reducible apply outOk_next
    | with_reducible apply State.retire_keeps
    | with_reducible apply State.waitFor_keeps
    | with_reducible apply ite_keeps
theorem State.flushRange_keeps (s : State) (pa : Nat) (n : Nat)
    (hk : Kept s) : Kept (State.flushRange s pa n) := by
  unfold State.flushRange
  repeat' first
    | with_reducible assumption
    | with_reducible apply kept_mem
    | with_reducible apply kept_strands
    | with_reducible apply kept_dv
    | (simp -zeta -proj only [kept_mk_iff]; refine ⟨?_, ?_, ?_⟩)
theorem State.flushPages_keeps (s : State) (i : Instr) (f : State → State) (va : Nat) (stop : Nat) (a0 : Nat)
    (hf : ∀ x0, Kept x0 → Kept (f x0)) (hk : Kept s) : Kept (State.flushPages s i f va stop a0) := by
  induction a0 generalizing s va with
  | zero =>
    unfold State.flushPages
    repeat' first
      | with_reducible assumption
      | apply hf
  | succ n ih =>
    unfold State.flushPages
    repeat' first
      | with_reducible assumption
      | with_reducible apply State.flushRange_keeps
      | with_reducible apply State.translate_keeps
      | with_reducible apply State.trap_keeps
      | with_reducible apply State.waitFor_keeps
      | apply hf
      | with_reducible apply ih
      | with_reducible apply ite_keeps
      | split
      | extract_lets
theorem execFlush_keeps (ga : GReg) (gb : GReg) (s : State) (hk : Kept s) :
    OutOk (execFlush ga gb s) := by
  unfold execFlush
  repeat' first
    | with_reducible assumption
    | with_reducible intro _ _
    | with_reducible apply outOk_next
    | with_reducible apply State.denied_keeps
    | with_reducible apply State.flushPages_keeps
    | with_reducible apply State.retire_keeps
    | with_reducible apply State.trap_keeps
    | with_reducible apply ite_keeps
theorem State.dropLine_keeps (s : State) (h : Nat) (l : L2Line) (hk : Kept s) :
    Kept (State.dropLine s h l) := by
  unfold State.dropLine
  repeat' first
    | with_reducible assumption
    | with_reducible apply kept_mem
    | with_reducible apply kept_strands
    | with_reducible apply kept_dv
    | with_reducible apply State.setMem_keeps
    | with_reducible apply State.setSlice_keeps
    | with_reducible apply restoreCells_wf
    | extract_lets
    | (simp -zeta -proj only [kept_mk_iff]; refine ⟨?_, ?_, ?_⟩)
theorem execDiscard_keeps (ga : GReg) (s : State) (hk : Kept s) :
    OutOk (execDiscard ga s) := by
  unfold execDiscard
  repeat' first
    | with_reducible assumption
    | with_reducible intro _ _ _
    | with_reducible apply foldl_keeps
    | with_reducible apply outOk_next
    | with_reducible apply State.denied_keeps
    | with_reducible apply State.dropLine_keeps
    | with_reducible apply State.retire_keeps
    | with_reducible apply State.waitFor_keeps
    | with_reducible apply ite_keeps
theorem State.bcopySource_keeps (s : State) (i : Instr) (mode : Nat) (p : Prep)
    (hk : Kept s) : FetchedOk (State.bcopySource s i mode p) := by
  unfold State.bcopySource
  repeat' first
    | with_reducible assumption
    | with_reducible apply fetchedOk_stop
    | with_reducible apply fetchedOk_got
    | with_reducible apply State.dropWait_keeps
    | with_reducible apply State.feCheck_keeps
    | with_reducible apply State.gate_keeps
    | with_reducible apply State.setWaiters_keeps
    | with_reducible apply State.trap_keeps
    | with_reducible apply State.waitFor_keeps
    | with_reducible apply State.waitOn_keeps
    | with_reducible refine of_pass (by assumption) ?_
    | with_reducible refine of_invalid (by assumption) ?_
    | with_reducible refine of_held (by assumption) ?_
    | with_reducible refine of_damaged (by assumption) ?_
    | split
    | extract_lets
theorem State.bcopyConsume_keeps (s : State) (mode : Nat) (p : Prep)
    (hk : Kept s) : Kept (State.bcopyConsume s mode p) := by
  unfold State.bcopyConsume
  repeat' first
    | with_reducible assumption
    | with_reducible apply State.dropWait_keeps
    | with_reducible apply State.setFe_keeps
    | with_reducible apply ite_keeps
    | split
theorem State.bcopyWrite_keeps (s : State) (mode : Nat) (keepw : Bool) (pa : Nat) (va : Nat) (c : Cell)
    (hk : Kept s) : Kept (State.bcopyWrite s mode keepw pa va c) := by
  unfold State.bcopyWrite
  repeat' first
    | with_reducible assumption
    | with_reducible apply kept_mem
    | with_reducible apply State.latchReady_keeps
    | with_reducible apply State.setFe_keeps
    | with_reducible apply State.setMem_keeps
    | with_reducible apply State.wholeWrite_keeps
    | with_reducible apply Memory.setSide_wf
    | with_reducible apply ite_keeps
theorem State.bcopyCell_keeps (s : State) (i : Instr) (gd : GReg) (dst src : Word64) (mode : Nat) (keepw : Bool)
    (n idx : Nat) (hk : Kept s) : Kept (State.bcopyCell s i gd dst src mode keepw n idx) := by
  have hgo : ∀ (p : Prep) (c : Cell) (t : State) (pa va : Nat), Kept t → Kept (
      t.strandGate i pa va true (if keepw then none else some (bcopyFe mode c.fe)) (fun t =>
        if n ≤ idx + 1 then (((t.bcopyConsume mode p).bcopyWrite mode keepw pa va c).setReg gd (BitVec.ofNat 64 (idx + 1))).retire
        else (((t.bcopyConsume mode p).bcopyWrite mode keepw pa va c).setReg gd (BitVec.ofNat 64 (idx + 1))).hold i false
          (fun q => { q with stage := 1, value := BitVec.ofNat 64 (idx + 1) }))) := by
    intro p c t pa va ht
    refine State.strandGate_keeps _ _ _ _ _ _ _ (fun t ht => ?_) ht
    have h5 := State.setReg_keeps _ gd (BitVec.ofNat 64 (idx + 1))
      (State.bcopyWrite_keeps _ mode keepw pa va c (State.bcopyConsume_keeps t mode p ht))
    exact ite_keeps (State.retire_keeps _ h5) (State.hold_keeps _ _ _ _ h5)
  have hsrc : ∀ (t : State), Kept t → ∀ off : Word64,
      FetchedOk ((t.prep (src + off) 0 false 1).2.bcopySource i mode (t.prep (src + off) 0 false 1).1) :=
    fun t ht off => State.bcopySource_keeps _ i mode _ (State.prep_keeps t (src + off) 0 false 1 ht)
  delta State.bcopyCell
  extract_lets off
  have hp := State.prep_keeps s (dst + off) 0 true 2 hk
  generalize s.prep (dst + off) 0 true 2 = r at hp ⊢
  obtain ⟨p, s1⟩ := r
  have hf := hsrc s1 hp off
  generalize hq : s1.prep (src + off) 0 false 1 = q at hf
  cases p with
  | trap code tval => exact State.trap_keeps _ _ _ (State.dropWait_keeps _ _ hp)
  | stall => exact State.waitFor_keeps _ _ hp
  | ok pa va =>
    simp only [hq]
    generalize hb : q.2.bcopySource i mode q.1 = b at hf
    cases b with
    | stop s2 => exact of_stop rfl hf
    | got s2 c => exact hgo q.1 c _ _ _ (of_got rfl hf)
  | disc pa va entry big =>
    simp only [hq]
    generalize hb : q.2.bcopySource i mode q.1 = b at hf
    cases b with
    | stop s2 => exact of_stop rfl hf
    | got s2 c => exact hgo q.1 c _ _ _ (State.revive_keeps _ _ _ _ _ (of_got rfl hf))
theorem execBcopy_keeps (gd : GReg) (ga : GReg) (gb : GReg) (gc : GReg) (s : State)
    (hk : Kept s) : OutOk (execBcopy gd ga gb gc s) := by
  unfold execBcopy
  repeat' first
    | with_reducible assumption
    | with_reducible apply outOk_next
    | with_reducible apply State.bcopyCell_keeps
    | with_reducible apply State.denied_keeps
    | with_reducible apply State.hold_keeps
    | with_reducible apply State.retire_keeps
    | with_reducible apply State.trap_keeps
    | with_reducible apply State.waitFor_keeps
    | with_reducible apply ite_keeps
theorem State.parkPage_keeps (s : State) (ga : Word64) (gb : Word64)
    (hk : Kept s) : Kept (State.parkPage s ga gb) := by
  unfold State.parkPage
  repeat' first
    | with_reducible assumption
    | with_reducible intro _ _ _
    | with_reducible apply foldl_keeps
    | with_reducible apply kept_mem
    | with_reducible apply kept_strands
    | with_reducible apply kept_dv
    | with_reducible apply State.parkWaiter_keeps
    | extract_lets
    | (simp -zeta -proj only [kept_mk_iff]; refine ⟨?_, ?_, ?_⟩)
theorem execTlbinv_keeps (ga : GReg) (gb : GReg) (s : State) (hk : Kept s) :
    OutOk (execTlbinv ga gb s) := by
  unfold execTlbinv
  repeat' first
    | with_reducible assumption
    | with_reducible apply outOk_next
    | with_reducible apply State.denied_keeps
    | with_reducible apply State.parkPage_keeps
    | with_reducible apply State.retire_keeps
    | with_reducible apply State.tlbForget_keeps
    | with_reducible apply State.waitFor_keeps
    | with_reducible apply ite_keeps

theorem State.decrement_keeps (s : State) (pa : Nat) (va : Nat) (job : Nat) (c : BitVec 7)
    (hk : Kept s) : Kept (State.decrement s pa va job c) := by
  unfold State.decrement
  repeat' first
    | with_reducible assumption
    | with_reducible apply State.countHome_keeps
    | with_reducible apply State.setFe_keeps
    | with_reducible apply State.storeCell_keeps
    | with_reducible apply ite_keeps
    | split
    | extract_lets
theorem State.resolve_keeps (s : State) (job : Nat) (va : Nat)
    (hk : Kept s) : Kept (State.resolve s job va).2 := by
  unfold State.resolve
  repeat' first
    | with_reducible assumption
    | with_reducible apply State.revive_keeps
    | with_reducible apply State.translate_keeps
    | split
    | extract_lets
theorem State.orStatus_keeps (s : State) (pa : Nat) (job : Nat) (c : BitVec 7)
    (hk : Kept s) : Kept (State.orStatus s pa job c) := by
  unfold State.orStatus
  repeat' first
    | with_reducible assumption
    | with_reducible apply State.sliceRmw_keeps
    | with_reducible apply State.writeField_keeps
    | with_reducible refine of_snd (by assumption) ?_
    | split
    | extract_lets
theorem State.writeDone_keeps (s : State) (pa : Nat) (va : Nat) (job : Nat) (count : Nat) (level : Nat) (status : Nat) (fword : Word64) (fe : BitVec 2)
    (hk : Kept s) : Kept (State.writeDone s pa va job count level status fword fe) := by
  unfold State.writeDone
  repeat' first
    | with_reducible assumption
    | with_reducible apply State.setFe_keeps
    | with_reducible apply State.wholeWrite_keeps
theorem State.addCount_keeps (s : State) (pa : Nat) (job : Nat) (n : Nat)
    (hk : Kept s) : Kept (State.addCount s pa job n) := by
  unfold State.addCount
  repeat' first
    | with_reducible assumption
    | with_reducible apply State.sliceRmw_keeps
theorem State.addPhase_keeps (s : State) (job : Nat) (n : Nat) (hk : Kept s) :
    Kept (State.addPhase s job n) := by
  unfold State.addPhase
  repeat' first
    | with_reducible assumption
    | with_reducible apply State.addCount_keeps
    | split
theorem State.pushDecr_keeps (s : State) (job : Nat) (addr : Nat) (virt : Bool) (c : BitVec 7)
    (hk : Kept s) : Kept (State.pushDecr s job addr virt c) := by
  unfold State.pushDecr
  repeat' first
    | with_reducible assumption
    | with_reducible apply kept_mem
    | with_reducible apply kept_strands
    | with_reducible apply kept_dv
    | (simp -zeta -proj only [kept_mk_iff]; refine ⟨?_, ?_, ?_⟩)
theorem State.decrPhase_keeps (s : State) (job : Nat) (c : BitVec 7)
    (hk : Kept s) : Kept (State.decrPhase s job c) := by
  unfold State.decrPhase
  repeat' first
    | with_reducible assumption
    | with_reducible apply State.pushDecr_keeps
    | split
theorem State.phaseFull_keeps (s : State) (job : Nat) (pa : Nat)
    (hk : Kept s) : Kept (State.phaseFull s job pa) := by
  unfold State.phaseFull
  repeat' first
    | with_reducible assumption
    | with_reducible apply State.orStatus_keeps
    | with_reducible apply State.putField_keeps
    | with_reducible apply State.setJob_keeps
theorem State.replayFull_keeps (s : State) (job : Nat) (pa : Nat) (r : Replay)
    (hk : Kept s) : Kept (State.replayFull s job pa r) := by
  unfold State.replayFull
  repeat' first
    | with_reducible assumption
    | with_reducible apply State.decrPhase_keeps
    | with_reducible apply State.resolve_keeps
    | with_reducible apply State.setFe_keeps
    | with_reducible apply State.setJob_keeps
    | split
theorem State.releasePresent_keeps (s : State) (c : Nat) (hk : Kept s) :
    Kept (State.releasePresent s c) := by
  unfold State.releasePresent
  repeat' first
    | with_reducible assumption
    | with_reducible apply State.setCluster_keeps
    | split
    | extract_lets
theorem State.freeRegion_keeps (s : State) (l : Launch) (hk : Kept s) :
    Kept (State.freeRegion s l) := by
  unfold State.freeRegion
  repeat' first
    | with_reducible assumption
    | with_reducible intro _ _ _
    | with_reducible apply foldl_keeps
    | with_reducible refine kept_priv ?_
    | with_reducible apply kept_epc
    | with_reducible apply kept_tvec
    | with_reducible apply State.releasePresent_keeps
    | with_reducible apply State.setCluster_keeps
    | with_reducible apply State.setStrand_keeps
    | with_reducible apply ite_keeps
    | extract_lets
    | (simp -zeta -proj only [strand_mk_iff]; refine ⟨?_, ?_, ?_⟩)
theorem State.launchFull_keeps (s : State) (pa : Nat) (l : Launch)
    (hk : Kept s) : Kept (State.launchFull s pa l) := by
  unfold State.launchFull
  repeat' first
    | with_reducible assumption
    | with_reducible apply State.modLaunch_keeps
    | with_reducible apply State.pushDecr_keeps
theorem State.retireLaunch_keeps (s : State) (l : Launch) (hk : Kept s) :
    Kept (State.retireLaunch s l) := by
  unfold State.retireLaunch
  repeat' first
    | with_reducible assumption
    | with_reducible apply kept_mem
    | with_reducible apply kept_strands
    | with_reducible apply kept_dv
    | with_reducible apply State.freeRegion_keeps
    | extract_lets
    | (simp -zeta -proj only [kept_mk_iff]; refine ⟨?_, ?_, ?_⟩)
theorem State.cellFull_keeps (s : State) (job : Nat) (addr : Nat) (pa : Nat) (virt : Bool)
    (hk : Kept s) : Kept (State.cellFull s job addr pa virt) := by
  unfold State.cellFull
  repeat' first
    | with_reducible assumption
    | with_reducible apply State.launchFull_keeps
    | with_reducible apply State.phaseFull_keeps
    | with_reducible apply State.replayFull_keeps
    | with_reducible apply ite_keeps
    | split
theorem State.decrementAt_keeps (s : State) (job : Nat) (addr : Nat) (pa : Nat) (virt : Bool) (c : BitVec 7)
    (hk : Kept s) : Kept (State.decrementAt s job addr pa virt c) := by
  unfold State.decrementAt
  repeat' first
    | with_reducible assumption
    | with_reducible apply State.cellFull_keeps
    | with_reducible apply State.decrement_keeps
    | with_reducible apply ite_keeps
theorem State.decrementNow_keeps (s : State) (d : Decr) (pa : Nat)
    (hk : Kept s) : Kept (State.decrementNow s d pa) := by
  unfold State.decrementNow
  repeat' first
    | with_reducible assumption
    | with_reducible apply kept_mem
    | with_reducible apply kept_strands
    | with_reducible apply kept_dv
    | with_reducible apply State.decrementAt_keeps
    | with_reducible apply State.feNote_keeps
    | with_reducible apply State.gate_keeps
    | with_reducible apply State.machineCheck_keeps
    | with_reducible refine of_pass (by assumption) ?_
    | with_reducible refine of_invalid (by assumption) ?_
    | with_reducible refine of_held (by assumption) ?_
    | with_reducible refine of_damaged (by assumption) ?_
    | split
    | extract_lets
    | (simp -zeta -proj only [kept_mk_iff]; refine ⟨?_, ?_, ?_⟩)
theorem execCompletionDecrement_keeps (s : State) (hk : Kept s) :
    OutOk (execCompletionDecrement s) := by
  unfold execCompletionDecrement
  repeat' first
    | with_reducible assumption
    | with_reducible apply outOk_next
    | with_reducible apply kept_mem
    | with_reducible apply kept_strands
    | with_reducible apply kept_dv
    | with_reducible apply State.decrementNow_keeps
    | with_reducible apply State.revive_keeps
    | with_reducible apply State.translate_keeps
    | with_reducible apply State.trubAdd_keeps
    | split
    | extract_lets
    | (simp -zeta -proj only [kept_mk_iff]; refine ⟨?_, ?_, ?_⟩)
    | dsimp -zeta +zetaDelta only

theorem State.closeWindow_keeps (s : State) (l : Nat) (hk : Kept s) :
    Kept (State.closeWindow s l) := by
  unfold State.closeWindow
  repeat' first
    | with_reducible assumption
    | with_reducible apply State.modLaunch_keeps
theorem State.destPush_keeps (s : State) (l : Launch) (r : Word64) (t : Token)
    (hk : Kept s) : Kept (State.destPush s l r t) := by
  unfold State.destPush
  repeat' first
    | with_reducible assumption
    | with_reducible apply State.setElement_keeps
    | with_reducible apply State.setPort_keeps
    | with_reducible apply State.setTile_keeps
    | with_reducible apply ite_keeps
    | split
theorem State.forkPush_keeps (s : State) (l : Launch) (f : List Word64) (t : Token)
    (hk : Kept s) : Kept (State.forkPush s l f t) := by
  unfold State.forkPush
  repeat' first
    | with_reducible assumption
    | with_reducible intro _ _ _
    | with_reducible apply foldl_keeps
    | with_reducible apply State.destPush_keeps
theorem State.noteTile_keeps (s : State) (l : Launch) (t : Nat) (cell : Nat)
    (hk : Kept s) : OptOk (State.noteTile s l t cell) := by
  unfold State.noteTile
  repeat' first
    | with_reducible assumption
    | with_reducible apply optOk_some
    | with_reducible exact optOk_none
    | with_reducible apply State.modLaunch_keeps
    | split
    | extract_lets
theorem State.tileWrite_keeps (s : State) (t : Nat) (a : Nat) (d : CellData) (code : BitVec 28) (fe : Option (BitVec 2))
    (hk : Kept s) : Kept (State.tileWrite s t a d code fe) := by
  unfold State.tileWrite
  repeat' first
    | with_reducible assumption
    | with_reducible apply State.setTile_keeps
theorem State.pokeCmds_keeps (s : State) (t : Nat) (a : Nat) (hk : Kept s) :
    Kept (State.pokeCmds s t a) := by
  unfold State.pokeCmds
  repeat' first
    | with_reducible assumption
    | with_reducible apply kept_mem
    | with_reducible apply kept_strands
    | with_reducible apply kept_dv
    | (simp -zeta -proj only [kept_mk_iff]; refine ⟨?_, ?_, ?_⟩)
theorem State.pokeCell_keeps (s : State) (t : Nat) (a : Nat) (hk : Kept s) :
    Kept (State.pokeCell s t a) := by
  unfold State.pokeCell
  repeat' first
    | with_reducible assumption
    | with_reducible apply State.pokeCmds_keeps
    | with_reducible apply State.setTile_keeps
theorem State.putCells_keeps (s : State) (t : Nat) (a0 : List (Nat × CellData × BitVec 28)) (a1 : Option (BitVec 2))
    (hk : Kept s) : Kept (State.putCells s t a0 a1) := by
  induction a0 generalizing s with
  | nil =>
    unfold State.putCells
    repeat' first
      | with_reducible assumption
  | cons y ys ih =>
    unfold State.putCells
    repeat' first
      | with_reducible assumption
      | with_reducible apply State.pokeCell_keeps
      | with_reducible apply State.tileWrite_keeps
      | with_reducible apply ih
theorem State.engFind_keeps (s : State) (l : Launch) (p : Nat) (va : Nat) (write : Bool)
    (hk : Kept s) : Kept (State.engFind s l p va write).2 := by
  unfold State.engFind
  repeat' first
    | with_reducible assumption
    | with_reducible apply State.translateFor_keeps
    | with_reducible apply State.trubAdd_keeps
    | split
    | extract_lets
theorem State.engWhere_keeps (s : State) (l : Launch) (p : Nat) (va : Nat) (write : Bool)
    (hk : Kept s) : Kept (State.engWhere s l p va write).2 := by
  unfold State.engWhere
  repeat' first
    | with_reducible assumption
    | with_reducible apply State.engFind_keeps
theorem State.engAcc_keeps (s : State) (l : Launch) (p : Nat) (va : Nat) (write : Bool)
    (hk : Kept s) : Kept (State.engAcc s l p va write).2 := by
  unfold State.engAcc
  repeat' first
    | with_reducible assumption
    | with_reducible apply State.engFind_keeps
    | split
    | extract_lets
theorem State.markVoid_keeps (s : State) (l : Nat) (w : Word64) (va : Nat) (write : Bool)
    (hk : Kept s) : Kept (State.markVoid s l w va write) := by
  unfold State.markVoid
  repeat' first
    | with_reducible assumption
    | with_reducible apply State.modLaunch_keeps
theorem State.voidWindow_keeps (s : State) (l : Nat) (hk : Kept s) :
    Kept (State.voidWindow s l) := by
  unfold State.voidWindow
  repeat' first
    | with_reducible assumption
    | with_reducible apply State.modLaunch_keeps
    | with_reducible apply State.restoreWindow_keeps
theorem State.pagerAsk_keeps (s : State) (p : Nat) (job : Nat) (va : Nat) (noMap : Bool)
    (hk : Kept s) : Kept (State.pagerAsk s p job va noMap) := by
  unfold State.pagerAsk
  repeat' first
    | with_reducible assumption
    | with_reducible apply kept_mem
    | with_reducible apply kept_strands
    | with_reducible apply kept_dv
    | with_reducible apply State.setPort_keeps
    | with_reducible apply ite_keeps
    | split
    | extract_lets
    | (simp -zeta -proj only [kept_mk_iff]; refine ⟨?_, ?_, ?_⟩)
theorem State.pageFault_keeps (s : State) (p : Nat) (l : Launch) (va : Nat) (write : Bool) (noMap : Bool)
    (hk : Kept s) : Kept (State.pageFault s p l va write noMap) := by
  unfold State.pageFault
  repeat' first
    | with_reducible assumption
    | with_reducible apply State.elementFault_keeps
    | with_reducible apply State.markVoid_keeps
    | with_reducible apply State.pagerAsk_keeps
    | with_reducible apply ite_keeps
    | split
theorem State.engFe_keeps (s : State) (u : UnitRef) (l : Launch) (pa : Nat) (va : Nat)
    (hk : Kept s) : Kept (State.engFe s u l pa va) := by
  unfold State.engFe
  repeat' first
    | with_reducible assumption
    | with_reducible apply State.elementFault_keeps
    | with_reducible apply State.trubAdd_keeps
theorem State.kegAppend_keeps (s : State) (x : XRec) (job : Nat) (va : Nat) (unit : BitVec 16) (c : Cell) (fe : BitVec 2)
    (hk : Kept s) : Kept (State.kegAppend s x job va unit c fe) := by
  unfold State.kegAppend
  repeat' first
    | with_reducible assumption
    | with_reducible apply State.putField_keeps
    | with_reducible apply State.setFe_keeps
    | with_reducible apply State.wholeWrite_keeps
theorem State.engPut_keeps (s : State) (l : Launch) (p : Nat) (va : Nat) (c : Cell) (fe : Option (BitVec 2)) (a : EngAcc)
    (hk : Kept s) : EngOk (State.engPut s l p va c fe a) := by
  unfold State.engPut
  repeat' first
    | with_reducible assumption
    | with_reducible apply engOk_done
    | with_reducible apply engOk_wait
    | with_reducible apply engOk_stop
    | with_reducible apply State.elementFault_keeps
    | with_reducible apply State.engFe_keeps
    | with_reducible apply State.gate_keeps
    | with_reducible apply State.kegAppend_keeps
    | with_reducible apply State.machineCheck_keeps
    | with_reducible apply State.pageFault_keeps
    | with_reducible apply State.revive_keeps
    | with_reducible apply State.setFe_keeps
    | with_reducible apply State.wholeWrite_keeps
    | with_reducible refine of_pass (by assumption) ?_
    | with_reducible refine of_invalid (by assumption) ?_
    | with_reducible refine of_held (by assumption) ?_
    | with_reducible refine of_damaged (by assumption) ?_
    | split
    | extract_lets
    | dsimp -zeta +zetaDelta only
theorem State.engWrite_keeps (s : State) (l : Launch) (p : Nat) (va : Nat) (c : Cell) (fe : Option (BitVec 2))
    (hk : Kept s) : EngOk (State.engWrite s l p va c fe) := by
  unfold State.engWrite
  repeat' first
    | with_reducible assumption
    | with_reducible apply State.engAcc_keeps
    | with_reducible apply State.engPut_keeps
theorem State.heldFault_keeps (s : State) (l : Launch) (h : Held)
    (hk : Kept s) : OptOk (State.heldFault s l h) := by
  unfold State.heldFault
  repeat' first
    | with_reducible assumption
    | with_reducible apply optOk_some
    | with_reducible exact optOk_none
    | with_reducible apply State.elementFault_keeps
    | with_reducible apply State.engAcc_keeps
    | with_reducible apply State.engFe_keeps
    | with_reducible apply State.pageFault_keeps
    | split
    | extract_lets
    | dsimp -zeta +zetaDelta only
theorem State.performOne_keeps (s : State) (l : Launch) (h : Held)
    (hk : Kept s) : Kept (State.performOne s l h).2 := by
  unfold State.performOne
  repeat' first
    | with_reducible assumption
    | with_reducible apply State.decrementAt_keeps
    | with_reducible apply State.engFe_keeps
    | with_reducible apply State.engPut_keeps
    | with_reducible apply State.engWhere_keeps
    | with_reducible apply State.gate_keeps
    | with_reducible apply State.machineCheck_keeps
    | with_reducible apply State.pagerAsk_keeps
    | with_reducible apply State.putCells_keeps
    | with_reducible apply State.revive_keeps
    | with_reducible refine of_pass (by assumption) ?_
    | with_reducible refine of_invalid (by assumption) ?_
    | with_reducible refine of_held (by assumption) ?_
    | with_reducible refine of_damaged (by assumption) ?_
    | with_reducible refine of_done (by assumption) ?_
    | with_reducible refine of_wait (by assumption) ?_
    | with_reducible refine of_halt (by assumption) ?_
    | split
    | extract_lets
    | dsimp -zeta +zetaDelta only
theorem State.performHeld_keeps (s : State) (l : Launch) (a0 : List Held)
    (hk : Kept s) : Kept (State.performHeld s l a0).2 := by
  induction a0 generalizing s with
  | nil =>
    unfold State.performHeld
    repeat' first
      | with_reducible assumption
  | cons y ys ih =>
    unfold State.performHeld
    repeat' first
      | with_reducible assumption
      | with_reducible apply State.performOne_keeps
      | with_reducible apply ih
      | with_reducible refine of_snd (by assumption) ?_
      | split
theorem State.retireCommands_keeps (s : State) (l : Launch) (hk : Kept s) :
    Kept (State.retireCommands s l) := by
  unfold State.retireCommands
  repeat' first
    | with_reducible assumption
    | with_reducible apply kept_mem
    | with_reducible apply kept_strands
    | with_reducible apply kept_dv
    | (simp -zeta -proj only [kept_mk_iff]; refine ⟨?_, ?_, ?_⟩)
theorem State.commitOn_keeps (s : State) (x : Launch) (w : Window)
    (hk : Kept s) : Kept (State.commitOn s x w).2 := by
  unfold State.commitOn
  repeat' first
    | with_reducible assumption
    | with_reducible apply State.modLaunch_keeps
    | with_reducible apply State.openWindow_keeps
    | with_reducible apply State.performHeld_keeps
    | with_reducible apply State.retireCommands_keeps
    | split
    | extract_lets
theorem State.commitWindow_keeps (s : State) (l : Nat) (hk : Kept s) :
    Kept (State.commitWindow s l).2 := by
  unfold State.commitWindow
  repeat' first
    | with_reducible assumption
    | with_reducible apply State.commitOn_keeps
    | with_reducible apply State.heldFault_keeps
    | with_reducible refine of_findSome (by assumption) ?_
    | split
    | extract_lets
    | with_reducible intro _
theorem State.atBoundaryOf_keeps (s : State) (o : Option Launch) (i : Instr) (act : State → State)
    (hact : ∀ x0, Kept x0 → Kept (act x0)) (hk : Kept s) : Kept (State.atBoundaryOf s o i act) := by
  unfold State.atBoundaryOf
  repeat' first
    | with_reducible assumption
    | with_reducible apply State.closeWindow_keeps
    | with_reducible apply State.commitWindow_keeps
    | with_reducible apply State.openWindow_keeps
    | with_reducible apply State.waitFor_keeps
    | apply hact
    | with_reducible refine of_snd (by assumption) ?_
    | with_reducible apply ite_keeps
    | split
theorem State.atBoundary_keeps (s : State) (i : Instr) (act : State → State)
    (hact : ∀ x0, Kept x0 → Kept (act x0)) (hk : Kept s) : Kept (State.atBoundary s i act) := by
  unfold State.atBoundary
  repeat' first
    | with_reducible assumption
    | with_reducible apply State.atBoundaryOf_keeps

theorem execWindowCommit_keeps (l : Nat) (s : State) (hk : Kept s) :
    OutOk (execWindowCommit l s) := by
  unfold execWindowCommit
  repeat' first
    | with_reducible assumption
    | with_reducible apply outOk_next
    | with_reducible apply State.commitWindow_keeps
    | split
theorem execWindowVoid_keeps (l : Nat) (s : State) (hk : Kept s) :
    OutOk (execWindowVoid l s) := by
  unfold execWindowVoid
  repeat' first
    | with_reducible assumption
    | with_reducible apply outOk_next
    | with_reducible apply State.voidWindow_keeps
    | split
theorem State.rerunWindow_keeps (s : State) (l : Nat) (hk : Kept s) :
    Kept (State.rerunWindow s l) := by
  unfold State.rerunWindow
  repeat' first
    | with_reducible assumption
    | with_reducible apply State.modLaunch_keeps
theorem execWindowRerun_keeps (l : Nat) (s : State) (hk : Kept s) :
    OutOk (execWindowRerun l s) := by
  unfold execWindowRerun
  repeat' first
    | with_reducible assumption
    | with_reducible apply outOk_next
    | with_reducible apply State.elementFault_keeps
    | with_reducible apply State.rerunWindow_keeps
    | split

theorem execTrap_keeps (code : BitVec 16) (s : State) (hk : Kept s) :
    OutOk (execTrap code s) := by
  unfold execTrap
  repeat' first
    | with_reducible assumption
    | with_reducible apply outOk_next
    | with_reducible apply State.takeTrap_keeps
theorem execSvc_keeps (code : BitVec 16) (s : State) (hk : Kept s) :
    OutOk (execSvc code s) := by
  unfold execSvc
  repeat' first
    | with_reducible assumption
    | with_reducible apply outOk_next
    | with_reducible apply State.takeTrap_keeps
theorem execRett_keeps (s : State) (hk : Kept s) :
    OutOk (execRett s) := by
  unfold execRett
  repeat' first
    | with_reducible assumption
    | with_reducible apply outOk_next
    | with_reducible apply State.illegal_keeps
    | with_reducible apply State.returnFromTrap_keeps
    | with_reducible apply ite_keeps
theorem execIllegalInstruction_keeps (w : Word32) (s : State)
    (hk : Kept s) : OutOk (execIllegalInstruction w s) := by
  unfold execIllegalInstruction
  repeat' first
    | with_reducible assumption
    | with_reducible apply outOk_next
    | with_reducible apply State.illegal_keeps
theorem execInstructionFetchFault_keeps (cause : BitVec 8) (tval : Word64) (s : State)
    (hk : Kept s) : OutOk (execInstructionFetchFault cause tval s) := by
  unfold execInstructionFetchFault
  repeat' first
    | with_reducible assumption
    | with_reducible apply outOk_next
    | with_reducible apply State.trap_keeps
theorem execTrapRecordPost_keeps (s : State) (hk : Kept s) :
    OutOk (execTrapRecordPost s) := by
  unfold execTrapRecordPost
  repeat' first
    | with_reducible assumption
    | with_reducible apply outOk_next
    | with_reducible apply kept_mem
    | with_reducible apply kept_strands
    | with_reducible apply kept_dv
    | with_reducible apply kept_cap
    | with_reducible apply State.gate_keeps
    | with_reducible apply State.setDv_keeps
    | with_reducible apply State.setFe_keeps
    | with_reducible apply State.wholeWrite_keeps
    | with_reducible refine of_pass (by assumption) ?_
    | with_reducible refine of_held (by assumption) ?_
    | split
    | extract_lets
    | (simp -zeta -proj only [kept_mk_iff]; refine ⟨?_, ?_, ?_⟩)
    | simp -zeta -proj only [device_mk_iff]
theorem State.resumeStrand_keeps (s : State) (k : Nat) (v : Word64)
    (hk : Kept s) : Kept (State.resumeStrand s k v) := by
  unfold State.resumeStrand
  repeat' first
    | with_reducible assumption
    | with_reducible refine kept_priv ?_
    | with_reducible apply kept_epc
    | with_reducible apply kept_tvec
    | with_reducible apply State.setStrand_keeps
    | extract_lets
    | (simp -zeta -proj only [strand_mk_iff]; refine ⟨?_, ?_, ?_⟩)
theorem State.resumeEnd_keeps (s : State) (k : Nat) (hk : Kept s) :
    Kept (State.resumeEnd s k) := by
  unfold State.resumeEnd
  repeat' first
    | with_reducible assumption
    | with_reducible apply State.endStrand_keeps
    | with_reducible apply State.strandFault_keeps
theorem State.resumeDeliver_keeps (s : State) (k : Nat) (v : Word64)
    (hk : Kept s) : Kept (State.resumeDeliver s k v) := by
  unfold State.resumeDeliver
  repeat' first
    | with_reducible assumption
    | with_reducible refine kept_priv ?_
    | with_reducible apply kept_epc
    | with_reducible apply kept_tvec
    | with_reducible apply State.setStrand_keeps
    | with_reducible apply State.takeTrap_keeps
    | split
    | extract_lets
    | (simp -zeta -proj only [strand_mk_iff]; refine ⟨?_, ?_, ?_⟩)
theorem State.sqResume_keeps (s : State) (k : Nat) (v : Word64) (hk : Kept s) :
    Kept (State.sqResume s k v) := by
  unfold State.sqResume
  repeat' first
    | with_reducible assumption
    | with_reducible apply State.resumeDeliver_keeps
    | with_reducible apply State.resumeEnd_keeps
    | with_reducible apply State.resumeStrand_keeps
    | split
theorem execSqResumeResume_keeps (k : Nat) (v : Word64) (s : State)
    (hk : Kept s) : OutOk (execSqResumeResume k v s) := by
  unfold execSqResumeResume
  repeat' first
    | with_reducible assumption
    | with_reducible apply outOk_next
    | with_reducible apply State.resumeStrand_keeps
    | with_reducible apply ite_keeps
theorem execSqResumeEnd_keeps (k : Nat) (v : Word64) (s : State)
    (hk : Kept s) : OutOk (execSqResumeEnd k v s) := by
  unfold execSqResumeEnd
  repeat' first
    | with_reducible assumption
    | with_reducible apply outOk_next
    | with_reducible apply State.resumeEnd_keeps
    | with_reducible apply ite_keeps
theorem execSqResumeDeliver_keeps (k : Nat) (v : Word64) (s : State)
    (hk : Kept s) : OutOk (execSqResumeDeliver k v s) := by
  unfold execSqResumeDeliver
  repeat' first
    | with_reducible assumption
    | with_reducible apply outOk_next
    | with_reducible apply State.resumeDeliver_keeps
    | with_reducible apply ite_keeps

theorem State.govRoll_keeps (s : State) (c : Nat) (hk : Kept s) :
    Kept (State.govRoll s c) := by
  unfold State.govRoll
  repeat' first
    | with_reducible assumption
    | with_reducible apply State.setCluster_keeps
    | with_reducible apply ite_keeps
theorem State.readCl_keeps (s : State) (c : Nat) (num : Nat)
    (hk : Kept s) : OptPairOk (State.readCl s c num) := by
  unfold State.readCl
  repeat' first
    | with_reducible assumption
    | with_reducible apply optPairOk_some
    | with_reducible exact optPairOk_none
    | with_reducible apply State.govRoll_keeps
    | with_reducible apply State.setCluster_keeps
    | split
theorem State.writePresent_keeps (s : State) (c : Nat) (v : BitVec 22)
    (hk : Kept s) : Kept (State.writePresent s c v) := by
  unfold State.writePresent
  repeat' first
    | with_reducible assumption
    | with_reducible apply State.setCluster_keeps
theorem State.writeBudget_keeps (s0 : State) (c : Nat) (v : Word64)
    (hk : Kept s0) : Kept (State.writeBudget s0 c v) := by
  unfold State.writeBudget
  repeat' first
    | with_reducible assumption
    | with_reducible apply State.govRoll_keeps
    | with_reducible apply State.setCluster_keeps
theorem State.reloadAccess_keeps (s : State) (hk : Kept s) :
    Kept (State.reloadAccess s) := by
  unfold State.reloadAccess
  repeat' first
    | with_reducible assumption
    | with_reducible apply kept_cap
    | with_reducible apply State.setDv_keeps
    | extract_lets
    | simp -zeta -proj only [device_mk_iff]
theorem State.measure_keeps (s : State) (hk : Kept s) :
    Kept (State.measure s) := by
  unfold State.measure
  repeat' first
    | with_reducible assumption
    | with_reducible apply kept_cap
    | with_reducible apply State.nextFree_keeps
    | with_reducible apply State.setDv_keeps
    | extract_lets
    | simp -zeta -proj only [device_mk_iff]
theorem State.readDv_keeps (s : State) (num : Nat) (hk : Kept s) :
    OptPairOk (State.readDv s num) := by
  unfold State.readDv
  repeat' first
    | with_reducible assumption
    | with_reducible apply kept_cap
    | with_reducible apply optPairOk_some
    | with_reducible exact optPairOk_none
    | with_reducible apply State.measure_keeps
    | with_reducible apply State.setDv_keeps
    | split
    | extract_lets
    | simp -zeta -proj only [device_mk_iff]
theorem State.writeDv_keeps (s : State) (num : Nat) (v : Word64)
    (hk : Kept s) : Kept (State.writeDv s num v) := by
  unfold State.writeDv
  repeat' first
    | with_reducible assumption
    | with_reducible apply kept_cap
    | with_reducible apply capClamp_kept
    | with_reducible apply State.reloadAccess_keeps
    | with_reducible apply State.setDv_keeps
    | split
    | extract_lets
    | simp -zeta -proj only [device_mk_iff]
theorem State.readUnit_keeps (s : State) (o : Owner) (u : UnitRef) (num : Nat)
    (hk : Kept s) : OptPairOk (State.readUnit s o u num) := by
  unfold State.readUnit
  repeat' first
    | with_reducible assumption
    | with_reducible apply optPairOk_map
    | with_reducible apply optPairOk_some
    | with_reducible exact optPairOk_none
    | with_reducible apply State.readCl_keeps
    | with_reducible apply State.readDv_keeps
    | split
theorem State.writeUnit_keeps (s : State) (o : Owner) (u : UnitRef) (num : Nat) (v : Word64)
    (hk : Kept s) : Kept (State.writeUnit s o u num v) := by
  unfold State.writeUnit
  repeat' first
    | with_reducible assumption
    | with_reducible apply kept_strand
    | with_reducible apply strand_setReg
    | with_reducible apply strand_writeSq
    | with_reducible apply State.setElement_keeps
    | with_reducible apply State.setStrand_keeps
    | with_reducible apply State.setTile_keeps
    | with_reducible apply State.sqResume_keeps
    | with_reducible apply State.writeBudget_keeps
    | with_reducible apply State.writeDv_keeps
    | with_reducible apply State.writePresent_keeps
    | with_reducible apply ite_keeps
    | split

theorem execMfc_keeps (gd : GReg) (num : BitVec 16) (s : State) (hk : Kept s) :
    OutOk (execMfc gd num s) := by
  unfold execMfc
  repeat' first
    | with_reducible assumption
    | with_reducible apply outOk_next
    | with_reducible apply State.denied_keeps
    | with_reducible apply State.illegal_keeps
    | with_reducible apply State.readUnit_keeps
    | with_reducible apply State.retireReg_keeps
    | with_reducible refine of_some_pair (by assumption) ?_
    | with_reducible apply ite_keeps
    | split
theorem execMtc_keeps (ga : GReg) (num : BitVec 16) (s : State) (hk : Kept s) :
    OutOk (execMtc ga num s) := by
  unfold execMtc
  repeat' first
    | with_reducible assumption
    | with_reducible intro _ _
    | with_reducible apply outOk_next
    | with_reducible apply State.atBoundaryOf_keeps
    | with_reducible apply State.denied_keeps
    | with_reducible apply State.illegal_keeps
    | with_reducible apply State.retire_keeps
    | with_reducible apply State.writeUnit_keeps
    | with_reducible apply ite_keeps
    | split
theorem execClPresentWrite_keeps (c : Nat) (v : Word64) (s : State)
    (hk : Kept s) : OutOk (execClPresentWrite c v s) := by
  unfold execClPresentWrite
  repeat' first
    | with_reducible assumption
    | with_reducible apply outOk_next
    | with_reducible apply State.writePresent_keeps
theorem execClIssuebudgetWrite_keeps (c : Nat) (v : Word64) (s : State)
    (hk : Kept s) : OutOk (execClIssuebudgetWrite c v s) := by
  unfold execClIssuebudgetWrite
  repeat' first
    | with_reducible assumption
    | with_reducible apply outOk_next
    | with_reducible apply State.writeBudget_keeps
theorem execDvAccgenWrite_keeps (v : Word64) (s : State) (hk : Kept s) :
    OutOk (execDvAccgenWrite v s) := by
  unfold execDvAccgenWrite
  repeat' first
    | with_reducible assumption
    | with_reducible apply outOk_next
    | with_reducible apply State.writeDv_keeps
theorem State.writeCw_keeps (s : State) (f : Nat) (off : Nat) (v : Word64)
    (hk : Kept s) : Kept (State.writeCw s f off v) := by
  unfold State.writeCw
  repeat' first
    | with_reducible assumption
    | with_reducible apply State.setFunc_keeps
    | with_reducible apply ite_keeps
theorem execControlRegisterWrite_keeps (r : RegRef) (v : Word64) (s : State)
    (hk : Kept s) : OutOk (execControlRegisterWrite r v s) := by
  unfold execControlRegisterWrite
  repeat' first
    | with_reducible assumption
    | with_reducible apply outOk_next
    | with_reducible apply State.writeCw_keeps
    | with_reducible apply State.writeUnit_keeps
    | split

end Sys2Proof.Machine
end

