-- ==== Sys2Proof/Laws/KeepElement.lean ====
section
/-! SUPPORT. The element slots and channels keep the invariant: one lemma per definition, citing the lemmas of what it calls. -/

set_option linter.unusedTactic false
set_option linter.unreachableTactic false
set_option linter.unusedVariables false
set_option linter.unusedSimpArgs false
set_option maxRecDepth 4096

namespace Sys2Proof.Machine

theorem State.checkLine_keeps (s : State) (e : Nat) (addr : Nat) (d : Line) (c0 : BitVec 28) (c1 : BitVec 28)
    (hk : Kept s) : Kept (State.checkLine s e addr d c0 c1).2 := by
  unfold State.checkLine
  repeat' first
    | with_reducible assumption
    | with_reducible apply State.countCheck_keeps
    | split
    | extract_lets
theorem State.readLocal_keeps (s : State) (e : Nat) (a : Nat) (x : Element)
    (hk : Kept s) : Kept (State.readLocal s e a x).2 := by
  unfold State.readLocal
  repeat' first
    | with_reducible assumption
    | with_reducible apply State.checkLine_keeps
    | with_reducible refine of_snd (by assumption) ?_
    | split
    | extract_lets
theorem State.source_keeps (s : State) (sel : Sel) (pres : Nat)
    (hk : Kept s) : Kept (State.source s sel pres).2 := by
  unfold State.source
  repeat' first
    | with_reducible assumption
    | with_reducible apply State.checkLine_keeps
    | with_reducible apply State.readLocal_keeps
    | with_reducible refine of_snd (by assumption) ?_
    | split
    | extract_lets
theorem State.noteLocal_keeps (s : State) (l : Launch) (e : Nat) (bs : List Nat)
    (hk : Kept s) : OptOk (State.noteLocal s l e bs) := by
  unfold State.noteLocal
  repeat' first
    | with_reducible assumption
    | with_reducible apply optOk_some
    | with_reducible exact optOk_none
    | with_reducible apply State.modLaunch_keeps
    | split
    | extract_lets
theorem State.outPush_keeps (s : State) (l : Launch) (e : Nat) (ch : Nat) (t : Token)
    (hk : Kept s) : Kept (State.outPush s l e ch t) := by
  unfold State.outPush
  repeat' first
    | with_reducible assumption
    | with_reducible apply State.forkPush_keeps
    | with_reducible apply State.setElement_keeps
    | with_reducible apply ite_keeps
theorem State.writeDst_keeps (s : State) (l : Launch) (x : Slot) (eff : Effect)
    (hk : Kept s) : Kept (State.writeDst s l x eff) := by
  unfold State.writeDst
  repeat' first
    | with_reducible assumption
    | with_reducible apply State.outPush_keeps
    | with_reducible apply State.setElement_keeps
    | with_reducible apply ite_keeps
    | split
theorem State.effect_keeps (s : State) (l : Launch) (x : Slot) (usesB : Bool) (eff : Effect)
    (hk : Kept s) : Kept (State.effect s l x usesB eff) := by
  unfold State.effect
  repeat' first
    | with_reducible assumption
    | with_reducible apply State.setElement_keeps
    | with_reducible apply State.writeDst_keeps
theorem State.earlyFault_keeps (s : State) (l : Launch) (cause : Nat) (ecode : Nat)
    (hk : Kept s) : Kept (State.earlyFault s l cause ecode) := by
  unfold State.earlyFault
  repeat' first
    | with_reducible assumption
    | with_reducible apply State.elementFault_keeps
theorem State.lateFault_keeps (s : State) (l : Launch) (cause : Nat) (info : Nat)
    (hk : Kept s) : Kept (State.lateFault s l cause info) := by
  unfold State.lateFault
  repeat' first
    | with_reducible assumption
    | with_reducible apply State.setElement_keeps
theorem State.conclude_keeps (s : State) (x : Slot) (usesB : Bool) (faults : List (Option Nat)) (lates : List (Option (Nat × Nat))) (eff : Effect)
    (hk : Kept s) : Kept (State.conclude s x usesB faults lates eff) := by
  unfold State.conclude
  repeat' first
    | with_reducible assumption
    | with_reducible apply State.closeWindow_keeps
    | with_reducible apply State.earlyFault_keeps
    | with_reducible apply State.effect_keeps
    | with_reducible apply State.lateFault_keeps
    | with_reducible apply State.noteLocal_keeps
    | with_reducible refine of_some (by assumption) ?_
    | split
theorem State.one_keeps (s : State) (x : Slot) (pres : Nat) (ok : Src → Option Nat) (f : Src → Effect)
    (hk : Kept s) : Kept (State.one s x pres ok f) := by
  unfold State.one
  repeat' first
    | with_reducible assumption
    | with_reducible apply State.conclude_keeps
    | with_reducible apply State.source_keeps
theorem State.two_keeps (s : State) (x : Slot) (pres : Nat) (presB : Src → Nat) (ok : Src → Option Nat) (okB : Src → Src → Option Nat) (f : Src → Src → Effect)
    (hk : Kept s) : Kept (State.two s x pres presB ok okB f) := by
  unfold State.two
  repeat' first
    | with_reducible assumption
    | with_reducible apply State.conclude_keeps
    | with_reducible apply State.source_keeps
theorem State.three_keeps (s : State) (x : Slot) (t : Nat) (f : Src → Src → Src → Effect)
    (hk : Kept s) : Kept (State.three s x t f) := by
  unfold State.three
  repeat' first
    | with_reducible assumption
    | with_reducible apply State.conclude_keeps
    | with_reducible apply State.source_keeps

theorem State.row2_keeps (s : State) (f : BitVec 3) (x : Slot) (op : Val → Val → Val) (iop : Int → Int → Int)
    (hk : Kept s) : Kept (State.row2 s f x op iop) := by
  unfold State.row2
  repeat' first
    | with_reducible assumption
    | with_reducible apply State.two_keeps
theorem State.row1_keeps (s : State) (f : BitVec 3) (x : Slot) (op : Val → Val) (iop : Int → Int)
    (hk : Kept s) : Kept (State.row1 s f x op iop) := by
  unfold State.row1
  repeat' first
    | with_reducible assumption
    | with_reducible apply State.one_keeps
theorem State.rowBits_keeps (s : State) (f : BitVec 3) (x : Slot) (op : Line → Line → Line)
    (hk : Kept s) : Kept (State.rowBits s f x op) := by
  unfold State.rowBits
  repeat' first
    | with_reducible assumption
    | with_reducible apply State.two_keeps
theorem execVadd_keeps (f : BitVec 3) (x : Slot) (s : State) (hk : Kept s) :
    OutOk (execVadd f x s) := by
  unfold execVadd
  repeat' first
    | with_reducible assumption
    | with_reducible apply outOk_next
    | with_reducible apply State.row2_keeps
theorem execVsub_keeps (f : BitVec 3) (x : Slot) (s : State) (hk : Kept s) :
    OutOk (execVsub f x s) := by
  unfold execVsub
  repeat' first
    | with_reducible assumption
    | with_reducible apply outOk_next
    | with_reducible apply State.row2_keeps
theorem execVmul_keeps (f : BitVec 3) (x : Slot) (s : State) (hk : Kept s) :
    OutOk (execVmul f x s) := by
  unfold execVmul
  repeat' first
    | with_reducible assumption
    | with_reducible apply outOk_next
    | with_reducible apply State.row2_keeps
theorem execVmin_keeps (f : BitVec 3) (x : Slot) (s : State) (hk : Kept s) :
    OutOk (execVmin f x s) := by
  unfold execVmin
  repeat' first
    | with_reducible assumption
    | with_reducible apply outOk_next
    | with_reducible apply State.row2_keeps
theorem execVmax_keeps (f : BitVec 3) (x : Slot) (s : State) (hk : Kept s) :
    OutOk (execVmax f x s) := by
  unfold execVmax
  repeat' first
    | with_reducible assumption
    | with_reducible apply outOk_next
    | with_reducible apply State.row2_keeps
theorem execVabs_keeps (f : BitVec 3) (x : Slot) (s : State) (hk : Kept s) :
    OutOk (execVabs f x s) := by
  unfold execVabs
  repeat' first
    | with_reducible assumption
    | with_reducible apply outOk_next
    | with_reducible apply State.row1_keeps
theorem execVneg_keeps (f : BitVec 3) (x : Slot) (s : State) (hk : Kept s) :
    OutOk (execVneg f x s) := by
  unfold execVneg
  repeat' first
    | with_reducible assumption
    | with_reducible apply outOk_next
    | with_reducible apply State.row1_keeps
theorem execVand_keeps (f : BitVec 3) (x : Slot) (s : State) (hk : Kept s) :
    OutOk (execVand f x s) := by
  unfold execVand
  repeat' first
    | with_reducible assumption
    | with_reducible apply outOk_next
    | with_reducible apply State.rowBits_keeps
theorem execVor_keeps (f : BitVec 3) (x : Slot) (s : State) (hk : Kept s) :
    OutOk (execVor f x s) := by
  unfold execVor
  repeat' first
    | with_reducible assumption
    | with_reducible apply outOk_next
    | with_reducible apply State.rowBits_keeps
theorem execVxor_keeps (f : BitVec 3) (x : Slot) (s : State) (hk : Kept s) :
    OutOk (execVxor f x s) := by
  unfold execVxor
  repeat' first
    | with_reducible assumption
    | with_reducible apply outOk_next
    | with_reducible apply State.rowBits_keeps
theorem State.fused_keeps (s : State) (f : BitVec 3) (x : Slot) (minus : Bool)
    (hk : Kept s) : Kept (State.fused s f x minus) := by
  unfold State.fused
  repeat' first
    | with_reducible assumption
    | with_reducible apply State.three_keeps
theorem execFma_keeps (f : BitVec 3) (x : Slot) (s : State) (hk : Kept s) :
    OutOk (execFma f x s) := by
  unfold execFma
  repeat' first
    | with_reducible assumption
    | with_reducible apply outOk_next
    | with_reducible apply State.fused_keeps
theorem execFms_keeps (f : BitVec 3) (x : Slot) (s : State) (hk : Kept s) :
    OutOk (execFms f x s) := by
  unfold execFms
  repeat' first
    | with_reducible assumption
    | with_reducible apply outOk_next
    | with_reducible apply State.fused_keeps
theorem State.reduce_keeps (s : State) (f : BitVec 3) (x : Slot) (op : Val → Val → Val) (iop : Int → Int → Int) (sat : Bool) (adds : Bool)
    (hk : Kept s) : Kept (State.reduce s f x op iop sat adds) := by
  unfold State.reduce
  repeat' first
    | with_reducible assumption
    | with_reducible apply State.two_keeps
theorem execRadd_keeps (f : BitVec 3) (x : Slot) (s : State) (hk : Kept s) :
    OutOk (execRadd f x s) := by
  unfold execRadd
  repeat' first
    | with_reducible assumption
    | with_reducible apply outOk_next
    | with_reducible apply State.reduce_keeps
theorem execRmax_keeps (f : BitVec 3) (x : Slot) (s : State) (hk : Kept s) :
    OutOk (execRmax f x s) := by
  unfold execRmax
  repeat' first
    | with_reducible assumption
    | with_reducible apply outOk_next
    | with_reducible apply State.reduce_keeps
theorem execRmin_keeps (f : BitVec 3) (x : Slot) (s : State) (hk : Kept s) :
    OutOk (execRmin f x s) := by
  unfold execRmin
  repeat' first
    | with_reducible assumption
    | with_reducible apply outOk_next
    | with_reducible apply State.reduce_keeps
theorem execRmaxabs_keeps (f : BitVec 3) (x : Slot) (s : State) (hk : Kept s) :
    OutOk (execRmaxabs f x s) := by
  unfold execRmaxabs
  repeat' first
    | with_reducible assumption
    | with_reducible apply outOk_next
    | with_reducible apply State.reduce_keeps
theorem State.shift_keeps (s : State) (x : Slot) (op : Nat → Int → Nat → Int)
    (hk : Kept s) : Kept (State.shift s x op) := by
  unfold State.shift
  repeat' first
    | with_reducible assumption
    | with_reducible apply State.two_keeps
theorem execVshl_keeps (x : Slot) (s : State) (hk : Kept s) :
    OutOk (execVshl x s) := by
  unfold execVshl
  repeat' first
    | with_reducible assumption
    | with_reducible apply outOk_next
    | with_reducible apply State.shift_keeps
theorem execVshr_keeps (x : Slot) (s : State) (hk : Kept s) :
    OutOk (execVshr x s) := by
  unfold execVshr
  repeat' first
    | with_reducible assumption
    | with_reducible apply outOk_next
    | with_reducible apply State.shift_keeps
theorem execVsar_keeps (x : Slot) (s : State) (hk : Kept s) :
    OutOk (execVsar x s) := by
  unfold execVsar
  repeat' first
    | with_reducible assumption
    | with_reducible apply outOk_next
    | with_reducible apply State.shift_keeps
theorem execScalex_keeps (f : BitVec 2) (x : Slot) (s : State) (hk : Kept s) :
    OutOk (execScalex f x s) := by
  unfold execScalex
  repeat' first
    | with_reducible assumption
    | with_reducible apply outOk_next
    | with_reducible apply State.two_keeps
theorem execFdiv_keeps (dbl : Bool) (x : Slot) (s : State) (hk : Kept s) :
    OutOk (execFdiv dbl x s) := by
  unfold execFdiv
  repeat' first
    | with_reducible assumption
    | with_reducible apply outOk_next
    | with_reducible apply State.two_keeps
theorem State.func1_keeps (s : State) (dbl : Bool) (x : Slot) (f : Val → Val)
    (hk : Kept s) : Kept (State.func1 s dbl x f) := by
  unfold State.func1
  repeat' first
    | with_reducible assumption
    | with_reducible apply State.one_keeps
theorem execFsqrt_keeps (dbl : Bool) (x : Slot) (s : State) (hk : Kept s) :
    OutOk (execFsqrt dbl x s) := by
  unfold execFsqrt
  repeat' first
    | with_reducible assumption
    | with_reducible apply outOk_next
    | with_reducible apply State.func1_keeps
theorem execRcp_keeps (x : Slot) (s : State) (hk : Kept s) :
    OutOk (execRcp x s) := by
  unfold execRcp
  repeat' first
    | with_reducible assumption
    | with_reducible apply outOk_next
    | with_reducible apply State.func1_keeps
theorem execRsq_keeps (x : Slot) (s : State) (hk : Kept s) :
    OutOk (execRsq x s) := by
  unfold execRsq
  repeat' first
    | with_reducible assumption
    | with_reducible apply outOk_next
    | with_reducible apply State.func1_keeps
theorem execExp2_keeps (x : Slot) (s : State) (hk : Kept s) :
    OutOk (execExp2 x s) := by
  unfold execExp2
  repeat' first
    | with_reducible assumption
    | with_reducible apply outOk_next
    | with_reducible apply State.func1_keeps
theorem execLog2_keeps (x : Slot) (s : State) (hk : Kept s) :
    OutOk (execLog2 x s) := by
  unfold execLog2
  repeat' first
    | with_reducible assumption
    | with_reducible apply outOk_next
    | with_reducible apply State.func1_keeps
theorem execSinpi_keeps (x : Slot) (s : State) (hk : Kept s) :
    OutOk (execSinpi x s) := by
  unfold execSinpi
  repeat' first
    | with_reducible assumption
    | with_reducible apply outOk_next
    | with_reducible apply State.func1_keeps
theorem execCospi_keeps (x : Slot) (s : State) (hk : Kept s) :
    OutOk (execCospi x s) := by
  unfold execCospi
  repeat' first
    | with_reducible assumption
    | with_reducible apply outOk_next
    | with_reducible apply State.func1_keeps
theorem execTanh_keeps (x : Slot) (s : State) (hk : Kept s) :
    OutOk (execTanh x s) := by
  unfold execTanh
  repeat' first
    | with_reducible assumption
    | with_reducible apply outOk_next
    | with_reducible apply State.func1_keeps

theorem execCvtNamedSource_keeps (src : BitVec 4) (mode : BitVec 2) (x : Slot) (s : State)
    (hk : Kept s) : OutOk (execCvtNamedSource src mode x s) := by
  unfold execCvtNamedSource
  repeat' first
    | with_reducible assumption
    | with_reducible apply outOk_next
    | with_reducible apply State.one_keeps
theorem execCvt_keeps (mode : BitVec 2) (x : Slot) (s : State) (hk : Kept s) :
    OutOk (execCvt mode x s) := by
  unfold execCvt
  repeat' first
    | with_reducible assumption
    | with_reducible apply outOk_next
    | with_reducible apply State.one_keeps
theorem execQnt_keeps (dst : BitVec 2) (x : Slot) (s : State) (hk : Kept s) :
    OutOk (execQnt dst x s) := by
  unfold execQnt
  repeat' first
    | with_reducible assumption
    | with_reducible apply outOk_next
    | with_reducible apply State.two_keeps
theorem execMov_keeps (x : Slot) (s : State) (hk : Kept s) :
    OutOk (execMov x s) := by
  unfold execMov
  repeat' first
    | with_reducible assumption
    | with_reducible apply outOk_next
    | with_reducible apply State.one_keeps
theorem execRetag_keeps (x : Slot) (s : State) (hk : Kept s) :
    OutOk (execRetag x s) := by
  unfold execRetag
  repeat' first
    | with_reducible assumption
    | with_reducible apply outOk_next
    | with_reducible apply State.one_keeps
theorem execVbcast_keeps (x : Slot) (s : State) (hk : Kept s) :
    OutOk (execVbcast x s) := by
  unfold execVbcast
  repeat' first
    | with_reducible assumption
    | with_reducible apply outOk_next
    | with_reducible apply State.two_keeps
theorem execVshuf_keeps (x : Slot) (s : State) (hk : Kept s) :
    OutOk (execVshuf x s) := by
  unfold execVshuf
  repeat' first
    | with_reducible assumption
    | with_reducible apply outOk_next
    | with_reducible apply State.two_keeps
theorem execVsel_keeps (x : Slot) (s : State) (hk : Kept s) :
    OutOk (execVsel x s) := by
  unfold execVsel
  repeat' first
    | with_reducible assumption
    | with_reducible apply outOk_next
    | with_reducible apply State.two_keeps
theorem execPset_keeps (x : Slot) (s : State) (hk : Kept s) :
    OutOk (execPset x s) := by
  unfold execPset
  repeat' first
    | with_reducible assumption
    | with_reducible apply outOk_next
    | with_reducible apply State.one_keeps
theorem State.compare_keeps (s : State) (x : Slot) (f : Val → Val → Bool) (g : Int → Int → Bool)
    (hk : Kept s) : Kept (State.compare s x f g) := by
  unfold State.compare
  repeat' first
    | with_reducible assumption
    | with_reducible apply State.two_keeps
theorem execPcmpeq_keeps (x : Slot) (s : State) (hk : Kept s) :
    OutOk (execPcmpeq x s) := by
  unfold execPcmpeq
  repeat' first
    | with_reducible assumption
    | with_reducible apply outOk_next
    | with_reducible apply State.compare_keeps
theorem execPcmplt_keeps (x : Slot) (s : State) (hk : Kept s) :
    OutOk (execPcmplt x s) := by
  unfold execPcmplt
  repeat' first
    | with_reducible assumption
    | with_reducible apply outOk_next
    | with_reducible apply State.compare_keeps
theorem execPcmple_keeps (x : Slot) (s : State) (hk : Kept s) :
    OutOk (execPcmple x s) := by
  unfold execPcmple
  repeat' first
    | with_reducible assumption
    | with_reducible apply outOk_next
    | with_reducible apply State.compare_keeps
theorem execLdl_keeps (x : Slot) (s : State) (hk : Kept s) :
    OutOk (execLdl x s) := by
  unfold execLdl
  repeat' first
    | with_reducible assumption
    | with_reducible apply outOk_next
    | with_reducible apply State.one_keeps
theorem execStl_keeps (x : Slot) (s : State) (hk : Kept s) :
    OutOk (execStl x s) := by
  unfold execStl
  repeat' first
    | with_reducible assumption
    | with_reducible apply outOk_next
    | with_reducible apply State.one_keeps
theorem execNop_keeps (x : Slot) (s : State) (hk : Kept s) :
    OutOk (execNop x s) := by
  unfold execNop
  repeat' first
    | with_reducible assumption
    | with_reducible apply outOk_next
    | with_reducible apply State.conclude_keeps
theorem execEfault_keeps (x : Slot) (s : State) (hk : Kept s) :
    OutOk (execEfault x s) := by
  unfold execEfault
  repeat' first
    | with_reducible assumption
    | with_reducible apply outOk_next
    | with_reducible apply State.earlyFault_keeps
    | split
theorem execLateFiringFault_keeps (e : Nat) (s : State) (hk : Kept s) :
    OutOk (execLateFiringFault e s) := by
  unfold execLateFiringFault
  repeat' first
    | with_reducible assumption
    | with_reducible apply outOk_next
    | with_reducible apply State.haltLaunch_keeps
    | with_reducible apply State.keepFault_keeps
    | with_reducible apply State.setElement_keeps
    | with_reducible apply State.trubAdd_keeps
    | split
    | extract_lets
theorem execEvdec_keeps (x : Slot) (s : State) (hk : Kept s) :
    OutOk (execEvdec x s) := by
  unfold execEvdec
  repeat' first
    | with_reducible assumption
    | with_reducible apply outOk_next
    | with_reducible apply State.conclude_keeps
    | with_reducible apply State.source_keeps
theorem State.columns_keeps (s : State) (base : Nat) (j : Nat) (w : Nat) (a0 : List Nat) (a1 : List Nat)
    (hk : Kept s) : Kept (State.columns s base j w a0 a1).2.2 := by
  induction a0 generalizing s a1 with
  | nil =>
    unfold State.columns
    repeat' first
      | with_reducible assumption
  | cons y ys ih =>
    unfold State.columns
    repeat' first
      | with_reducible assumption
      | with_reducible apply State.readLocal_keeps
      | with_reducible apply ih
      | split
      | extract_lets
theorem execEvmac_keeps (x : Slot) (s : State) (hk : Kept s) :
    OutOk (execEvmac x s) := by
  unfold execEvmac
  repeat' first
    | with_reducible assumption
    | with_reducible apply outOk_next
    | with_reducible apply State.columns_keeps
    | with_reducible apply State.conclude_keeps
    | with_reducible apply State.source_keeps
    | split
    | extract_lets

theorem execMcfg_keeps (x : Slot) (s : State) (hk : Kept s) :
    OutOk (execMcfg x s) := by
  unfold execMcfg
  repeat' first
    | with_reducible assumption
    | with_reducible apply outOk_next
    | with_reducible apply State.conclude_keeps
    | with_reducible apply State.source_keeps
theorem execMmas_keeps (x : Slot) (s : State) (hk : Kept s) :
    OutOk (execMmas x s) := by
  unfold execMmas
  repeat' first
    | with_reducible assumption
    | with_reducible apply outOk_next
    | with_reducible apply State.conclude_keeps
    | with_reducible apply State.source_keeps
theorem execMzero_keeps (x : Slot) (s : State) (hk : Kept s) :
    OutOk (execMzero x s) := by
  unfold execMzero
  repeat' first
    | with_reducible assumption
    | with_reducible apply outOk_next
    | with_reducible apply State.conclude_keeps
theorem execMma_keeps (x : Slot) (s : State) (hk : Kept s) :
    OutOk (execMma x s) := by
  unfold execMma
  repeat' first
    | with_reducible assumption
    | with_reducible apply outOk_next
    | with_reducible apply State.conclude_keeps
    | with_reducible apply State.source_keeps
theorem execMread_keeps (x : Slot) (s : State) (hk : Kept s) :
    OutOk (execMread x s) := by
  unfold execMread
  repeat' first
    | with_reducible assumption
    | with_reducible apply outOk_next
    | with_reducible apply State.conclude_keeps
theorem execMrel_keeps (x : Slot) (s : State) (hk : Kept s) :
    OutOk (execMrel x s) := by
  unfold execMrel
  repeat' first
    | with_reducible assumption
    | with_reducible apply outOk_next
    | with_reducible apply State.conclude_keeps
theorem execMwrite_keeps (x : Slot) (s : State) (hk : Kept s) :
    OutOk (execMwrite x s) := by
  unfold execMwrite
  repeat' first
    | with_reducible assumption
    | with_reducible apply outOk_next
    | with_reducible apply State.conclude_keeps
    | with_reducible apply State.source_keeps

theorem State.checkToken_keeps (s : State) (e : Nat) (t : Token)
    (hk : Kept s) : Kept (State.checkToken s e t).2 := by
  unfold State.checkToken
  repeat' first
    | with_reducible assumption
    | with_reducible apply State.checkLine_keeps
theorem State.arriveConvert_keeps (s : State) (l : Launch) (e : Nat) (ch : Nat) (r : Word64)
    (hk : Kept s) : Kept (State.arriveConvert s l e ch r) := by
  unfold State.arriveConvert
  repeat' first
    | with_reducible assumption
    | with_reducible apply State.checkToken_keeps
    | with_reducible apply State.elementFault_keeps
    | with_reducible apply State.setElement_keeps
    | with_reducible refine of_snd (by assumption) ?_
    | with_reducible apply ite_keeps
    | split
theorem State.runUnit_keeps (s : State) (l : Launch) (e : Nat) (u : Inter) (a0 : Nat)
    (hk : Kept s) : Kept (State.runUnit s l e u a0) := by
  induction a0 generalizing s u with
  | zero =>
    unfold State.runUnit
    repeat' first
      | with_reducible assumption
  | succ n ih =>
    unfold State.runUnit
    repeat' first
      | with_reducible assumption
      | with_reducible apply State.elementFault_keeps
      | with_reducible apply State.setElement_keeps
      | with_reducible apply ih
      | with_reducible apply ite_keeps
      | split
theorem State.arriveInter_keeps (s : State) (l : Launch) (e : Nat) (ch : Nat)
    (hk : Kept s) : Kept (State.arriveInter s l e ch) := by
  unfold State.arriveInter
  repeat' first
    | with_reducible assumption
    | with_reducible apply State.checkToken_keeps
    | with_reducible apply State.elementFault_keeps
    | with_reducible apply State.runUnit_keeps
    | with_reducible apply State.setElement_keeps
    | with_reducible refine of_snd (by assumption) ?_
    | with_reducible apply ite_keeps
    | split
    | extract_lets
theorem State.noteArrival_keeps (s : State) (e : Nat) (hk : Kept s) :
    Kept (State.noteArrival s e) := by
  unfold State.noteArrival
  repeat' first
    | with_reducible assumption
    | with_reducible apply State.setElement_keeps
theorem execTokenArrive_keeps (e : Nat) (ch : Nat) (s0 : State)
    (hk : Kept s0) : OutOk (execTokenArrive e ch s0) := by
  unfold execTokenArrive
  repeat' first
    | with_reducible assumption
    | with_reducible apply outOk_next
    | with_reducible apply State.arriveConvert_keeps
    | with_reducible apply State.arriveInter_keeps
    | with_reducible apply State.noteArrival_keeps
    | with_reducible apply State.setElement_keeps
    | split
    | extract_lets
theorem execOutputTokenSend_keeps (e : Nat) (ch : Nat) (s : State)
    (hk : Kept s) : OutOk (execOutputTokenSend e ch s) := by
  unfold execOutputTokenSend
  repeat' first
    | with_reducible assumption
    | with_reducible apply outOk_next
    | with_reducible apply State.forkPush_keeps
    | with_reducible apply State.setElement_keeps
    | split
    | extract_lets
theorem execSlotAgeLift_keeps (e : Nat) (n : Nat) (s : State) (hk : Kept s) :
    OutOk (execSlotAgeLift e n s) := by
  unfold execSlotAgeLift
  repeat' first
    | with_reducible assumption
    | with_reducible apply outOk_next
    | with_reducible apply State.setElement_keeps
theorem State.planeFlip_keeps (s : State) (l : Launch) (e : Nat)
    (hk : Kept s) : Kept (State.planeFlip s l e) := by
  unfold State.planeFlip
  repeat' first
    | with_reducible assumption
    | with_reducible intro _ _ _
    | with_reducible apply foldl_keeps
    | with_reducible apply State.elementFault_keeps
    | with_reducible apply State.outPush_keeps
    | with_reducible apply State.setElement_keeps
    | with_reducible apply ite_keeps
    | split
    | extract_lets
theorem execPlaneFlip_keeps (e : Nat) (s : State) (hk : Kept s) :
    OutOk (execPlaneFlip e s) := by
  unfold execPlaneFlip
  repeat' first
    | with_reducible assumption
    | with_reducible apply outOk_next
    | with_reducible apply State.planeFlip_keeps
    | split
theorem execElementComplete_keeps (e : Nat) (s : State) (hk : Kept s) :
    OutOk (execElementComplete e s) := by
  unfold execElementComplete
  repeat' first
    | with_reducible assumption
    | with_reducible apply outOk_next
    | with_reducible apply State.setElement_keeps
    | split

end Sys2Proof.Machine
end

