-- ==== Sys2Proof/Laws/KeepStream.lean ====
section
/-! SUPPORT. Configuration, streams, generators and copy engines keep the invariant: one lemma per definition, citing the lemmas of what it calls. -/

set_option linter.unusedTactic false
set_option linter.unreachableTactic false
set_option linter.unusedVariables false
set_option linter.unusedSimpArgs false
set_option maxRecDepth 4096

namespace Sys2Proof.Machine

theorem State.readCells_keeps (s : State) (a : Word64) (a0 : Nat)
    (hk : Kept s) : Kept (State.readCells s a a0).2 := by
  induction a0 generalizing s a with
  | zero =>
    unfold State.readCells
    repeat' first
      | with_reducible assumption
  | succ n ih =>
    unfold State.readCells
    repeat' first
      | with_reducible assumption
      | with_reducible apply State.feNote_keeps
      | with_reducible apply State.prep_keeps
      | with_reducible apply ih
      | with_reducible refine of_snd (by assumption) ?_
      | split
theorem State.countImage_keeps (s : State) (g : Img) (r : Chk Stage1)
    (hk : Kept s) : Kept (State.countImage s g r) := by
  unfold State.countImage
  repeat' first
    | with_reducible assumption
    | with_reducible intro _ _ _
    | with_reducible apply foldl_keeps
    | with_reducible apply State.countCheck_keeps
    | split

theorem State.rejected_keeps (s : State) (off : Nat) (hk : Kept s) :
    Kept (State.rejected s off) := by
  unfold State.rejected
  repeat' first
    | with_reducible assumption
    | with_reducible apply State.trap_keeps
theorem State.command_keeps (s : State) (i : Instr) (f : Launch → State)
    (hf : ∀ x0, Kept (f x0)) (hk : Kept s) : Kept (State.command s i f) := by
  unfold State.command
  repeat' first
    | with_reducible assumption
    | with_reducible apply State.cancelTrap_keeps
    | with_reducible apply State.denied_keeps
    | apply hf
    | with_reducible apply ite_keeps
    | split
theorem State.afterStores_keeps (s : State) (i : Instr) (f : State) (hf : Kept f) (hk : Kept s) :
    Kept (State.afterStores s i f) := ite_keeps hf (State.waitFor_keeps _ _ hk)
theorem State.recordCommand_keeps (s : State) (i : Instr) (a : Word64) (f : Launch → State)
    (hf : ∀ x0, Kept (f x0)) (hk : Kept s) : Kept (State.recordCommand s i a f) := by
  unfold State.recordCommand
  repeat' first
    | with_reducible assumption
    | with_reducible apply State.afterStores_keeps
    | with_reducible apply State.command_keeps
    | with_reducible apply State.trap_keeps
    | apply hf
    | split
    | with_reducible intro _
theorem State.capture_keeps (s : State) (i : Instr) (l : Launch) (hk : Kept s) :
    Kept (State.capture s i l) := by
  unfold State.capture
  repeat' first
    | with_reducible assumption
    | with_reducible refine kept_cur_priv ?_
    | with_reducible apply kept_cur_epc
    | with_reducible apply kept_cur_tvec
    | with_reducible apply State.closeWindow_keeps
    | with_reducible apply State.setCur_keeps
    | split
    | extract_lets
    | (simp -zeta -proj only [strand_mk_iff]; refine ⟨?_, ?_, ?_⟩)
theorem State.drain_keeps (s : State) (i : Instr) (l : Launch) (f : State → State)
    (hf : ∀ x0, Kept x0 → Kept (f x0)) (hk : Kept s) : Kept (State.drain s i l f) := by
  unfold State.drain
  repeat' first
    | with_reducible assumption
    | with_reducible apply State.capture_keeps
    | with_reducible apply State.closeWindow_keeps
    | with_reducible apply State.waitFor_keeps
    | apply hf
    | with_reducible apply ite_keeps
    | split
    | extract_lets
theorem execSparge_keeps (s : State) (hk : Kept s) :
    OutOk (execSparge s) := by
  unfold execSparge
  repeat' first
    | with_reducible assumption
    | with_reducible intro _ _
    | with_reducible apply outOk_next
    | with_reducible apply State.command_keeps
    | with_reducible apply State.drain_keeps
    | with_reducible apply State.retire_keeps
    | extract_lets
    | with_reducible intro _
theorem State.forgetWalks_keeps (s : State) (l : Launch) (hk : Kept s) : Kept (State.forgetWalks s l) :=
  ⟨hk.mem, strandsKept_map (fun x => by dsimp only; split <;> rfl)
    (fun x k h => by dsimp only; split; exacts [⟨h.1, h.2.1, h.2.2⟩, h]) hk.strands, hk.dv⟩
theorem State.install_keeps (s : State) (l : Launch) (st : Stage1)
    (hk : Kept s) : Kept (State.install s l st) := by
  unfold State.install
  repeat' first
    | with_reducible assumption
    | with_reducible intro _ _ _
    | with_reducible apply foldl_keeps
    | with_reducible apply State.forgetWalks_keeps
    | with_reducible apply State.modLaunch_keeps
    | with_reducible apply State.openWindow_keeps
    | with_reducible apply State.setElement_keeps
    | with_reducible apply State.setJob_keeps
    | with_reducible apply State.setPort_keeps
    | with_reducible apply State.setTile_keeps
theorem State.installStandby_keeps (s : State) (st : Stage1)
    (hk : Kept s) : Kept (State.installStandby s st) := by
  unfold State.installStandby
  repeat' first
    | with_reducible assumption
    | with_reducible intro _ _ _
    | with_reducible apply foldl_keeps
    | with_reducible apply State.setElement_keeps
theorem State.readImage_keeps (s : State) (a : Word64) (hk : Kept s) :
    Kept (State.readImage s a).2 := by
  unfold State.readImage
  repeat' first
    | with_reducible assumption
    | with_reducible apply State.readCells_keeps
    | with_reducible refine of_snd (by assumption) ?_
    | split
theorem State.reject_keeps (s : State) (a0 : Rej) (hk : Kept s) :
    Kept (State.reject s a0) := by
  unfold State.reject
  repeat' first
    | with_reducible assumption
    | with_reducible apply State.rejected_keeps
    | with_reducible apply State.trap_keeps
    | split
theorem State.withImage_keeps (s : State) (i : Instr) (l : Launch) (a : Word64) (f : State → Stage1 → State)
    (hf : ∀ x0 x1, Kept x0 → Kept (f x0 x1)) (hk : Kept s) : Kept (State.withImage s i l a f) := by
  unfold State.withImage
  repeat' first
    | with_reducible assumption
    | with_reducible apply State.countImage_keeps
    | with_reducible apply State.readImage_keeps
    | with_reducible apply State.reject_keeps
    | with_reducible apply State.waitFor_keeps
    | apply hf
    | with_reducible refine of_snd (by assumption) ?_
    | split
    | extract_lets
    | dsimp -zeta +zetaDelta only
theorem execConfLoad_keeps (ga : GReg) (s : State) (hk : Kept s) :
    OutOk (execConfLoad ga s) := by
  unfold execConfLoad
  repeat' first
    | with_reducible assumption
    | with_reducible intro _ _ _
    | with_reducible intro _ _
    | with_reducible apply outOk_next
    | with_reducible apply State.afterStores_keeps
    | with_reducible apply State.atBoundary_keeps
    | with_reducible apply State.capture_keeps
    | with_reducible apply State.command_keeps
    | with_reducible apply State.drain_keeps
    | with_reducible apply State.install_keeps
    | with_reducible apply State.installStandby_keeps
    | with_reducible apply State.retire_keeps
    | with_reducible apply State.trap_keeps
    | with_reducible apply State.waitFor_keeps
    | with_reducible apply State.withImage_keeps
    | with_reducible apply ite_keeps
    | split
    | with_reducible intro _
theorem State.sendSwitch_keeps (s : State) (l : Launch) (v : BitVec 4)
    (hk : Kept s) : Kept (State.sendSwitch s l v) := by
  unfold State.sendSwitch
  repeat' first
    | with_reducible assumption
    | with_reducible intro _ _ _
    | with_reducible apply foldl_keeps
    | with_reducible apply kept_mem
    | with_reducible apply kept_strands
    | with_reducible apply kept_dv
    | with_reducible apply State.setTile_keeps
    | extract_lets
    | (simp -zeta -proj only [kept_mk_iff]; refine ⟨?_, ?_, ?_⟩)
theorem execConfSwitch_keeps (ga : GReg) (s : State) (hk : Kept s) :
    OutOk (execConfSwitch ga s) := by
  unfold execConfSwitch
  repeat' first
    | with_reducible assumption
    | with_reducible intro _ _
    | with_reducible apply outOk_next
    | with_reducible apply State.atBoundary_keeps
    | with_reducible apply State.command_keeps
    | with_reducible apply State.drain_keeps
    | with_reducible apply State.hold_keeps
    | with_reducible apply State.illegal_keeps
    | with_reducible apply State.modLaunch_keeps
    | with_reducible apply State.retire_keeps
    | with_reducible apply State.sendSwitch_keeps
    | with_reducible apply State.waitFor_keeps
    | with_reducible apply ite_keeps
    | split
    | with_reducible intro _
theorem execConfWait_keeps (gd : GReg) (s : State) (hk : Kept s) :
    OutOk (execConfWait gd s) := by
  unfold execConfWait
  repeat' first
    | with_reducible assumption
    | with_reducible apply outOk_next
    | with_reducible apply State.cancelTrap_keeps
    | with_reducible apply State.denied_keeps
    | with_reducible apply State.retireReg_keeps
    | with_reducible apply State.waitFor_keeps
    | with_reducible apply ite_keeps
    | split

theorem State.bindWalk_keeps (s : State) (l : Launch) (t : Nat) (g : Nat) (p : CellData)
    (hk : Kept s) : Kept (State.bindWalk s l t g p) := by
  unfold State.bindWalk
  repeat' first
    | with_reducible assumption
    | with_reducible apply State.setTile_keeps
theorem execSbind_keeps (ga : GReg) (gb : GReg) (s : State) (hk : Kept s) :
    OutOk (execSbind ga gb s) := by
  unfold execSbind
  repeat' first
    | with_reducible assumption
    | with_reducible intro _ _ _
    | with_reducible intro _ _
    | with_reducible apply outOk_next
    | with_reducible apply State.atBoundary_keeps
    | with_reducible apply State.bindWalk_keeps
    | with_reducible apply State.denied_keeps
    | with_reducible apply State.readRecord_keeps
    | with_reducible apply State.recordCommand_keeps
    | with_reducible apply State.rejected_keeps
    | with_reducible apply State.retire_keeps
    | with_reducible apply State.waitFor_keeps
    | split
    | extract_lets
    | with_reducible intro _
theorem State.accept_keeps (s : State) (l : Launch) (p : Nat) (mcast : Bool) (mask : Nat) (r : Line)
    (hk : Kept s) : Kept (State.accept s l p mcast mask r) := by
  unfold State.accept
  repeat' first
    | with_reducible assumption
    | with_reducible apply State.setPort_keeps
theorem State.queueCopy_keeps (s : State) (i : Instr) (sel : Word64) (a : Word64) (mcast : Bool) (mask : Nat)
    (hk : Kept s) : Kept (State.queueCopy s i sel a mcast mask) := by
  unfold State.queueCopy
  repeat' first
    | with_reducible assumption
    | with_reducible intro _ _ _
    | with_reducible intro _ _
    | with_reducible apply State.accept_keeps
    | with_reducible apply State.atBoundary_keeps
    | with_reducible apply State.denied_keeps
    | with_reducible apply State.readRecord_keeps
    | with_reducible apply State.recordCommand_keeps
    | with_reducible apply State.reject_keeps
    | with_reducible apply State.retire_keeps
    | with_reducible apply State.waitFor_keeps
    | split
    | extract_lets
    | with_reducible intro _
theorem execScopy_keeps (ga : GReg) (gb : GReg) (s : State) (hk : Kept s) :
    OutOk (execScopy ga gb s) := by
  unfold execScopy
  repeat' first
    | with_reducible assumption
    | with_reducible apply outOk_next
    | with_reducible apply State.queueCopy_keeps
theorem execSmcast_keeps (ga : GReg) (gb : GReg) (gc : GReg) (s : State)
    (hk : Kept s) : OutOk (execSmcast ga gb gc s) := by
  unfold execSmcast
  repeat' first
    | with_reducible assumption
    | with_reducible apply outOk_next
    | with_reducible apply State.queueCopy_keeps
theorem execPermLoad_keeps (ga : GReg) (gb : GReg) (s : State) (hk : Kept s) :
    OutOk (execPermLoad ga gb s) := by
  unfold execPermLoad
  repeat' first
    | with_reducible assumption
    | with_reducible intro _ _ _
    | with_reducible intro _ _
    | with_reducible apply outOk_next
    | with_reducible apply State.atBoundary_keeps
    | with_reducible apply State.denied_keeps
    | with_reducible apply State.readRecord_keeps
    | with_reducible apply State.recordCommand_keeps
    | with_reducible apply State.rejected_keeps
    | with_reducible apply State.retire_keeps
    | with_reducible apply State.setTile_keeps
    | with_reducible apply State.waitFor_keeps
    | with_reducible apply ite_keeps
    | split
    | with_reducible intro _
theorem execTdesc_keeps (ga : GReg) (s : State) (hk : Kept s) :
    OutOk (execTdesc ga s) := by
  unfold execTdesc
  repeat' first
    | with_reducible assumption
    | with_reducible intro _ _ _
    | with_reducible apply outOk_next
    | with_reducible apply State.readRecord_keeps
    | with_reducible apply State.recordCommand_keeps
    | with_reducible apply State.rejected_keeps
    | with_reducible apply State.retire_keeps
    | with_reducible apply State.setJob_keeps
    | split
    | extract_lets
    | with_reducible intro _

theorem State.grant_keeps (s : State) (t : Nat) (who : Claimant) (slot : Nat)
    (hk : Kept s) : Kept (State.grant s t who slot) := by
  unfold State.grant
  repeat' first
    | with_reducible assumption
    | with_reducible apply State.setPort_keeps
    | with_reducible apply State.setTile_keeps
    | split
theorem execBufferProducerClaim_keeps (t : Nat) (b : Nat) (s : State)
    (hk : Kept s) : OutOk (execBufferProducerClaim t b s) := by
  unfold execBufferProducerClaim
  repeat' first
    | with_reducible assumption
    | with_reducible apply outOk_next
    | with_reducible apply State.grant_keeps
    | with_reducible apply State.setTile_keeps
    | split
    | extract_lets
theorem execBufferProducerComplete_keeps (t : Nat) (b : Nat) (s : State)
    (hk : Kept s) : OutOk (execBufferProducerComplete t b s) := by
  unfold execBufferProducerComplete
  repeat' first
    | with_reducible assumption
    | with_reducible apply outOk_next
    | with_reducible apply State.setTile_keeps
    | split
    | extract_lets
theorem execBufferConsumerClaim_keeps (t : Nat) (b : Nat) (s : State)
    (hk : Kept s) : OutOk (execBufferConsumerClaim t b s) := by
  unfold execBufferConsumerClaim
  repeat' first
    | with_reducible assumption
    | with_reducible apply outOk_next
    | with_reducible apply State.grant_keeps
    | with_reducible apply State.setTile_keeps
    | split
    | extract_lets
theorem execBufferConsumerRelease_keeps (t : Nat) (b : Nat) (s : State)
    (hk : Kept s) : OutOk (execBufferConsumerRelease t b s) := by
  unfold execBufferConsumerRelease
  repeat' first
    | with_reducible assumption
    | with_reducible apply outOk_next
    | with_reducible apply State.setTile_keeps
    | split
    | extract_lets
theorem State.ask_keeps (s : State) (t : Nat) (b : Nat) (producer : Bool) (who : Claimant)
    (hk : Kept s) : Kept (State.ask s t b producer who) := by
  unfold State.ask
  repeat' first
    | with_reducible assumption
    | with_reducible apply State.setTile_keeps
theorem State.slotOver_keeps (s : State) (t : Nat) (b : Nat) (producer : Bool) (who : Claimant) (slot : Nat)
    (hk : Kept s) : Kept (State.slotOver s t b producer who slot) := by
  unfold State.slotOver
  repeat' first
    | with_reducible assumption
    | with_reducible apply State.setTile_keeps
theorem State.walkOver_keeps (s : State) (t g n : Nat) (hk : Kept s) : Kept (State.walkOver s t g n) := by
  refine ⟨hk.mem, strandsKept_map ?_ ?_ hk.strands, hk.dv⟩
  · exact fun _ => rfl
  · exact fun _ _ h => ⟨h.1, h.2.1, h.2.2⟩
theorem State.genAdvance_keeps (s : State) (t : Nat) (g : Nat) (w : Walk) (tok : Bool) (r : Walk × Bool × Bool)
    (hk : Kept s) : Kept (State.genAdvance s t g w tok r) := by
  unfold State.genAdvance
  repeat' first
    | with_reducible assumption
    | with_reducible apply State.setTile_keeps
    | with_reducible apply State.slotOver_keeps
    | with_reducible apply State.walkOver_keeps
    | with_reducible apply ite_keeps
    | split
theorem State.noteCells_keeps (s : State) (l : Launch) (t : Nat) (a0 : List Nat)
    (hk : Kept s) : OptOk (State.noteCells s l t a0) := by
  induction a0 generalizing s with
  | nil =>
    unfold State.noteCells
    repeat' first
      | with_reducible assumption
      | with_reducible apply optOk_some
  | cons y ys ih =>
    unfold State.noteCells
    repeat' first
      | with_reducible assumption
      | with_reducible exact optOk_none
      | with_reducible apply State.noteTile_keeps
      | with_reducible apply ih
      | with_reducible refine of_some (by assumption) ?_
      | split
theorem State.holdCells_keeps (s : State) (l : Launch) (t : Nat) (g : Nat) (exam : Bool)
    (hk : Kept s) : Kept (State.holdCells s l t g exam) := by
  unfold State.holdCells
  repeat' first
    | with_reducible assumption
    | with_reducible apply State.elementFault_keeps
    | with_reducible apply State.setTile_keeps
    | with_reducible apply ite_keeps
theorem State.tileFe_keeps (s : State) (u : UnitRef) (l : Launch) (hk : Kept s) :
    Kept (State.tileFe s u l) := by
  unfold State.tileFe
  repeat' first
    | with_reducible assumption
    | with_reducible apply State.elementFault_keeps
theorem State.genSend_keeps (s : State) (l : Launch) (t : Nat) (g : Nat) (tok : Token)
    (hk : Kept s) : Kept (State.genSend s l t g tok) := by
  unfold State.genSend
  repeat' first
    | with_reducible assumption
    | with_reducible apply State.forkPush_keeps
    | with_reducible apply State.setTile_keeps
theorem State.genRead_keeps (s : State) (l : Launch) (t : Nat) (g : Nat) (w : Walk) (cells : List Nat)
    (hk : Kept s) : Kept (State.genRead s l t g w cells) := by
  unfold State.genRead
  repeat' first
    | with_reducible assumption
    | with_reducible apply State.genAdvance_keeps
    | with_reducible apply State.genSend_keeps
    | with_reducible apply State.holdCells_keeps
    | with_reducible apply State.putCells_keeps
    | with_reducible apply State.setTile_keeps
    | with_reducible apply State.tileFe_keeps
    | with_reducible apply ite_keeps
theorem State.genWrite_keeps (s : State) (l : Launch) (t : Nat) (g : Nat) (w : Walk) (cells : List Nat) (tok : Token)
    (hk : Kept s) : Kept (State.genWrite s l t g w cells tok) := by
  unfold State.genWrite
  repeat' first
    | with_reducible assumption
    | with_reducible apply State.closeWindow_keeps
    | with_reducible apply State.elementFault_keeps
    | with_reducible apply State.genAdvance_keeps
    | with_reducible apply State.holdCells_keeps
    | with_reducible apply State.noteCells_keeps
    | with_reducible apply State.putCells_keeps
    | with_reducible apply State.setTile_keeps
    | with_reducible apply State.tileFe_keeps
    | with_reducible refine of_some (by assumption) ?_
    | with_reducible apply ite_keeps
    | split
theorem State.genMarker_keeps (s : State) (l : Launch) (t : Nat) (g : Nat) (w : Walk)
    (hk : Kept s) : Kept (State.genMarker s l t g w) := by
  unfold State.genMarker
  repeat' first
    | with_reducible assumption
    | with_reducible apply State.elementFault_keeps
    | with_reducible apply State.genAdvance_keeps
    | with_reducible apply State.genSend_keeps
    | with_reducible apply State.setTile_keeps
    | with_reducible apply ite_keeps
    | split
theorem State.genMove_keeps (s : State) (l : Launch) (t : Nat) (g : Nat) (w : Walk)
    (hk : Kept s) : Kept (State.genMove s l t g w) := by
  unfold State.genMove
  repeat' first
    | with_reducible assumption
    | with_reducible apply State.elementFault_keeps
    | with_reducible apply State.genMarker_keeps
    | with_reducible apply State.genRead_keeps
    | with_reducible apply State.genWrite_keeps
    | with_reducible apply State.setTile_keeps
    | with_reducible apply ite_keeps
    | split
theorem State.genStep_keeps (s : State) (l : Launch) (t : Nat) (g : Nat)
    (hk : Kept s) : Kept (State.genStep s l t g) := by
  unfold State.genStep
  repeat' first
    | with_reducible assumption
    | with_reducible apply State.ask_keeps
    | with_reducible apply State.genMove_keeps
    | with_reducible apply State.genSend_keeps
    | with_reducible apply State.setTile_keeps
    | with_reducible apply ite_keeps
    | split
    | extract_lets
theorem execGeneratorTransfer_keeps (t : Nat) (g : Nat) (s : State)
    (hk : Kept s) : OutOk (execGeneratorTransfer t g s) := by
  unfold execGeneratorTransfer
  repeat' first
    | with_reducible assumption
    | with_reducible apply outOk_next
    | with_reducible apply State.genStep_keeps
    | with_reducible apply ite_keeps
    | split
theorem execGeneratorReexamine_keeps (t : Nat) (g : Nat) (s : State)
    (hk : Kept s) : OutOk (execGeneratorReexamine t g s) := by
  unfold execGeneratorReexamine
  repeat' first
    | with_reducible assumption
    | with_reducible apply outOk_next
    | with_reducible apply State.genMove_keeps
    | with_reducible apply State.holdCells_keeps
    | with_reducible apply State.setTile_keeps
    | with_reducible apply State.tileFe_keeps
    | split
    | extract_lets

theorem State.modCmd_keeps (s : State) (p : Nat) (id : Nat) (f : Cmd → Cmd)
    (hk : Kept s) : Kept (State.modCmd s p id f) := by
  unfold State.modCmd
  repeat' first
    | with_reducible assumption
    | with_reducible apply State.setPort_keeps
theorem State.askSlots_keeps (s : State) (l : Launch) (p : Nat) (c : Cmd)
    (hk : Kept s) : Kept (State.askSlots s l p c) := by
  unfold State.askSlots
  repeat' first
    | with_reducible assumption
    | with_reducible intro _ _ _
    | with_reducible apply foldl_keeps
    | with_reducible apply State.ask_keeps
    | with_reducible apply State.modCmd_keeps
theorem State.spendCmd_keeps (s : State) (p : Nat) (id : Nat) (exam : Bool)
    (hk : Kept s) : Kept (State.spendCmd s p id exam) := by
  unfold State.spendCmd
  repeat' first
    | with_reducible assumption
    | with_reducible apply State.modCmd_keeps
    | with_reducible apply ite_keeps
theorem State.engWait_keeps (s : State) (l : Launch) (p : Nat) (id : Nat) (pa : Nat) (va : Nat) (discarded : Bool) (exam : Bool)
    (hk : Kept s) : Kept (State.engWait s l p id pa va discarded exam) := by
  unfold State.engWait
  repeat' first
    | with_reducible assumption
    | with_reducible apply State.dropWait_keeps
    | with_reducible apply State.elementFault_keeps
    | with_reducible apply State.enterWait_keeps
    | with_reducible apply State.reWait_keeps
    | with_reducible apply State.spendCmd_keeps
    | with_reducible apply ite_keeps
theorem State.copyConsume_keeps (s : State) (l : Launch) (p : Nat) (c : Cmd) (pa : Nat) (va : Nat) (exam : Bool)
    (hk : Kept s) : ReadOk (State.copyConsume s l p c pa va exam) := by
  unfold State.copyConsume
  repeat' first
    | with_reducible assumption
    | with_reducible apply readOk_got
    | with_reducible apply readOk_stop
    | with_reducible apply State.dropWait_keeps
    | with_reducible apply State.engFe_keeps
    | with_reducible apply State.gate_keeps
    | with_reducible apply State.machineCheck_keeps
    | with_reducible apply State.setFe_keeps
    | with_reducible apply State.spendCmd_keeps
    | with_reducible refine of_pass (by assumption) ?_
    | with_reducible refine of_invalid (by assumption) ?_
    | with_reducible refine of_held (by assumption) ?_
    | with_reducible refine of_damaged (by assumption) ?_
    | split
    | extract_lets
theorem State.copyRead_keeps (s : State) (l : Launch) (p : Nat) (c : Cmd) (n : Nat) (exam : Bool)
    (hk : Kept s) : ReadOk (State.copyRead s l p c n exam) := by
  unfold State.copyRead
  repeat' first
    | with_reducible assumption
    | with_reducible apply readOk_got
    | with_reducible apply readOk_stop
    | with_reducible apply State.copyConsume_keeps
    | with_reducible apply State.elementFault_keeps
    | with_reducible apply State.engAcc_keeps
    | with_reducible apply State.engFe_keeps
    | with_reducible apply State.engWait_keeps
    | with_reducible apply State.fillLine_keeps
    | with_reducible apply State.l1Fill_keeps
    | with_reducible apply State.pageFault_keeps
    | with_reducible apply State.setWaiters_keeps
    | split
    | extract_lets
theorem State.landPush_keeps (s : State) (p : Nat) (c : Cmd) (n : Nat) (x : Cell) (ds : List (Nat × Nat))
    (hk : Kept s) : Kept (State.landPush s p c n x ds) := by
  unfold State.landPush
  repeat' first
    | with_reducible assumption
    | with_reducible intro _ _ _
    | with_reducible apply foldl_keeps
    | with_reducible apply State.setTile_keeps
theorem State.moved_keeps (s : State) (p : Nat) (id : Nat) (own : Bool)
    (hk : Kept s) : Kept (State.moved s p id own) := by
  unfold State.moved
  repeat' first
    | with_reducible assumption
    | with_reducible apply State.modCmd_keeps
theorem State.copyIn_keeps (s : State) (l : Launch) (p : Nat) (c : Cmd) (exam : Bool)
    (hk : Kept s) : Kept (State.copyIn s l p c exam) := by
  unfold State.copyIn
  repeat' first
    | with_reducible assumption
    | with_reducible apply State.copyRead_keeps
    | with_reducible apply State.landPush_keeps
    | with_reducible apply State.moved_keeps
    | with_reducible refine of_read (by assumption) ?_
    | with_reducible refine of_unread (by assumption) ?_
    | with_reducible apply ite_keeps
    | split
theorem execLandingWrite_keeps (t : Nat) (g : Nat) (s : State)
    (hk : Kept s) : OutOk (execLandingWrite t g s) := by
  unfold execLandingWrite
  repeat' first
    | with_reducible assumption
    | with_reducible apply outOk_next
    | with_reducible apply State.closeWindow_keeps
    | with_reducible apply State.elementFault_keeps
    | with_reducible apply State.modCmd_keeps
    | with_reducible apply State.noteTile_keeps
    | with_reducible apply State.putCells_keeps
    | with_reducible apply State.setTile_keeps
    | with_reducible apply State.tileFe_keeps
    | with_reducible refine of_some (by assumption) ?_
    | split
    | extract_lets
theorem State.holdEffect_keeps (s : State) (l : Nat) (h : Held)
    (hk : Kept s) : Kept (State.holdEffect s l h) := by
  unfold State.holdEffect
  repeat' first
    | with_reducible assumption
    | with_reducible apply State.modLaunch_keeps
theorem State.engStore_keeps (s : State) (l : Launch) (p : Nat) (va : Nat) (comp : Bool) (x : Cell) (fe : Option (BitVec 2))
    (hk : Kept s) : EngOk (State.engStore s l p va comp x fe) := by
  unfold State.engStore
  repeat' first
    | with_reducible assumption
    | with_reducible apply engOk_done
    | with_reducible apply engOk_wait
    | with_reducible apply engOk_stop
    | with_reducible apply State.elementFault_keeps
    | with_reducible apply State.engAcc_keeps
    | with_reducible apply State.engPut_keeps
    | with_reducible apply State.holdEffect_keeps
    | with_reducible apply State.pageFault_keeps
    | split
    | extract_lets
theorem State.waitTile_keeps (s : State) (l : Launch) (p : Nat) (c : Cmd) (exam : Bool)
    (hk : Kept s) : Kept (State.waitTile s l p c exam) := by
  unfold State.waitTile
  repeat' first
    | with_reducible assumption
    | with_reducible apply State.elementFault_keeps
    | with_reducible apply State.setPlace_keeps
    | with_reducible apply State.spendCmd_keeps
    | with_reducible apply ite_keeps
theorem State.copyOut_keeps (s : State) (l : Launch) (p : Nat) (t : Nat) (c : Cmd) (exam : Bool)
    (hk : Kept s) : Kept (State.copyOut s l p t c exam) := by
  unfold State.copyOut
  repeat' first
    | with_reducible assumption
    | with_reducible apply optOk_some
    | with_reducible apply State.closeWindow_keeps
    | with_reducible apply State.engStore_keeps
    | with_reducible apply State.modCmd_keeps
    | with_reducible apply State.noteTile_keeps
    | with_reducible apply State.putCells_keeps
    | with_reducible apply State.setPlace_keeps
    | with_reducible apply State.slotOver_keeps
    | with_reducible apply State.spendCmd_keeps
    | with_reducible apply State.tileFe_keeps
    | with_reducible apply State.waitTile_keeps
    | with_reducible refine of_done (by assumption) ?_
    | with_reducible refine of_wait (by assumption) ?_
    | with_reducible refine of_halt (by assumption) ?_
    | with_reducible refine of_some (by assumption) ?_
    | with_reducible apply ite_keeps
    | split
theorem State.copyStep_keeps (s : State) (l : Launch) (p : Nat) (c : Cmd) (exam : Bool)
    (hk : Kept s) : Kept (State.copyStep s l p c exam) := by
  unfold State.copyStep
  repeat' first
    | with_reducible assumption
    | with_reducible apply State.askSlots_keeps
    | with_reducible apply State.copyIn_keeps
    | with_reducible apply State.copyOut_keeps
    | with_reducible apply ite_keeps
    | split
theorem execCopyTransfer_keeps (p : Nat) (id : Nat) (s : State)
    (hk : Kept s) : OutOk (execCopyTransfer p id s) := by
  unfold execCopyTransfer
  repeat' first
    | with_reducible assumption
    | with_reducible apply outOk_next
    | with_reducible apply State.copyStep_keeps
    | split
theorem State.endCmd_keeps (s : State) (l : Launch) (p : Nat) (id : Nat)
    (hk : Kept s) : Kept (State.endCmd s l p id) := by
  unfold State.endCmd
  repeat' first
    | with_reducible assumption
    | with_reducible apply State.modCmd_keeps
    | with_reducible apply State.setPort_keeps
    | split
theorem State.finishDone_keeps (s : State) (l : Launch) (p : Nat) (c : Cmd)
    (hk : Kept s) : Kept (State.finishDone s l p c) := by
  unfold State.finishDone
  repeat' first
    | with_reducible assumption
    | with_reducible apply State.decrementAt_keeps
    | with_reducible apply State.elementFault_keeps
    | with_reducible apply State.endCmd_keeps
    | with_reducible apply State.engAcc_keeps
    | with_reducible apply State.engFe_keeps
    | with_reducible apply State.gate_keeps
    | with_reducible apply State.holdEffect_keeps
    | with_reducible apply State.machineCheck_keeps
    | with_reducible apply State.pageFault_keeps
    | with_reducible apply State.revive_keeps
    | with_reducible refine of_pass (by assumption) ?_
    | with_reducible refine of_invalid (by assumption) ?_
    | with_reducible refine of_held (by assumption) ?_
    | with_reducible refine of_damaged (by assumption) ?_
    | with_reducible apply ite_keeps
    | split
    | extract_lets
    | dsimp -zeta +zetaDelta only
theorem execCopyFinish_keeps (p : Nat) (id : Nat) (s : State) (hk : Kept s) :
    OutOk (execCopyFinish p id s) := by
  unfold execCopyFinish
  repeat' first
    | with_reducible assumption
    | with_reducible intro _ _ _
    | with_reducible apply foldl_keeps
    | with_reducible apply outOk_next
    | with_reducible apply State.finishDone_keeps
    | with_reducible apply State.modCmd_keeps
    | with_reducible apply State.slotOver_keeps
    | split
theorem execFollowStartToken_keeps (p : Nat) (id : Nat) (s : State)
    (hk : Kept s) : OutOk (execFollowStartToken p id s) := by
  unfold execFollowStartToken
  repeat' first
    | with_reducible assumption
    | with_reducible apply outOk_next
    | with_reducible apply State.modCmd_keeps
    | with_reducible apply State.setElement_keeps
    | split
    | extract_lets
theorem State.histCells_keeps (s : State) (p : Nat) (t : Nat) (a0 : List Nat)
    (hk : Kept s) : Kept (State.histCells s p t a0).2 := by
  induction a0 generalizing s with
  | nil =>
    unfold State.histCells
    repeat' first
      | with_reducible assumption
  | cons y ys ih =>
    unfold State.histCells
    repeat' first
      | with_reducible assumption
      | with_reducible apply State.countCheck_keeps
      | with_reducible apply ih
      | split
      | extract_lets
theorem State.histWrite_keeps (s : State) (l : Launch) (p : Nat) (comp : Bool) (fe : Option (BitVec 2)) (va : Nat) (a0 : List CellData)
    (hk : Kept s) : EngOk (State.histWrite s l p comp fe va a0) := by
  induction a0 generalizing s va with
  | nil =>
    unfold State.histWrite
    repeat' first
      | with_reducible assumption
      | with_reducible apply engOk_done
  | cons y ys ih =>
    unfold State.histWrite
    repeat' first
      | with_reducible assumption
      | with_reducible apply State.engStore_keeps
      | with_reducible apply ih
      | with_reducible refine of_done (by assumption) ?_
      | split
theorem State.histStep_keeps (s : State) (l : Launch) (p : Nat) (t : Nat) (c : Cmd) (exam : Bool)
    (hk : Kept s) : Kept (State.histStep s l p t c exam) := by
  unfold State.histStep
  repeat' first
    | with_reducible assumption
    | with_reducible apply State.closeWindow_keeps
    | with_reducible apply State.elementFault_keeps
    | with_reducible apply State.histCells_keeps
    | with_reducible apply State.histWrite_keeps
    | with_reducible apply State.modCmd_keeps
    | with_reducible apply State.noteCells_keeps
    | with_reducible apply State.putCells_keeps
    | with_reducible apply State.setPlace_keeps
    | with_reducible apply State.slotOver_keeps
    | with_reducible apply State.spendCmd_keeps
    | with_reducible apply State.tileFe_keeps
    | with_reducible apply State.waitTile_keeps
    | with_reducible refine of_done (by assumption) ?_
    | with_reducible refine of_halt (by assumption) ?_
    | with_reducible refine of_snd (by assumption) ?_
    | with_reducible refine of_some (by assumption) ?_
    | with_reducible apply ite_keeps
    | split
    | extract_lets
theorem State.histMove_keeps (s : State) (l : Launch) (p : Nat) (c : Cmd) (exam : Bool)
    (hk : Kept s) : Kept (State.histMove s l p c exam) := by
  unfold State.histMove
  repeat' first
    | with_reducible assumption
    | with_reducible apply State.askSlots_keeps
    | with_reducible apply State.histStep_keeps
    | with_reducible apply ite_keeps
    | split
theorem execHistoryCompress_keeps (p : Nat) (id : Nat) (s : State)
    (hk : Kept s) : OutOk (execHistoryCompress p id s) := by
  unfold execHistoryCompress
  repeat' first
    | with_reducible assumption
    | with_reducible apply outOk_next
    | with_reducible apply State.histMove_keeps
    | split
theorem State.locate_keeps (s : State) (l : Launch) (p : Nat) (r : Line) (a0 : List Nat)
    (hk : Kept s) : LocatedOk (State.locate s l p r a0) := by
  induction a0 generalizing s with
  | nil =>
    unfold State.locate
    repeat' first
      | with_reducible assumption
      | with_reducible apply locatedOk_found
  | cons y ys ih =>
    unfold State.locate
    repeat' first
      | with_reducible assumption
      | with_reducible apply locatedOk_found
      | with_reducible apply locatedOk_stop
      | with_reducible apply State.elementFault_keeps
      | with_reducible apply State.engAcc_keeps
      | with_reducible apply State.pageFault_keeps
      | with_reducible apply ih
      | with_reducible refine of_found (by assumption) ?_
      | split
      | extract_lets
theorem State.mergeRequest_keeps (s : State) (l : Launch) (p : Nat) (c : Cmd) (first : Nat) (cells : List (Nat × Nat))
    (hk : Kept s) : Kept (State.mergeRequest s l p c first cells) := by
  unfold State.mergeRequest
  repeat' first
    | with_reducible assumption
    | with_reducible apply State.modCmd_keeps
    | with_reducible apply State.setSlice_keeps
    | with_reducible apply ite_keeps
    | split
    | extract_lets
theorem State.sendRequests_keeps (s : State) (l : Launch) (p : Nat) (c : Cmd)
    (hk : Kept s) : Kept (State.sendRequests s l p c) := by
  unfold State.sendRequests
  repeat' first
    | with_reducible assumption
    | with_reducible intro _ _ _
    | with_reducible apply foldl_keeps
    | with_reducible apply State.locate_keeps
    | with_reducible apply State.mergeRequest_keeps
    | with_reducible apply State.modCmd_keeps
    | with_reducible refine of_found (by assumption) ?_
    | with_reducible refine of_unfound (by assumption) ?_
    | with_reducible apply ite_keeps
    | split
    | extract_lets
theorem execMulticastRequest_keeps (p : Nat) (id : Nat) (s : State)
    (hk : Kept s) : OutOk (execMulticastRequest p id s) := by
  unfold execMulticastRequest
  repeat' first
    | with_reducible assumption
    | with_reducible apply outOk_next
    | with_reducible apply State.askSlots_keeps
    | with_reducible apply State.sendRequests_keeps
    | with_reducible apply ite_keeps
    | split
theorem State.lineSend_keeps (s : State) (m : Merge) (i : Nat) (ts : List (Joiner × Launch × Cmd))
    (hk : Kept s) : Kept (State.lineSend s m i ts) := by
  unfold State.lineSend
  repeat' first
    | with_reducible assumption
    | with_reducible intro _ _ _
    | with_reducible apply foldl_keeps
    | with_reducible apply State.engFe_keeps
    | with_reducible apply State.fillLine_keeps
    | with_reducible apply State.landPush_keeps
    | with_reducible apply State.moved_keeps
    | with_reducible apply ite_keeps
theorem execMulticastLineSend_keeps (h : Nat) (m : Nat) (s : State)
    (hk : Kept s) : OutOk (execMulticastLineSend h m s) := by
  unfold execMulticastLineSend
  repeat' first
    | with_reducible assumption
    | with_reducible apply outOk_next
    | with_reducible apply State.lineSend_keeps
    | with_reducible apply State.setSlice_keeps
    | split
    | extract_lets
theorem execMergeWindowExpire_keeps (h : Nat) (m : Nat) (s : State)
    (hk : Kept s) : OutOk (execMergeWindowExpire h m s) := by
  unfold execMergeWindowExpire
  repeat' first
    | with_reducible assumption
    | with_reducible apply outOk_next
    | with_reducible apply State.setSlice_keeps
    | split
    | extract_lets

end Sys2Proof.Machine
end

