-- ==== Sys2Proof/Laws/KeepWork.lean ====
section
/-! SUPPORT. Watch groups, launches, phases, tasks, contexts, the dispatchers and power keep the invariant: one lemma per definition, citing the lemmas of what it calls. -/

set_option linter.unusedTactic false
set_option linter.unreachableTactic false
set_option linter.unusedVariables false
set_option linter.unusedSimpArgs false
set_option maxRecDepth 4096

namespace Sys2Proof.Machine

theorem State.modEntry_keeps (s : State) (t : Nat) (num : BitVec 14) (f : WEntry → WEntry)
    (hk : Kept s) : Kept (State.modEntry s t num f) := by
  unfold State.modEntry
  repeat' first
    | with_reducible assumption
    | with_reducible apply State.setTile_keeps
theorem State.modMembers_keeps (s : State) (ms : List Member) (f : Member → WEntry → WEntry)
    (hk : Kept s) : Kept (State.modMembers s ms f) := by
  unfold State.modMembers
  repeat' first
    | with_reducible assumption
    | with_reducible intro _ _ _
    | with_reducible apply foldl_keeps
    | with_reducible apply State.modEntry_keeps
theorem State.groupFault_keeps (s : State) (l : Launch) (g : Group) (cause : Nat) (info : Nat)
    (hk : Kept s) : Kept (State.groupFault s l g cause info) := by
  unfold State.groupFault
  repeat' first
    | with_reducible assumption
    | with_reducible intro _ _ _
    | with_reducible apply foldl_keeps
    | with_reducible apply State.elementFault_keeps
theorem State.watchCells_keeps (s : State) (job : Nat) (t : Nat) (a : Nat) (a0 : Nat)
    (hk : Kept s) : Kept (State.watchCells s job t a a0).2 := by
  induction a0 generalizing s a with
  | zero =>
    unfold State.watchCells
    repeat' first
      | with_reducible assumption
  | succ n ih =>
    unfold State.watchCells
    repeat' first
      | with_reducible assumption
      | with_reducible apply State.countCheck_keeps
      | with_reducible apply ih
      | split
      | extract_lets
theorem State.counts_keeps (s : State) (job : Nat) (m : Member)
    (hk : Kept s) : Kept (State.counts s job m).2 := by
  unfold State.counts
  repeat' first
    | with_reducible assumption
    | with_reducible apply State.watchCells_keeps
theorem State.writeWords_keeps (s : State) (t : Nat) (a : Nat) (xs : List Nat) (fe : Option (BitVec 2))
    (hk : Kept s) : Kept (State.writeWords s t a xs fe) := by
  unfold State.writeWords
  repeat' first
    | with_reducible assumption
    | with_reducible apply State.putCells_keeps
theorem State.writeCounts_keeps (s : State) (m : Member) (cs : List Int) (fe : Option (BitVec 2))
    (hk : Kept s) : Kept (State.writeCounts s m cs fe) := by
  unfold State.writeCounts
  repeat' first
    | with_reducible assumption
    | with_reducible apply State.writeWords_keeps
theorem State.openGroup_keeps (s : State) (l : Launch) (g : Group)
    (hk : Kept s) : Kept (State.openGroup s l g) := by
  unfold State.openGroup
  repeat' first
    | with_reducible assumption
    | with_reducible intro _ _ _
    | with_reducible apply foldl_keeps
    | with_reducible apply State.modGroup_keeps
    | with_reducible apply State.modMembers_keeps
    | with_reducible apply State.writeCounts_keeps
    | with_reducible apply State.writeWords_keeps
    | with_reducible apply ite_keeps
    | split
theorem execWopen_keeps (ga : GReg) (s : State) (hk : Kept s) :
    OutOk (execWopen ga s) := by
  unfold execWopen
  repeat' first
    | with_reducible assumption
    | with_reducible intro _ _ _
    | with_reducible intro _ _
    | with_reducible apply foldl_keeps
    | with_reducible apply outOk_next
    | with_reducible apply State.atBoundary_keeps
    | with_reducible apply State.command_keeps
    | with_reducible apply State.denied_keeps
    | with_reducible apply State.openGroup_keeps
    | with_reducible apply State.rejected_keeps
    | with_reducible apply State.retire_keeps
    | with_reducible apply State.waitFor_keeps
    | with_reducible apply ite_keeps
    | split
    | extract_lets
    | with_reducible intro _
theorem State.readRaw_keeps (s : State) (i : Instr) (a : Word64) (a0 : Nat) (a1 : State → List Cell → State)
    (ha1 : ∀ x0 x1, Kept x0 → Kept (a1 x0 x1)) (hk : Kept s) : Kept (State.readRaw s i a a0 a1) := by
  induction a0 generalizing s a a1 with
  | zero =>
    unfold State.readRaw
    repeat' first
      | with_reducible assumption
      | apply ha1
  | succ n ih =>
    unfold State.readRaw
    repeat' first
      | with_reducible assumption
      | with_reducible intro _ _ _
      | with_reducible apply State.feCheck_keeps
      | with_reducible apply State.fillLine_keeps
      | with_reducible apply State.withAccess_keeps
      | apply ha1
      | with_reducible apply ih
      | with_reducible apply ite_keeps
theorem State.readBlocks_keeps (s : State) (i : Instr) (a0 : List Group) (a1 : State → List (List Cell) → State)
    (ha1 : ∀ x0 x1, Kept x0 → Kept (a1 x0 x1)) (hk : Kept s) : Kept (State.readBlocks s i a0 a1) := by
  induction a0 generalizing s a1 with
  | nil =>
    unfold State.readBlocks
    repeat' first
      | with_reducible assumption
      | apply ha1
  | cons y ys ih =>
    unfold State.readBlocks
    repeat' first
      | with_reducible assumption
      | with_reducible intro _ _ _
      | with_reducible apply State.readRaw_keeps
      | apply ha1
      | with_reducible apply ih
theorem State.deliver_keeps (s : State) (l : Launch) (g : Group) (cs : List Cell)
    (hk : Kept s) : Kept (State.deliver s l g cs) := by
  unfold State.deliver
  repeat' first
    | with_reducible assumption
    | with_reducible intro _ _ _
    | with_reducible apply foldl_keeps
    | with_reducible apply State.countCheck_keeps
    | with_reducible apply State.counts_keeps
    | with_reducible apply State.elementFault_keeps
    | with_reducible apply State.groupFault_keeps
    | with_reducible apply State.modEntry_keeps
    | with_reducible apply State.modGroup_keeps
    | with_reducible refine of_snd (by assumption) ?_
    | split
    | extract_lets
theorem State.wstepEnd_keeps (s : State) (i : Instr) (gd : GReg) (l : Launch)
    (hk : Kept s) : Kept (State.wstepEnd s i gd l) := by
  unfold State.wstepEnd
  repeat' first
    | with_reducible assumption
    | with_reducible apply State.cancelTrap_keeps
    | with_reducible apply State.retireReg_keeps
    | with_reducible apply State.waitFor_keeps
    | with_reducible apply ite_keeps
    | split
theorem execWstep_keeps (gd : GReg) (ga : GReg) (s : State) (hk : Kept s) :
    OutOk (execWstep gd ga s) := by
  unfold execWstep
  repeat' first
    | with_reducible assumption
    | with_reducible intro _ _ _
    | with_reducible intro _ _
    | with_reducible apply foldl_keeps
    | with_reducible apply outOk_next
    | with_reducible apply State.afterStores_keeps
    | with_reducible apply State.atBoundary_keeps
    | with_reducible apply State.command_keeps
    | with_reducible apply State.deliver_keeps
    | with_reducible apply State.denied_keeps
    | with_reducible apply State.hold_keeps
    | with_reducible apply State.readBlocks_keeps
    | with_reducible apply State.rejected_keeps
    | with_reducible apply State.wstepEnd_keeps
    | with_reducible apply ite_keeps
    | split
    | extract_lets
    | with_reducible intro _
theorem State.closeGroup_keeps (s : State) (l : Launch) (g : Group)
    (hk : Kept s) : Kept (State.closeGroup s l g) := by
  unfold State.closeGroup
  repeat' first
    | with_reducible assumption
    | with_reducible apply State.modGroup_keeps
    | with_reducible apply State.modMembers_keeps
theorem State.closeOn_keeps (s : State) (i : Instr) (l : Launch) (a0 : List Group)
    (hk : Kept s) : Kept (State.closeOn s i l a0) := by
  induction a0 generalizing s with
  | nil =>
    unfold State.closeOn
    repeat' first
      | with_reducible assumption
      | with_reducible apply State.retire_keeps
  | cons y ys ih =>
    unfold State.closeOn
    repeat' first
      | with_reducible assumption
      | with_reducible apply State.closeGroup_keeps
      | with_reducible apply State.hold_keeps
      | with_reducible apply ih
      | with_reducible apply ite_keeps
theorem execWclose_keeps (ga : GReg) (s : State) (hk : Kept s) :
    OutOk (execWclose ga s) := by
  unfold execWclose
  repeat' first
    | with_reducible assumption
    | with_reducible intro _ _
    | with_reducible apply outOk_next
    | with_reducible apply State.atBoundary_keeps
    | with_reducible apply State.closeOn_keeps
    | with_reducible apply State.command_keeps
    | with_reducible apply State.denied_keeps
    | with_reducible apply State.rejected_keeps
    | with_reducible apply State.retire_keeps
    | with_reducible apply State.waitFor_keeps
    | with_reducible apply ite_keeps
    | split
    | with_reducible intro _
theorem execWstat_keeps (gd : GReg) (ga : GReg) (s : State) (hk : Kept s) :
    OutOk (execWstat gd ga s) := by
  unfold execWstat
  repeat' first
    | with_reducible assumption
    | with_reducible apply outOk_next
    | with_reducible apply State.cancelTrap_keeps
    | with_reducible apply State.denied_keeps
    | with_reducible apply State.retireReg_keeps
    | with_reducible apply ite_keeps
    | split
theorem execRoundStart_keeps (l : Nat) (g : Nat) (s : State) (hk : Kept s) :
    OutOk (execRoundStart l g s) := by
  unfold execRoundStart
  repeat' first
    | with_reducible assumption
    | with_reducible intro _ _ _
    | with_reducible apply foldl_keeps
    | with_reducible apply outOk_next
    | with_reducible apply State.counts_keeps
    | with_reducible apply State.elementFault_keeps
    | with_reducible apply State.modEntry_keeps
    | with_reducible apply State.modGroup_keeps
    | with_reducible refine of_snd (by assumption) ?_
    | split
theorem execSubslotEmit_keeps (l : Nat) (g : Nat) (s : State) (hk : Kept s) :
    OutOk (execSubslotEmit l g s) := by
  unfold execSubslotEmit
  repeat' first
    | with_reducible assumption
    | with_reducible apply outOk_next
    | with_reducible apply State.modEntry_keeps
    | with_reducible apply State.modGroup_keeps
    | split
    | extract_lets
theorem State.receive_keeps (s : State) (x : Launch) (y : Group) (r : Nat) (p : BitVec 128)
    (hk : Kept s) : Kept (State.receive s x y r p) := by
  unfold State.receive
  repeat' first
    | with_reducible assumption
    | with_reducible apply State.elementFault_keeps
    | with_reducible apply State.modEntry_keeps
    | with_reducible apply ite_keeps
    | split
theorem execEventPacketReceive_keeps (l : Nat) (g : Nat) (r : Nat) (s : State)
    (hk : Kept s) : OutOk (execEventPacketReceive l g r s) := by
  unfold execEventPacketReceive
  repeat' first
    | with_reducible assumption
    | with_reducible apply outOk_next
    | with_reducible apply State.modGroup_keeps
    | with_reducible apply State.receive_keeps
    | split
theorem execSubslotJudge_keeps (l : Nat) (g : Nat) (s : State)
    (hk : Kept s) : OutOk (execSubslotJudge l g s) := by
  unfold execSubslotJudge
  repeat' first
    | with_reducible assumption
    | with_reducible intro _ _ _
    | with_reducible apply foldl_keeps
    | with_reducible apply outOk_next
    | with_reducible apply State.modGroup_keeps
    | with_reducible apply State.modMembers_keeps
    | with_reducible apply State.receive_keeps
    | split
theorem State.applyRound_keeps (s : State) (x : Launch) (y : Group)
    (hk : Kept s) : Kept (State.applyRound s x y) := by
  unfold State.applyRound
  repeat' first
    | with_reducible assumption
    | with_reducible intro _ _ _
    | with_reducible apply foldl_keeps
    | with_reducible apply State.counts_keeps
    | with_reducible apply State.elementFault_keeps
    | with_reducible apply State.modEntry_keeps
    | with_reducible apply State.writeCounts_keeps
    | with_reducible refine of_snd (by assumption) ?_
    | split
theorem State.breach_keeps (s : State) (x : Launch) (y : Group) (hk : Kept s) :
    Kept (State.breach s x y) := by
  unfold State.breach
  repeat' first
    | with_reducible assumption
    | with_reducible apply State.modGroup_keeps
    | with_reducible apply State.modLaunch_keeps
    | with_reducible apply State.modMembers_keeps
    | with_reducible apply State.trubAdd_keeps
    | with_reducible apply ite_keeps
theorem execRoundApply_keeps (l : Nat) (g : Nat) (s : State) (hk : Kept s) :
    OutOk (execRoundApply l g s) := by
  unfold execRoundApply
  repeat' first
    | with_reducible assumption
    | with_reducible apply outOk_next
    | with_reducible apply State.applyRound_keeps
    | with_reducible apply State.breach_keeps
    | with_reducible apply State.modGroup_keeps
    | with_reducible apply State.modLaunch_keeps
    | with_reducible apply State.stepEnded_keeps
    | with_reducible apply State.unstep_keeps
    | with_reducible apply ite_keeps
    | split
theorem execStepEnd_keeps (l : Nat) (g : Nat) (s : State) (hk : Kept s) :
    OutOk (execStepEnd l g s) := by
  unfold execStepEnd
  repeat' first
    | with_reducible assumption
    | with_reducible apply outOk_next
    | with_reducible apply State.groupFault_keeps
    | with_reducible apply State.modGroup_keeps
    | with_reducible apply State.modMembers_keeps
    | with_reducible apply State.stepEnded_keeps
    | with_reducible apply ite_keeps
    | split
theorem State.dueDone_keeps (s : State) (l : Nat) (num : BitVec 14) (d : Nat)
    (hk : Kept s) : Kept (State.dueDone s l num d) := by
  unfold State.dueDone
  repeat' first
    | with_reducible assumption
    | with_reducible apply State.modGroup_keeps
theorem State.areaCells_keeps (s : State) (x : Launch) (t : Nat) (off : Nat)
    (hk : Kept s) : Kept (State.areaCells s x t off).2 := by
  unfold State.areaCells
  repeat' first
    | with_reducible assumption
    | with_reducible apply State.watchCells_keeps
    | split
theorem State.tileDecode_keeps (s : State) (x : Launch) (y : Group) (d : Nat) (t : Nat) (q : Dec) (p : BitVec 128)
    (hk : Kept s) : Kept (State.tileDecode s x y d t q p) := by
  unfold State.tileDecode
  repeat' first
    | with_reducible assumption
    | with_reducible apply State.areaCells_keeps
    | with_reducible apply State.dueDone_keeps
    | with_reducible apply State.elementFault_keeps
    | with_reducible apply State.holdEffect_keeps
    | with_reducible apply State.writeWords_keeps
    | with_reducible refine of_snd (by assumption) ?_
    | with_reducible apply ite_keeps
    | split
theorem execDecoderEnqueue_keeps (l : Nat) (g : Nat) (d : Nat) (s : State)
    (hk : Kept s) : OutOk (execDecoderEnqueue l g d s) := by
  unfold execDecoderEnqueue
  repeat' first
    | with_reducible assumption
    | with_reducible apply outOk_next
    | with_reducible apply State.dueDone_keeps
    | with_reducible apply State.elementFault_keeps
    | with_reducible apply State.setElement_keeps
    | with_reducible apply State.tileDecode_keeps
    | split

theorem State.recStrand_keeps (s : State) (va : Nat) (hk : Kept s) :
    Kept (State.recStrand s va).2 := by
  unfold State.recStrand
  repeat' first
    | with_reducible assumption
    | with_reducible apply State.cacheRead_keeps
    | with_reducible apply State.countCheck_keeps
    | with_reducible apply State.feNote_keeps
    | with_reducible apply State.prep_keeps
    | with_reducible refine of_snd (by assumption) ?_
    | split
    | extract_lets
theorem State.recJob_keeps (s : State) (job : Nat) (va : Nat) (hk : Kept s) :
    Kept (State.recJob s job va).2 := by
  unfold State.recJob
  repeat' first
    | with_reducible assumption
    | with_reducible apply State.countHome_keeps
    | with_reducible apply State.feNote_keeps
    | with_reducible apply State.fillLine_keeps
    | with_reducible apply State.translate_keeps
    | split
    | extract_lets
    | dsimp -zeta +zetaDelta only
theorem State.recCells_keeps (s : State) (strand : Bool) (job : Nat) (va : Nat) (a0 : Nat)
    (hk : Kept s) : Kept (State.recCells s strand job va a0).2 := by
  induction a0 generalizing s va with
  | zero =>
    unfold State.recCells
    repeat' first
      | with_reducible assumption
  | succ n ih =>
    unfold State.recCells
    repeat' first
      | with_reducible assumption
      | with_reducible apply State.recJob_keeps
      | with_reducible apply State.recStrand_keeps
      | with_reducible apply ih
      | with_reducible refine of_snd (by assumption) ?_
      | split
theorem State.readLaunch_keeps (s : State) (strand : Bool) (job : Nat) (va : Nat)
    (hk : Kept s) : Kept (State.readLaunch s strand job va).2 := by
  unfold State.readLaunch
  repeat' first
    | with_reducible assumption
    | with_reducible apply State.recCells_keeps
    | with_reducible refine of_snd (by assumption) ?_
    | split
theorem State.doneCell_keeps (s : State) (job : Nat) (va : Nat)
    (hk : Kept s) : Kept (State.doneCell s job va).2 := by
  unfold State.doneCell
  repeat' first
    | with_reducible assumption
    | with_reducible apply State.revive_keeps
    | with_reducible apply State.translate_keeps
    | split
    | extract_lets
theorem State.enrol_keeps (s : State) (job : Nat) (parent : Nat) (virt : Bool) (x : Nat) (r : Record)
    (hk : Kept s) : OptOk (State.enrol s job parent virt x r) := by
  unfold State.enrol
  repeat' first
    | with_reducible assumption
    | with_reducible apply optOk_some
    | with_reducible exact optOk_none
    | with_reducible apply kept_mem
    | with_reducible apply kept_strands
    | with_reducible apply kept_dv
    | with_reducible apply State.doneCell_keeps
    | with_reducible apply State.pushDecr_keeps
    | with_reducible apply State.writeDone_keeps
    | with_reducible refine of_snd (by assumption) ?_
    | split
    | extract_lets
    | (simp -zeta -proj only [kept_mk_iff]; refine ⟨?_, ?_, ?_⟩)
theorem State.chainFault_keeps (s : State) (j : Nat) (pa : Nat) (va : Nat)
    (hk : Kept s) : Kept (State.chainFault s j pa va) := by
  unfold State.chainFault
  repeat' first
    | with_reducible assumption
    | with_reducible apply State.orStatus_keeps
    | with_reducible apply State.trubAdd_keeps
theorem State.phaseLost_keeps (s : State) (j : Nat) (a : Nat) (hk : Kept s) :
    Kept (State.phaseLost s j a) := by
  unfold State.phaseLost
  repeat' first
    | with_reducible assumption
    | with_reducible apply State.machineCheck_keeps
    | with_reducible apply State.phaseFull_keeps
    | with_reducible apply State.setFe_keeps
    | with_reducible apply State.trubAdd_keeps
    | with_reducible apply State.writeDone_keeps
theorem State.phaseBegin_keeps (s : State) (j : Nat) (a : Nat) (first : Nat)
    (hk : Kept s) : Kept (State.phaseBegin s j a first) := by
  unfold State.phaseBegin
  repeat' first
    | with_reducible assumption
    | with_reducible apply State.setFe_keeps
    | with_reducible apply State.setJob_keeps
    | with_reducible apply State.writeDone_keeps
theorem execPhaseStart_keeps (j : Nat) (s : State) (hk : Kept s) :
    OutOk (execPhaseStart j s) := by
  unfold execPhaseStart
  repeat' first
    | with_reducible assumption
    | with_reducible apply outOk_next
    | with_reducible apply State.addPhase_keeps
    | with_reducible apply State.chainFault_keeps
    | with_reducible apply State.countHome_keeps
    | with_reducible apply State.decrPhase_keeps
    | with_reducible apply State.enrol_keeps
    | with_reducible apply State.phaseBegin_keeps
    | with_reducible apply State.phaseLost_keeps
    | with_reducible apply State.readLaunch_keeps
    | with_reducible apply State.setJob_keeps
    | with_reducible refine of_snd (by assumption) ?_
    | with_reducible refine of_some (by assumption) ?_
    | with_reducible apply ite_keeps
    | split
    | extract_lets
theorem State.workCommand_keeps (s : State) (i : Instr) (f : Launch → State)
    (hf : ∀ x0, Kept (f x0)) (hk : Kept s) : Kept (State.workCommand s i f) := by
  unfold State.workCommand
  repeat' first
    | with_reducible assumption
    | with_reducible apply State.cancelTrap_keeps
    | with_reducible apply State.denied_keeps
    | apply hf
    | with_reducible apply ite_keeps
    | split
theorem execLaunch_keeps (ga : GReg) (s : State) (hk : Kept s) :
    OutOk (execLaunch ga s) := by
  unfold execLaunch
  repeat' first
    | with_reducible assumption
    | with_reducible apply outOk_next
    | with_reducible apply State.addPhase_keeps
    | with_reducible apply State.denied_keeps
    | with_reducible apply State.enrol_keeps
    | with_reducible apply State.hold_keeps
    | with_reducible apply State.readLaunch_keeps
    | with_reducible apply State.retire_keeps
    | with_reducible apply State.setReg_keeps
    | with_reducible apply State.trap_keeps
    | with_reducible apply State.waitFor_keeps
    | with_reducible apply State.workCommand_keeps
    | with_reducible refine of_snd (by assumption) ?_
    | with_reducible refine of_some (by assumption) ?_
    | with_reducible apply ite_keeps
    | split
    | extract_lets
    | dsimp -zeta +zetaDelta only
    | with_reducible intro _
theorem State.consumeWord_keeps (s : State) (i : Instr) (a : Word64) (f : State → Word64 → State)
    (hf : ∀ x0 x1, Kept x0 → Kept (f x0 x1)) (hk : Kept s) : Kept (State.consumeWord s i a f) := by
  unfold State.consumeWord
  repeat' first
    | with_reducible assumption
    | with_reducible intro _ _ _
    | with_reducible intro _ _
    | with_reducible apply State.checkedCell_keeps
    | with_reducible apply State.dropWait_keeps
    | with_reducible apply State.setFe_keeps
    | with_reducible apply State.setWaiters_keeps
    | with_reducible apply State.strandGate_keeps
    | with_reducible apply State.waitOn_keeps
    | with_reducible apply State.withAccess_keeps
    | apply hf
    | with_reducible apply ite_keeps
theorem State.patchCell_keeps (s : State) (i : Instr) (src dst : Word64) (f : State → State)
    (hf : ∀ t, Kept t → Kept (f t)) (hk : Kept s) : Kept (State.patchCell s i src dst f) := by
  have hgo : ∀ (c : Cell) (t : State) (pa va : Nat), Kept t → Kept (
      t.strandGate i pa va true (some 2) (fun t => f (t.bcopyWrite 1 false pa va c))) :=
    fun c t pa va ht => State.strandGate_keeps _ _ _ _ _ _ _ (fun u hu => hf _ (State.bcopyWrite_keeps _ _ _ _ _ _ hu)) ht
  have hsrc : ∀ (t : State), Kept t →
      FetchedOk ((t.prep src 32 false 1).2.bcopySource i 1 (t.prep src 32 false 1).1) :=
    fun t ht => State.bcopySource_keeps _ i 1 _ (State.prep_keeps t src 32 false 1 ht)
  have hp := State.prep_keeps s dst 32 true 2 hk
  delta State.patchCell
  generalize s.prep dst 32 true 2 = r at hp ⊢
  obtain ⟨p, s1⟩ := r
  have hs := hsrc s1 hp
  cases p with
  | trap code tval => exact State.trap_keeps _ _ _ hp
  | stall => exact State.waitFor_keeps _ _ hp
  | ok pa va =>
    generalize hb : (s1.prep src 32 false 1).2.bcopySource i 1 (s1.prep src 32 false 1).1 = b at hs
    simp only [hb]
    cases b with
    | stop s2 => exact of_stop rfl hs
    | got s2 c => exact hgo c _ _ _ (of_got rfl hs)
  | disc pa va entry big =>
    generalize hb : (s1.prep src 32 false 1).2.bcopySource i 1 (s1.prep src 32 false 1).1 = b at hs
    simp only [hb]
    cases b with
    | stop s2 => exact of_stop rfl hs
    | got s2 c => exact hgo c _ _ _ (State.revive_keeps _ _ _ _ _ (of_got rfl hs))
theorem State.replayBegin_keeps (s : State) (job : Nat) (done : Nat) (hold : Nat) (n : Nat) (pa : Nat)
    (hk : Kept s) : Kept (State.replayBegin s job done hold n pa) := by
  unfold State.replayBegin
  repeat' first
    | with_reducible assumption
    | with_reducible apply State.addPhase_keeps
    | with_reducible apply State.setJob_keeps
    | with_reducible apply State.writeDone_keeps
theorem State.replayBroken_keeps (s : State) (job : Nat) (done : Nat) (at_ : Nat) (n : Nat)
    (hk : Kept s) : Kept (State.replayBroken s job done at_ n) := by
  unfold State.replayBroken
  repeat' first
    | with_reducible assumption
    | with_reducible intro _ _ _
    | with_reducible apply foldl_keeps
    | with_reducible apply State.orStatus_keeps
    | with_reducible apply State.pushDecr_keeps
    | with_reducible apply State.resolve_keeps
    | with_reducible apply State.trubAdd_keeps
    | split
theorem State.replayEnd_keeps (s : State) (gd : GReg) (n : Nat)
    (hk : Kept s) : Kept (State.replayEnd s gd n) := by
  unfold State.replayEnd
  repeat' first
    | with_reducible assumption
    | with_reducible intro _ _
    | with_reducible apply State.asStrand_keeps
    | with_reducible apply State.retireReg_keeps
    | with_reducible apply State.trap_keeps
    | with_reducible apply ite_keeps
theorem State.replayCommand_keeps (s : State) (i : Instr) (f : Launch → State)
    (hf : ∀ x0, Kept (f x0)) (hk : Kept s) : Kept (State.replayCommand s i f) := by
  unfold State.replayCommand
  repeat' first
    | with_reducible assumption
    | with_reducible apply State.workCommand_keeps
    | apply hf
    | with_reducible apply ite_keeps
    | split
theorem execGraphReplay_keeps (gd : GReg) (ga : GReg) (gb : GReg) (s : State)
    (hk : Kept s) : OutOk (execGraphReplay gd ga gb s) := by
  unfold execGraphReplay
  repeat' first
    | with_reducible assumption
    | with_reducible intro _ _ _
    | with_reducible intro _ _
    | with_reducible apply outOk_next
    | with_reducible apply State.consumeWord_keeps
    | with_reducible apply State.enrol_keeps
    | with_reducible apply State.feCheck_keeps
    | with_reducible apply State.hold_keeps
    | with_reducible apply State.partialWrite_keeps
    | with_reducible apply State.patchCell_keeps
    | with_reducible apply State.readLaunch_keeps
    | with_reducible apply State.readRecord_keeps
    | with_reducible apply State.replayBegin_keeps
    | with_reducible apply State.replayBroken_keeps
    | with_reducible apply State.replayCommand_keeps
    | with_reducible apply State.replayEnd_keeps
    | with_reducible apply State.setFe_keeps
    | with_reducible apply State.strandGate_keeps
    | with_reducible apply State.trap_keeps
    | with_reducible apply State.waitFor_keeps
    | with_reducible apply State.withAccess_keeps
    | with_reducible refine of_snd (by assumption) ?_
    | with_reducible refine of_some (by assumption) ?_
    | with_reducible apply ite_keeps
    | split
    | extract_lets
    | simp -zeta -proj only [device_mk_iff]
    | dsimp -zeta +zetaDelta only
    | with_reducible intro _

theorem State.cancelStrand_keeps (s : State) (l : Launch) (k : Nat)
    (hk : Kept s) : Kept (State.cancelStrand s l k) := by
  unfold State.cancelStrand
  repeat' first
    | with_reducible assumption
    | with_reducible intro _ _
    | with_reducible refine kept_priv ?_
    | with_reducible apply kept_epc
    | with_reducible apply kept_tvec
    | with_reducible apply State.asStrand_keeps
    | with_reducible apply State.dropWait_keeps
    | with_reducible apply State.endStrand_keeps
    | with_reducible apply State.setStrand_keeps
    | with_reducible apply State.trap_keeps
    | with_reducible apply ite_keeps
    | split
    | extract_lets
    | (simp -zeta -proj only [strand_mk_iff]; refine ⟨?_, ?_, ?_⟩)
theorem State.clearDeques_keeps (s : State) (l : Launch) (hk : Kept s) :
    Kept (State.clearDeques s l) := by
  unfold State.clearDeques
  repeat' first
    | with_reducible assumption
    | with_reducible intro _ _ _
    | with_reducible apply foldl_keeps
    | with_reducible apply State.releasePresent_keeps
    | with_reducible apply State.setCluster_keeps
theorem State.cancelLaunch_keeps (s : State) (l : Nat) (hk : Kept s) :
    Kept (State.cancelLaunch s l) := by
  unfold State.cancelLaunch
  repeat' first
    | with_reducible assumption
    | with_reducible intro _ _ _
    | with_reducible apply foldl_keeps
    | with_reducible apply State.cancelStrand_keeps
    | with_reducible apply State.clearDeques_keeps
    | with_reducible apply State.dropCommands_keeps
    | with_reducible apply State.modLaunch_keeps
    | with_reducible apply State.restoreWindow_keeps
    | with_reducible apply State.stopGroups_keeps
    | with_reducible apply ite_keeps
    | split
theorem State.cancelLaunches_keeps (s : State) (ls : List Launch)
    (hk : Kept s) : Kept (State.cancelLaunches s ls) := by
  unfold State.cancelLaunches
  repeat' first
    | with_reducible assumption
    | with_reducible intro _ _ _
    | with_reducible apply foldl_keeps
    | with_reducible apply State.cancelLaunch_keeps
theorem State.markCancel_keeps (s : State) (job : Nat) (va : Nat)
    (hk : Kept s) : Kept (State.markCancel s job va) := by
  unfold State.markCancel
  repeat' first
    | with_reducible assumption
    | with_reducible apply State.orStatus_keeps
    | with_reducible apply State.resolve_keeps
    | split
    | extract_lets
theorem State.cancelReplay_keeps (s : State) (job : Nat) (r : Replay)
    (hk : Kept s) : Kept (State.cancelReplay s job r) := by
  unfold State.cancelReplay
  repeat' first
    | with_reducible assumption
    | with_reducible apply State.cancelLaunches_keeps
    | with_reducible apply State.markCancel_keeps
    | with_reducible apply State.setJob_keeps
theorem State.cancelPhase_keeps (s : State) (job : Nat) (hk : Kept s) :
    Kept (State.cancelPhase s job) := by
  unfold State.cancelPhase
  repeat' first
    | with_reducible assumption
    | with_reducible intro _ _ _
    | with_reducible apply foldl_keeps
    | with_reducible apply State.cancelLaunches_keeps
    | with_reducible apply State.cancelReplay_keeps
    | with_reducible apply State.orStatus_keeps
    | with_reducible apply State.setJob_keeps
    | split
theorem State.cancelJob_keeps (s : State) (job : Nat) (hk : Kept s) :
    Kept (State.cancelJob s job) := by
  unfold State.cancelJob
  repeat' first
    | with_reducible assumption
    | with_reducible apply State.cancelPhase_keeps
    | with_reducible apply State.orStatus_keeps
    | with_reducible apply State.setJob_keeps
theorem State.cancelLevel_keeps (s : State) (a0 : Level) (hk : Kept s) :
    Kept (State.cancelLevel s a0) := by
  unfold State.cancelLevel
  repeat' first
    | with_reducible assumption
    | with_reducible apply State.cancelJob_keeps
    | with_reducible apply State.cancelLaunch_keeps
    | with_reducible apply State.cancelPhase_keeps
    | with_reducible apply State.cancelReplay_keeps
    | split
theorem execCancel_keeps (ga : GReg) (s : State) (hk : Kept s) :
    OutOk (execCancel ga s) := by
  unfold execCancel
  repeat' first
    | with_reducible assumption
    | with_reducible apply outOk_next
    | with_reducible apply State.cancelLevel_keeps
    | with_reducible apply State.denied_keeps
    | with_reducible apply State.retire_keeps
    | with_reducible apply ite_keeps
    | split
    | extract_lets
    | dsimp -zeta +zetaDelta only
theorem State.cancelElement_keeps (s : State) (l : Nat) (e : Nat)
    (hk : Kept s) : Kept (State.cancelElement s l e) := by
  unfold State.cancelElement
  repeat' first
    | with_reducible assumption
    | with_reducible apply State.modLaunch_keeps
    | with_reducible apply State.setElement_keeps
theorem execCancelE_keeps (ga : GReg) (s : State) (hk : Kept s) :
    OutOk (execCancelE ga s) := by
  unfold execCancelE
  repeat' first
    | with_reducible assumption
    | with_reducible intro _ _
    | with_reducible apply outOk_next
    | with_reducible apply State.atBoundary_keeps
    | with_reducible apply State.cancelElement_keeps
    | with_reducible apply State.denied_keeps
    | with_reducible apply State.retire_keeps
    | with_reducible apply ite_keeps
    | split

theorem State.setDeque_keeps (s : State) (q : List Task) (hk : Kept s) :
    Kept (State.setDeque s q) := by
  unfold State.setDeque
  repeat' first
    | with_reducible assumption
    | with_reducible apply State.setCluster_keeps
theorem State.misuse_keeps (s : State) (v : Word64) (hk : Kept s) :
    Kept (State.misuse s v) := by
  unfold State.misuse
  repeat' first
    | with_reducible assumption
    | with_reducible apply State.trap_keeps
theorem State.runInline_keeps (s : State) (t : Task) (ret : Word64)
    (hk : Kept s) : Kept (State.runInline s t ret) := by
  unfold State.runInline
  repeat' first
    | with_reducible assumption
    | with_reducible refine kept_cur_priv ?_
    | with_reducible apply kept_cur_epc
    | with_reducible apply kept_cur_tvec
    | with_reducible refine setReg_priv ?_
    | with_reducible apply setReg_epc
    | with_reducible apply setReg_tvec
    | with_reducible apply State.setCur_keeps
    | extract_lets
    | (simp -zeta -proj only [strand_mk_iff]; refine ⟨?_, ?_, ?_⟩)
theorem execFork_keeps (ga : GReg) (gb : GReg) (gc : GReg) (s : State)
    (hk : Kept s) : OutOk (execFork ga gb gc s) := by
  unfold execFork
  repeat' first
    | with_reducible assumption
    | with_reducible apply outOk_next
    | with_reducible apply State.misuse_keeps
    | with_reducible apply State.retire_keeps
    | with_reducible apply State.runInline_keeps
    | with_reducible apply State.setDeque_keeps
    | with_reducible apply State.trap_keeps
    | with_reducible apply State.waitFor_keeps
    | with_reducible apply State.workCommand_keeps
    | split
    | with_reducible intro _
theorem execJoin_keeps (gd : GReg) (ga : GReg) (s : State) (hk : Kept s) :
    OutOk (execJoin gd ga s) := by
  unfold execJoin
  repeat' first
    | with_reducible assumption
    | with_reducible intro _ _ _
    | with_reducible apply outOk_next
    | with_reducible apply State.cancelTrap_keeps
    | with_reducible apply State.checkedCell_keeps
    | with_reducible apply State.dropWait_keeps
    | with_reducible apply State.feCheck_keeps
    | with_reducible apply State.fillLine_keeps
    | with_reducible apply State.misuse_keeps
    | with_reducible apply State.retireReg_keeps
    | with_reducible apply State.runInline_keeps
    | with_reducible apply State.setDeque_keeps
    | with_reducible apply State.setWaiters_keeps
    | with_reducible apply State.waitFor_keeps
    | with_reducible apply State.waitOn_keeps
    | with_reducible apply State.withAccess_keeps
    | with_reducible apply ite_keeps
    | split
theorem execSteal_keeps (gd : GReg) (s : State) (hk : Kept s) :
    OutOk (execSteal gd s) := by
  unfold execSteal
  repeat' first
    | with_reducible assumption
    | with_reducible apply outOk_next
    | with_reducible apply State.cancelTrap_keeps
    | with_reducible apply State.retireReg_keeps
    | with_reducible apply State.setCluster_keeps
    | with_reducible apply State.setDeque_keeps
    | with_reducible apply ite_keeps
    | split
theorem execYield_keeps (s : State) (hk : Kept s) :
    OutOk (execYield s) := by
  unfold execYield
  repeat' first
    | with_reducible assumption
    | with_reducible apply outOk_next
    | with_reducible refine kept_cur_priv ?_
    | with_reducible apply kept_cur_epc
    | with_reducible apply kept_cur_tvec
    | with_reducible apply State.cancelTrap_keeps
    | with_reducible apply State.misuse_keeps
    | with_reducible apply State.retire_keeps
    | with_reducible apply State.runInline_keeps
    | with_reducible apply State.setCur_keeps
    | with_reducible apply State.setDeque_keeps
    | with_reducible apply ite_keeps
    | split
    | extract_lets
    | (simp -zeta -proj only [strand_mk_iff]; refine ⟨?_, ?_, ?_⟩)
theorem State.exitJoin_keeps (s : State) (v : Word64) (f : State → State)
    (hf : ∀ x0, Kept x0 → Kept (f x0)) (hk : Kept s) : Kept (State.exitJoin s v f) := by
  unfold State.exitJoin
  repeat' first
    | with_reducible assumption
    | with_reducible intro _ _ _
    | with_reducible intro _ _
    | with_reducible apply State.decrementAt_keeps
    | with_reducible apply State.strandGate_keeps
    | with_reducible apply State.trap_keeps
    | with_reducible apply State.waitFor_keeps
    | with_reducible apply State.withAccess_keeps
    | apply hf
    | with_reducible apply ite_keeps
theorem execExit_keeps (s : State) (hk : Kept s) :
    OutOk (execExit s) := by
  unfold execExit
  repeat' first
    | with_reducible assumption
    | with_reducible intro _ _
    | with_reducible apply outOk_next
    | with_reducible refine kept_cur_priv ?_
    | with_reducible apply kept_cur_epc
    | with_reducible apply kept_cur_tvec
    | with_reducible apply State.endStrand_keeps
    | with_reducible apply State.exitJoin_keeps
    | with_reducible apply State.misuse_keeps
    | with_reducible apply State.setCur_keeps
    | with_reducible apply ite_keeps
    | extract_lets
    | (simp -zeta -proj only [strand_mk_iff]; refine ⟨?_, ?_, ?_⟩)
theorem execTaskPop_keeps (k : Nat) (s : State) (hk : Kept s) :
    OutOk (execTaskPop k s) := by
  unfold execTaskPop
  repeat' first
    | with_reducible assumption
    | with_reducible apply outOk_next
    | with_reducible apply State.setCluster_keeps
    | with_reducible apply State.startTask_keeps
    | split

theorem State.setUsed_keeps (s : State) (job : Nat) (addr : Nat) (b : Bool)
    (hk : Kept s) : Kept (State.setUsed s job addr b) := by
  unfold State.setUsed
  repeat' first
    | with_reducible assumption
    | with_reducible apply State.sliceRmw_keeps
    | split
theorem State.stopStrand_keeps (s : State) (k : Nat) (hk : Kept s) :
    Kept (State.stopStrand s k) := by
  unfold State.stopStrand
  repeat' first
    | with_reducible assumption
    | with_reducible refine kept_priv ?_
    | with_reducible apply kept_epc
    | with_reducible apply kept_tvec
    | with_reducible apply State.dropWait_keeps
    | with_reducible apply State.setStrand_keeps
    | with_reducible apply ite_keeps
    | split
    | extract_lets
    | (simp -zeta -proj only [strand_mk_iff]; refine ⟨?_, ?_, ?_⟩)
theorem State.stopEngines_keeps (s : State) (l : Launch) (hk : Kept s) :
    Kept (State.stopEngines s l) := by
  unfold State.stopEngines
  repeat' first
    | with_reducible assumption
    | with_reducible intro _ _ _
    | with_reducible apply foldl_keeps
    | with_reducible apply State.dropWait_keeps
    | with_reducible apply State.keepProgress_keeps
    | with_reducible apply State.leaveMerges_keeps
theorem State.writeCells_keeps (s : State) (a : Nat) (a0 : List Cell)
    (hk : Kept s) : Kept (State.writeCells s a a0) := by
  induction a0 generalizing s a with
  | nil =>
    unfold State.writeCells
    repeat' first
      | with_reducible assumption
  | cons y ys ih =>
    unfold State.writeCells
    repeat' first
      | with_reducible assumption
      | with_reducible apply State.storeCell_keeps
      | with_reducible apply ih
theorem State.canStop_keeps (s : State) (l : Launch) (hk : Kept s) :
    Kept (State.canStop s l).2 := by
  unfold State.canStop
  repeat' first
    | with_reducible assumption
    | with_reducible apply State.closeWindow_keeps
    | with_reducible apply State.commitWindow_keeps
    | split
    | extract_lets
theorem State.saveLaunch_keeps (s : State) (l : Nat) (addr : Nat)
    (hk : Kept s) : Kept (State.saveLaunch s l addr) := by
  unfold State.saveLaunch
  repeat' first
    | with_reducible assumption
    | with_reducible intro _ _ _
    | with_reducible apply foldl_keeps
    | with_reducible apply State.countCheck_keeps
    | with_reducible apply State.freeRegion_keeps
    | with_reducible apply State.setLaunch_keeps
    | with_reducible apply State.stopEngines_keeps
    | with_reducible apply State.stopStrand_keeps
    | with_reducible apply State.trubAdd_keeps
    | with_reducible apply State.writeCells_keeps
    | split
theorem State.requeue_keeps (s : State) (l : Nat) (hk : Kept s) :
    Kept (State.requeue s l) := by
  unfold State.requeue
  repeat' first
    | with_reducible assumption
    | with_reducible apply kept_mem
    | with_reducible apply kept_strands
    | with_reducible apply kept_dv
    | (simp -zeta -proj only [kept_mk_iff]; refine ⟨?_, ?_, ?_⟩)
theorem execPreempt_keeps (l : Nat) (s : State) (hk : Kept s) :
    OutOk (execPreempt l s) := by
  unfold execPreempt
  repeat' first
    | with_reducible assumption
    | with_reducible apply outOk_next
    | with_reducible apply State.canStop_keeps
    | with_reducible apply State.requeue_keeps
    | with_reducible apply State.saveLaunch_keeps
    | with_reducible apply State.setUsed_keeps
    | with_reducible refine of_snd (by assumption) ?_
    | split
theorem State.restoreSection_keeps (s : State) (l : Launch) (x : Section)
    (hk : Kept s) : OptOk (State.restoreSection s l x) := by
  unfold State.restoreSection
  repeat' first
    | with_reducible assumption
    | with_reducible intro _ _ _
    | with_reducible apply foldl_keeps
    | with_reducible apply optOk_map
    | with_reducible apply optOk_some
    | with_reducible apply align_and
    | with_reducible exact no_priv
    | with_reducible apply State.setCluster_keeps
    | with_reducible apply State.setElement_keeps
    | with_reducible apply State.setPort_keeps
    | with_reducible apply State.setStrand_keeps
    | with_reducible apply State.setTile_keeps
    | split
    | extract_lets
    | (simp -zeta -proj only [strand_mk_iff]; refine ⟨?_, ?_, ?_⟩)
    | dsimp -zeta +zetaDelta only
    | with_reducible intro _
theorem State.restoreSections_keeps (s : State) (l : Launch) (a0 : List Section)
    (hk : Kept s) : ExcOk (State.restoreSections s l a0) := by
  induction a0 generalizing s with
  | nil =>
    unfold State.restoreSections
    repeat' first
      | with_reducible assumption
      | with_reducible apply excOk_ok
  | cons y ys ih =>
    unfold State.restoreSections
    repeat' first
      | with_reducible assumption
      | with_reducible exact excOk_error
      | with_reducible apply State.restoreSection_keeps
      | with_reducible apply ih
      | with_reducible refine of_some (by assumption) ?_
      | split
theorem State.countSections_keeps (s : State) (job : Nat) (a : Nat) (a0 : List Section)
    (hk : Kept s) : Kept (State.countSections s job a a0) := by
  induction a0 generalizing s a with
  | nil =>
    unfold State.countSections
    repeat' first
      | with_reducible assumption
  | cons y ys ih =>
    unfold State.countSections
    repeat' first
      | with_reducible assumption
      | with_reducible intro _ _ _
      | with_reducible apply foldl_keeps
      | with_reducible apply State.countHome_keeps
      | with_reducible apply ih
theorem State.restoreRegion_keeps (s : State) (l : Launch) (addr : Nat) (hk : Kept s) :
    ExcOk (State.restoreRegion s l addr) := by
  unfold State.restoreRegion
  cases s.sectionsAt addr with
  | error n => exact excOk_error
  | ok secs =>
    have h := State.restoreSections_keeps _ l secs (State.countSections_keeps s l.job (addr + 32) secs hk)
    generalize hr : (s.countSections l.job (addr + 32) secs).restoreSections l secs = r at h
    cases r with
    | error n =>
      intro t e
      simp only [bind, Except.bind, hr] at e
      cases e
    | ok s1 =>
      intro t e
      simp only [bind, Except.bind, hr, pure, Except.pure] at e
      cases e
      split
      · exact State.openWindow_keeps _ _ (State.setUsed_keeps _ _ _ _ (State.setLaunch_keeps _ _ (of_ok rfl h)))
      · exact State.setUsed_keeps _ _ _ _ (State.setLaunch_keeps _ _ (of_ok rfl h))
theorem State.contextLost_keeps (s : State) (l : Launch) (unit : Nat)
    (hk : Kept s) : Kept (State.contextLost s l unit) := by
  unfold State.contextLost
  repeat' first
    | with_reducible assumption
    | with_reducible apply State.modLaunch_keeps
    | with_reducible apply State.trubAdd_keeps
theorem State.takeImage_keeps (s : State) (gd : GReg) (l : Launch) (addr : Nat)
    (hk : Kept s) : Kept (State.takeImage s gd l addr) := by
  unfold State.takeImage
  repeat' first
    | with_reducible assumption
    | with_reducible apply kept_mem
    | with_reducible apply kept_strands
    | with_reducible apply kept_dv
    | with_reducible apply State.retireReg_keeps
    | extract_lets
    | (simp -zeta -proj only [kept_mk_iff]; refine ⟨?_, ?_, ?_⟩)
theorem execCtxsave_keeps (gd : GReg) (ga : GReg) (gb : GReg) (s : State)
    (hk : Kept s) : OutOk (execCtxsave gd ga gb s) := by
  unfold execCtxsave
  repeat' first
    | with_reducible assumption
    | with_reducible apply outOk_next
    | with_reducible apply State.canStop_keeps
    | with_reducible apply State.denied_keeps
    | with_reducible apply State.saveLaunch_keeps
    | with_reducible apply State.setUsed_keeps
    | with_reducible apply State.takeImage_keeps
    | with_reducible apply State.waitFor_keeps
    | with_reducible apply State.writeCells_keeps
    | with_reducible refine of_snd (by assumption) ?_
    | with_reducible apply ite_keeps
    | split
    | extract_lets
    | dsimp -zeta +zetaDelta only
theorem State.imageCell_keeps (s : State) (ga : Word64) (pa : Nat) (f : State → CellData → State)
    (hf : ∀ x0 x1, Kept x0 → Kept (f x0 x1)) (hk : Kept s) : Kept (State.imageCell s ga pa f) := by
  unfold State.imageCell
  repeat' first
    | with_reducible assumption
    | with_reducible apply State.checkedCell_keeps
    | with_reducible apply State.denied_keeps
    | with_reducible apply State.feCheck_keeps
    | with_reducible apply ite_keeps
theorem State.checkHeaders_keeps (s : State) (ga : Word64) (l : Launch) (known : Bool) (total : Nat) (f : State → State) (a0 : Nat) (a1 : Nat) (a2 : Nat × Nat)
    (hf : ∀ x0, Kept x0 → Kept (f x0)) (hk : Kept s) : Kept (State.checkHeaders s ga l known total f a0 a1 a2) := by
  induction a0 generalizing s a1 a2 with
  | zero =>
    unfold State.checkHeaders
    repeat' first
      | with_reducible assumption
      | apply hf
  | succ n ih =>
    unfold State.checkHeaders
    repeat' first
      | with_reducible assumption
      | with_reducible intro _ _ _
      | with_reducible apply State.imageCell_keeps
      | with_reducible apply State.rejected_keeps
      | with_reducible apply ih
      | with_reducible apply ite_keeps
      | split
theorem State.enterImage_keeps (s : State) (l : Launch) (addr : Nat)
    (hk : Kept s) : Kept (State.enterImage s l addr) := by
  unfold State.enterImage
  repeat' first
    | with_reducible assumption
    | with_reducible apply kept_mem
    | with_reducible apply kept_strands
    | with_reducible apply kept_dv
    | split
    | extract_lets
    | (simp -zeta -proj only [kept_mk_iff]; refine ⟨?_, ?_, ?_⟩)
theorem execCtxload_keeps (ga : GReg) (gb : GReg) (s : State) (hk : Kept s) :
    OutOk (execCtxload ga gb s) := by
  unfold execCtxload
  repeat' first
    | with_reducible assumption
    | with_reducible intro _ _ _
    | with_reducible intro _ _
    | with_reducible apply outOk_next
    | with_reducible apply State.checkHeaders_keeps
    | with_reducible apply State.denied_keeps
    | with_reducible apply State.enterImage_keeps
    | with_reducible apply State.imageCell_keeps
    | with_reducible apply State.rejected_keeps
    | with_reducible apply State.retire_keeps
    | with_reducible apply State.trap_keeps
    | with_reducible apply State.waitFor_keeps
    | with_reducible apply ite_keeps
    | split

theorem State.clearRegion_keeps (s : State) (l : Launch) (hk : Kept s) :
    Kept (State.clearRegion s l) := by
  unfold State.clearRegion
  repeat' first
    | with_reducible assumption
    | with_reducible intro _ _ _
    | with_reducible apply foldl_keeps
    | with_reducible apply kept_mem
    | with_reducible apply kept_strands
    | with_reducible apply kept_dv
    | with_reducible exact reset_priv
    | with_reducible apply reset_epc
    | with_reducible apply reset_tvec
    | with_reducible apply State.setCluster_keeps
    | with_reducible apply State.setStrand_keeps
    | extract_lets
    | (simp -zeta -proj only [kept_mk_iff]; refine ⟨?_, ?_, ?_⟩)
    | (simp -zeta -proj only [strand_mk_iff]; refine ⟨?_, ?_, ?_⟩)
theorem State.startStrands_keeps (s : State) (l : Launch) (hk : Kept s) :
    Kept (State.startStrands s l) := by
  unfold State.startStrands
  repeat' first
    | with_reducible assumption
    | with_reducible intro _ _ _
    | with_reducible apply foldl_keeps
    | with_reducible refine kept_priv ?_
    | with_reducible refine start_priv ?_
    | with_reducible apply start_epc
    | with_reducible apply start_tvec
    | with_reducible apply State.setStrand_keeps
    | split
    | extract_lets
    | (simp -zeta -proj only [strand_mk_iff]; refine ⟨?_, ?_, ?_⟩)
theorem State.placeAt_keeps (s : State) (l : Launch) (o : Nat × Nat)
    (hk : Kept s) : Kept (State.placeAt s l o) := by
  unfold State.placeAt
  repeat' first
    | with_reducible assumption
    | with_reducible apply State.clearRegion_keeps
    | with_reducible apply State.contextLost_keeps
    | with_reducible apply State.restoreRegion_keeps
    | with_reducible apply State.setLaunch_keeps
    | with_reducible apply State.startStrands_keeps
    | with_reducible refine of_ok (by assumption) ?_
    | split
    | extract_lets
theorem State.classPass_keeps (s : State) (die : Nat) (cls : Nat) (a0 : Nat) (a1 : Nat) (a2 : Nat) (a3 : List Nat)
    (hk : Kept s) : Kept (State.classPass s die cls a0 a1 a2 a3) := by
  induction a0 generalizing s a1 a2 a3 with
  | zero =>
    unfold State.classPass
    repeat' first
      | with_reducible assumption
      | with_reducible apply kept_cap
      | with_reducible apply State.setDv_keeps
      | extract_lets
      | simp -zeta -proj only [device_mk_iff]
  | succ n ih =>
    unfold State.classPass
    repeat' first
      | with_reducible assumption
      | with_reducible apply kept_cap
      | with_reducible apply State.placeAt_keeps
      | with_reducible apply State.setDv_keeps
      | with_reducible apply ih
      | with_reducible apply ite_keeps
      | split
      | extract_lets
      | simp -zeta -proj only [device_mk_iff]
theorem execDispatchPass_keeps (s : State) (hk : Kept s) :
    OutOk (execDispatchPass s) := by
  unfold execDispatchPass
  repeat' first
    | with_reducible assumption
    | with_reducible intro _ _ _
    | with_reducible apply foldl_keeps
    | with_reducible apply outOk_next
    | with_reducible apply State.classPass_keeps
    | with_reducible apply ite_keeps
theorem execClassTargetTimeout_keeps (l : Nat) (s : State)
    (hk : Kept s) : OutOk (execClassTargetTimeout l s) := by
  unfold execClassTargetTimeout
  repeat' first
    | with_reducible assumption
    | with_reducible intro _ _ _
    | with_reducible apply foldl_keeps
    | with_reducible apply outOk_next
    | with_reducible apply State.modLaunch_keeps
    | split
    | extract_lets
theorem State.decrementDone_keeps (s : State) (x : Launch) (pa : Nat)
    (hk : Kept s) : Kept (State.decrementDone s x pa) := by
  unfold State.decrementDone
  repeat' first
    | with_reducible assumption
    | with_reducible apply State.decrementAt_keeps
    | with_reducible apply State.partialWrite_keeps
    | with_reducible apply ite_keeps
theorem State.endLaunch_keeps (s : State) (x : Launch) (hk : Kept s) :
    Kept (State.endLaunch s x) := by
  unfold State.endLaunch
  repeat' first
    | with_reducible assumption
    | with_reducible apply State.closeMerges_keeps
    | with_reducible apply State.decrementDone_keeps
    | with_reducible apply State.feNote_keeps
    | with_reducible apply State.gate_keeps
    | with_reducible apply State.machineCheck_keeps
    | with_reducible apply State.modLaunch_keeps
    | with_reducible apply State.pushDecr_keeps
    | with_reducible apply State.revive_keeps
    | with_reducible apply State.setUsed_keeps
    | with_reducible apply State.translate_keeps
    | with_reducible apply State.trubAdd_keeps
    | with_reducible refine of_pass (by assumption) ?_
    | with_reducible refine of_invalid (by assumption) ?_
    | split
    | extract_lets
    | dsimp -zeta +zetaDelta only
theorem execLaunchComplete_keeps (l : Nat) (s : State) (hk : Kept s) :
    OutOk (execLaunchComplete l s) := by
  unfold execLaunchComplete
  repeat' first
    | with_reducible assumption
    | with_reducible apply outOk_next
    | with_reducible apply State.closeWindow_keeps
    | with_reducible apply State.commitWindow_keeps
    | with_reducible apply State.endLaunch_keeps
    | with_reducible apply State.launchFull_keeps
    | with_reducible apply State.retireLaunch_keeps
    | with_reducible refine of_snd (by assumption) ?_
    | with_reducible apply ite_keeps
    | split

theorem execGovernorWindow_keeps (c : Nat) (s : State) (hk : Kept s) :
    OutOk (execGovernorWindow c s) := by
  unfold execGovernorWindow
  repeat' first
    | with_reducible assumption
    | with_reducible apply outOk_next
    | with_reducible apply State.govRoll_keeps
theorem State.setBudgets_keeps (s : State) (b : Nat) (hk : Kept s) :
    Kept (State.setBudgets s b) := by
  unfold State.setBudgets
  repeat' first
    | with_reducible assumption
    | with_reducible intro _ _ _
    | with_reducible apply foldl_keeps
    | with_reducible apply State.writeBudget_keeps
theorem State.freeze_keeps (s : State) (hk : Kept s) :
    Kept (State.freeze s) := by
  unfold State.freeze
  repeat' first
    | with_reducible assumption
    | with_reducible apply kept_cap
    | with_reducible apply State.setDv_keeps
    | extract_lets
    | simp -zeta -proj only [device_mk_iff]
theorem execPowerGovernorTick_keeps (s : State) (hk : Kept s) :
    OutOk (execPowerGovernorTick s) := by
  unfold execPowerGovernorTick
  repeat' first
    | with_reducible assumption
    | with_reducible apply outOk_next
    | with_reducible apply kept_cap
    | with_reducible apply State.freeze_keeps
    | with_reducible apply State.measure_keeps
    | with_reducible apply State.setBudgets_keeps
    | with_reducible apply State.setDv_keeps
    | with_reducible apply ite_keeps
    | extract_lets
    | simp -zeta -proj only [device_mk_iff]
theorem execCwPowercapWrite_keeps (f : Nat) (cap : BitVec 16) (s : State)
    (hk : Kept s) : OutOk (execCwPowercapWrite f cap s) := by
  unfold execCwPowercapWrite
  repeat' first
    | with_reducible assumption
    | with_reducible apply outOk_next
    | with_reducible apply capClamp_kept
    | with_reducible apply State.setDv_keeps
    | with_reducible apply ite_keeps
    | extract_lets
    | simp -zeta -proj only [device_mk_iff]
theorem execCwControlFreeze_keeps (f : Nat) (key : BitVec 56) (s : State)
    (hk : Kept s) : OutOk (execCwControlFreeze f key s) := by
  unfold execCwControlFreeze
  repeat' first
    | with_reducible assumption
    | with_reducible apply outOk_next
    | with_reducible apply State.freeze_keeps
    | with_reducible apply ite_keeps
theorem State.clearPresent_keeps (s : State) (u : UnitRef) (hk : Kept s) :
    Kept (State.clearPresent s u) := by
  unfold State.clearPresent
  repeat' first
    | with_reducible assumption
    | with_reducible apply State.writePresent_keeps
    | split
theorem State.retireUnit_keeps (s : State) (u : UnitRef) (hk : Kept s) :
    Kept (State.retireUnit s u) := by
  unfold State.retireUnit
  repeat' first
    | with_reducible assumption
    | with_reducible apply kept_mem
    | with_reducible apply kept_strands
    | with_reducible apply kept_dv
    | with_reducible apply State.clearPresent_keeps
    | extract_lets
    | (simp -zeta -proj only [kept_mk_iff]; refine ⟨?_, ?_, ?_⟩)
theorem execUnitFailure_keeps (u : BitVec 16) (s : State) (hk : Kept s) :
    OutOk (execUnitFailure u s) := by
  unfold execUnitFailure
  repeat' first
    | with_reducible assumption
    | with_reducible apply outOk_next
    | with_reducible apply State.elementFault_keeps
    | with_reducible apply State.retireUnit_keeps
    | with_reducible apply State.setTile_keeps
    | with_reducible apply State.trubAdd_keeps
    | with_reducible apply ite_keeps
    | split

end Sys2Proof.Machine
end

