-- ==== Sys2Proof/Laws/KeepHost.lean ====
section
/-! SUPPORT. The host, bring-up, portals and what runs a word keep the invariant: one lemma per definition, citing the lemmas of what it calls. -/

set_option linter.unusedTactic false
set_option linter.unreachableTactic false
set_option linter.unusedVariables false
set_option linter.unusedSimpArgs false
set_option maxRecDepth 4096

namespace Sys2Proof.Machine

theorem State.hostDiscard_keeps (s : State) (f : Nat) (va : Nat) (u : BitVec 16) (die : Nat)
    (hk : Kept s) : Kept (State.hostDiscard s f va u die) := by
  unfold State.hostDiscard
  repeat' first
    | with_reducible assumption
    | with_reducible apply State.setFunc_keeps
    | with_reducible apply State.trubAdd_keeps
theorem State.hostDone_keeps (s : State) (f : Nat) (n : Nat) (hk : Kept s) :
    Kept (State.hostDone s f n) := by
  unfold State.hostDone
  repeat' first
    | with_reducible assumption
    | with_reducible apply State.setFunc_keeps
    | split
    | extract_lets
theorem State.hostStore_keeps (s : State) (f : Nat) (w : HostWrite) (pa : Nat) (n : Nat)
    (hk : Kept s) : Kept (State.hostStore s f w pa n) := by
  unfold State.hostStore
  repeat' first
    | with_reducible assumption
    | with_reducible apply State.partialWrite_keeps
    | with_reducible apply State.setFe_keeps
    | with_reducible apply State.wholeWrite_keeps
    | with_reducible apply ite_keeps
theorem State.hostPiece_keeps (s : State) (f : Nat) (w : HostWrite) (pa : Nat) (n : Nat)
    (hk : Kept s) : Kept (State.hostPiece s f w pa n).2 := by
  unfold State.hostPiece
  repeat' first
    | with_reducible assumption
    | with_reducible apply State.dropWait_keeps
    | with_reducible apply State.enterWait_keeps
    | with_reducible apply State.feNote_keeps
    | with_reducible apply State.gate_keeps
    | with_reducible apply State.hostDone_keeps
    | with_reducible apply State.hostStore_keeps
    | with_reducible apply State.machineCheck_keeps
    | with_reducible apply State.reWait_keeps
    | with_reducible refine of_pass (by assumption) ?_
    | with_reducible refine of_invalid (by assumption) ?_
    | with_reducible refine of_held (by assumption) ?_
    | with_reducible refine of_damaged (by assumption) ?_
    | split
theorem State.hostHead_keeps (s : State) (f : Nat) (w : HostWrite)
    (hk : Kept s) : Kept (State.hostHead s f w).2 := by
  unfold State.hostHead
  repeat' first
    | with_reducible assumption
    | with_reducible apply State.dropWait_keeps
    | with_reducible apply State.hostDiscard_keeps
    | with_reducible apply State.hostDone_keeps
    | with_reducible apply State.hostPiece_keeps
    | with_reducible apply State.revive_keeps
    | with_reducible apply State.translate_keeps
    | split
    | extract_lets
    | dsimp -zeta +zetaDelta only
theorem State.hostDrain_keeps (s : State) (f : Nat) (a0 : Nat) (hk : Kept s) :
    Kept (State.hostDrain s f a0) := by
  induction a0 generalizing s with
  | zero =>
    unfold State.hostDrain
    repeat' first
      | with_reducible assumption
  | succ n ih =>
    unfold State.hostDrain
    repeat' first
      | with_reducible assumption
      | with_reducible apply State.hostHead_keeps
      | with_reducible apply ih
      | with_reducible refine of_snd (by assumption) ?_
      | split
theorem State.hostRun_keeps (s : State) (f : Nat) (hk : Kept s) :
    Kept (State.hostRun s f) := by
  unfold State.hostRun
  repeat' first
    | with_reducible assumption
    | with_reducible apply State.hostDrain_keeps
theorem State.hostPost_keeps (s : State) (f : Nat) (o : BitVec 41) (d : List Byte) (fill : Bool)
    (hk : Kept s) : Kept (State.hostPost s f o d fill) := by
  unfold State.hostPost
  repeat' first
    | with_reducible assumption
    | with_reducible apply State.hostRun_keeps
    | with_reducible apply State.setFunc_keeps
    | with_reducible apply ite_keeps
theorem execHostMemoryWrite_keeps (f : Nat) (o : BitVec 41) (d : List Byte) (s : State)
    (hk : Kept s) : OutOk (execHostMemoryWrite f o d s) := by
  unfold execHostMemoryWrite
  repeat' first
    | with_reducible assumption
    | with_reducible apply outOk_next
    | with_reducible apply State.hostPost_keeps
    | with_reducible apply ite_keeps
theorem execHostFillWrite_keeps (f : Nat) (o : BitVec 41) (d : List Byte) (s : State)
    (hk : Kept s) : OutOk (execHostFillWrite f o d s) := by
  unfold execHostFillWrite
  repeat' first
    | with_reducible assumption
    | with_reducible apply outOk_next
    | with_reducible apply State.hostPost_keeps
    | with_reducible apply ite_keeps
theorem State.hostRetry_keeps (s : State) (f : Nat) (hk : Kept s) :
    Kept (State.hostRetry s f) := by
  unfold State.hostRetry
  repeat' first
    | with_reducible assumption
    | with_reducible apply State.hostRun_keeps
    | with_reducible apply ite_keeps
    | split
theorem State.complete_keeps (s : State) (f : Nat) (c : Completion)
    (hk : Kept s) : Kept (State.complete s f c) := by
  unfold State.complete
  repeat' first
    | with_reducible assumption
    | with_reducible apply State.setFunc_keeps
theorem State.hostBytes_keeps (s : State) (f : Nat) (va : Nat) (n : Nat) (a0 : Nat)
    (hk : Kept s) : Kept (State.hostBytes s f va n a0).2 := by
  induction a0 generalizing s va n with
  | zero =>
    unfold State.hostBytes
    repeat' first
      | with_reducible assumption
  | succ n ih =>
    unfold State.hostBytes
    repeat' first
      | with_reducible assumption
      | with_reducible apply State.countHome_keeps
      | with_reducible apply State.feNote_keeps
      | with_reducible apply State.fillLine_keeps
      | with_reducible apply State.translate_keeps
      | with_reducible apply ih
      | with_reducible refine of_snd (by assumption) ?_
      | split
      | extract_lets
      | dsimp -zeta +zetaDelta only
theorem execHostMemoryRead_keeps (f : Nat) (o : BitVec 41) (n : Nat) (s : State)
    (hk : Kept s) : OutOk (execHostMemoryRead f o n s) := by
  unfold execHostMemoryRead
  repeat' first
    | with_reducible assumption
    | with_reducible apply outOk_next
    | with_reducible apply State.complete_keeps
    | with_reducible apply State.hostBytes_keeps
    | with_reducible refine of_snd (by assumption) ?_
    | with_reducible apply ite_keeps
    | split
theorem execHostFillRead_keeps (f : Nat) (_o : BitVec 41) (_n : Nat) (s : State)
    (hk : Kept s) : OutOk (execHostFillRead f _o _n s) := by
  unfold execHostFillRead
  repeat' first
    | with_reducible assumption
    | with_reducible apply outOk_next
    | with_reducible apply State.complete_keeps
    | with_reducible apply ite_keeps
theorem State.waitDone_keeps (s : State) (f : Nat) (n : Nat) (v : Word64)
    (hk : Kept s) : Kept (State.waitDone s f n v) := by
  unfold State.waitDone
  repeat' first
    | with_reducible assumption
    | with_reducible apply State.dropWait_keeps
    | with_reducible apply State.setFunc_keeps
theorem State.waitExamine_keeps (s : State) (f : Nat) (n : Nat)
    (hk : Kept s) : Kept (State.waitExamine s f n) := by
  unfold State.waitExamine
  repeat' first
    | with_reducible assumption
    | with_reducible apply State.countHome_keeps
    | with_reducible apply State.enterWait_keeps
    | with_reducible apply State.feNote_keeps
    | with_reducible apply State.nextFree_keeps
    | with_reducible apply State.reWait_keeps
    | with_reducible apply State.setPlace_keeps
    | with_reducible apply State.setWaiters_keeps
    | with_reducible apply State.translate_keeps
    | with_reducible apply State.waitDone_keeps
    | with_reducible apply ite_keeps
    | split
    | extract_lets
    | dsimp -zeta +zetaDelta only
theorem execCwWaitArm_keeps (f : Nat) (n : Nat) (v : Word64) (s : State)
    (hk : Kept s) : OutOk (execCwWaitArm f n v s) := by
  unfold execCwWaitArm
  repeat' first
    | with_reducible assumption
    | with_reducible apply outOk_next
    | with_reducible apply State.dropWait_keeps
    | with_reducible apply State.setFunc_keeps
    | with_reducible apply State.waitExamine_keeps
    | with_reducible apply ite_keeps
theorem execCwWaitComplete_keeps (f : Nat) (n : Nat) (s : State)
    (hk : Kept s) : OutOk (execCwWaitComplete f n s) := by
  unfold execCwWaitComplete
  repeat' first
    | with_reducible assumption
    | with_reducible apply outOk_next
    | with_reducible apply State.waitExamine_keeps
    | with_reducible apply ite_keeps
    | split
theorem execVfFlr_keeps (f : Nat) (s : State) (hk : Kept s) :
    OutOk (execVfFlr f s) := by
  unfold execVfFlr
  repeat' first
    | with_reducible assumption
    | with_reducible intro _ _ _
    | with_reducible apply foldl_keeps
    | with_reducible apply outOk_next
    | with_reducible apply State.cancelJob_keeps
    | with_reducible apply State.dropWait_keeps
    | with_reducible apply State.setFunc_keeps
    | with_reducible apply ite_keeps

theorem State.backing_wf (s : State) (hk : Kept s) : s.backing.wf = true := by
  unfold State.backing
  have hl : ∀ (l : List L2Line) (m : Memory), m.wf = true →
      (l.foldl (fun q l => restoreCells q l.addr l.back) m).wf = true := by
    intro l
    induction l with
    | nil => exact fun _ h => h
    | cons y ys ih => exact fun m h => ih _ (restoreCells_wf _ _ _ h)
  have hs : ∀ (l : List (Nat × Slice)) (m : Memory), m.wf = true →
      (l.foldl (fun m x => x.2.lines.foldl (fun q l => restoreCells q l.addr l.back) m) m).wf = true := by
    intro l
    induction l with
    | nil => exact fun _ h => h
    | cons y ys ih => exact fun m h => ih _ (hl _ _ h)
  exact hs _ _ hk.mem
theorem State.warmReset_keeps (s : State) (hk : Kept s) : Kept (State.warmReset s) :=
  ⟨State.backing_wf s hk, strands_nil, reset_cap⟩
theorem State.coldReset_keeps (s : State) (hk : Kept s) : Kept (State.coldReset s) :=
  ⟨Memory.empty_wf, strands_nil, reset_cap⟩
theorem execCwControlWarmReset_keeps (f : Nat) (key : BitVec 56) (s : State)
    (hk : Kept s) : OutOk (execCwControlWarmReset f key s) := by
  unfold execCwControlWarmReset
  repeat' first
    | with_reducible assumption
    | with_reducible apply outOk_next
    | with_reducible apply State.warmReset_keeps
    | with_reducible apply ite_keeps
theorem execPfHotReset_keeps (s : State) (hk : Kept s) :
    OutOk (execPfHotReset s) := by
  unfold execPfHotReset
  repeat' first
    | with_reducible assumption
    | with_reducible apply outOk_next
    | with_reducible apply State.warmReset_keeps
theorem execColdReset_keeps (s : State) (hk : Kept s) :
    OutOk (execColdReset s) := by
  unfold execColdReset
  repeat' first
    | with_reducible assumption
    | with_reducible apply outOk_next
    | with_reducible apply State.coldReset_keeps
theorem State.wipe_keeps (s : State) (hk : Kept s) :
    Kept (State.wipe s) := by
  unfold State.wipe
  repeat' first
    | with_reducible assumption
    | with_reducible apply kept_strands
    | with_reducible apply kept_cap
    | with_reducible exact Memory.empty_wf
    | with_reducible apply ite_keeps
    | extract_lets
    | (simp -zeta -proj only [kept_mk_iff]; refine ⟨?_, ?_, ?_⟩)
    | simp -zeta -proj only [device_mk_iff]
theorem State.bringUp_keeps (s : State) (history : List (BitVec 16))
    (hk : Kept s) : Kept (State.bringUp s history) := by
  unfold State.bringUp
  repeat' first
    | with_reducible assumption
    | with_reducible intro _ _ _
    | with_reducible apply foldl_keeps
    | with_reducible apply kept_mem
    | with_reducible apply kept_strands
    | with_reducible apply kept_dv
    | with_reducible apply kept_cap
    | with_reducible apply State.nextFree_keeps
    | with_reducible apply State.reloadAccess_keeps
    | with_reducible apply State.setBudgets_keeps
    | with_reducible apply State.setCluster_keeps
    | with_reducible apply State.setDv_keeps
    | with_reducible apply State.wipe_keeps
    | with_reducible apply State.writeDv_keeps
    | extract_lets
    | (simp -zeta -proj only [kept_mk_iff]; refine ⟨?_, ?_, ?_⟩)
    | simp -zeta -proj only [device_mk_iff]
theorem State.startFirmware_keeps (s : State) (hk : Kept s) : Kept (State.startFirmware s) := by
  have hl : ∀ (l : List Nat), (∀ k ∈ l, superStrand k = true) → ∀ t, Kept t → Kept (l.foldl (fun t k => t.setStrand k
      { Strand.reset with mode := .ready, priv := true, pc := Config.firmwareEntry (k / 8) &&& ~~~3 }) t) := by
    intro l
    induction l with
    | nil => exact fun _ t h => h
    | cons k ks ih =>
      intro hl t ht
      refine ih (fun j hj => hl j (List.mem_cons_of_mem _ hj)) _ (State.setStrand_keeps _ _ _ ?_ ht)
      exact strand_mk_iff.2 ⟨fun _ => hl k List.mem_cons_self, reset_epc, reset_tvec⟩
  exact hl superStrands (by decide) s hk
theorem execCwControlBoot_keeps (f : Nat) (key : BitVec 56) (img : Nat) (s : State)
    (hk : Kept s) : OutOk (execCwControlBoot f key img s) := by
  unfold execCwControlBoot
  repeat' first
    | with_reducible assumption
    | with_reducible apply outOk_next
    | with_reducible apply kept_cap
    | with_reducible apply State.bringUp_keeps
    | with_reducible apply State.setDv_keeps
    | with_reducible apply State.startFirmware_keeps
    | with_reducible apply State.trubAdd_keeps
    | with_reducible apply ite_keeps
    | extract_lets
    | simp -zeta -proj only [device_mk_iff]
theorem execCwAttnonceWrite_keeps (f : Nat) (nonce : BitVec 256) (s : State)
    (hk : Kept s) : OutOk (execCwAttnonceWrite f nonce s) := by
  unfold execCwAttnonceWrite
  repeat' first
    | with_reducible assumption
    | with_reducible apply outOk_next
    | with_reducible apply State.nextFree_keeps
    | with_reducible apply State.setFunc_keeps
    | with_reducible apply ite_keeps

theorem State.setPortal_keeps (s : State) (p : Nat) (q : Portal)
    (hk : Kept s) : Kept (State.setPortal s p q) := by
  unfold State.setPortal
  repeat' first
    | with_reducible assumption
    | with_reducible apply State.setPort_keeps
theorem State.portalCheck_keeps (s : State) (p : Nat) (l : Launch) (t : Token)
    (hk : Kept s) : Kept (State.portalCheck s p l t).2 := by
  unfold State.portalCheck
  repeat' first
    | with_reducible assumption
    | with_reducible apply State.countCheck_keeps
theorem State.replySend_keeps (s : State) (p : Nat) (hk : Kept s) :
    Kept (State.replySend s p) := by
  unfold State.replySend
  repeat' first
    | with_reducible assumption
    | with_reducible apply State.forkPush_keeps
    | with_reducible apply State.setPortal_keeps
    | with_reducible apply ite_keeps
    | split
theorem execPortalRequest_keeps (p : Nat) (s : State) (hk : Kept s) :
    OutOk (execPortalRequest p s) := by
  unfold execPortalRequest
  repeat' first
    | with_reducible assumption
    | with_reducible apply outOk_next
    | with_reducible apply State.elementFault_keeps
    | with_reducible apply State.portalCheck_keeps
    | with_reducible apply State.setPortal_keeps
    | with_reducible refine of_snd (by assumption) ?_
    | with_reducible apply ite_keeps
    | split
theorem State.faddDone_keeps (s : State) (l : Launch) (q : Portal) (performed : Bool)
    (hk : Kept s) : Kept (State.faddDone s l q performed) := by
  unfold State.faddDone
  repeat' first
    | with_reducible assumption
    | with_reducible apply State.modLaunch_keeps
    | with_reducible apply ite_keeps
theorem execPortalReply_keeps (p : Nat) (s : State) (hk : Kept s) :
    OutOk (execPortalReply p s) := by
  unfold execPortalReply
  repeat' first
    | with_reducible assumption
    | with_reducible apply outOk_next
    | with_reducible apply State.faddDone_keeps
    | with_reducible apply State.nextFree_keeps
    | with_reducible apply State.replySend_keeps
    | with_reducible apply State.setPortal_keeps
    | with_reducible apply ite_keeps
    | split
theorem execPortalTimeout_keeps (p : Nat) (s : State) (hk : Kept s) :
    OutOk (execPortalTimeout p s) := by
  unfold execPortalTimeout
  repeat' first
    | with_reducible assumption
    | with_reducible apply outOk_next
    | with_reducible apply State.faddDone_keeps
    | with_reducible apply State.nextFree_keeps
    | with_reducible apply State.replySend_keeps
    | with_reducible apply State.setPortal_keeps
    | with_reducible apply ite_keeps
    | split
theorem execPortalPutData_keeps (p : Nat) (s : State) (hk : Kept s) :
    OutOk (execPortalPutData p s) := by
  unfold execPortalPutData
  repeat' first
    | with_reducible assumption
    | with_reducible apply outOk_next
    | with_reducible apply State.nextFree_keeps
    | with_reducible apply State.setPortal_keeps
    | with_reducible apply ite_keeps
    | split
theorem execPortalPutMarker_keeps (p : Nat) (s : State) (hk : Kept s) :
    OutOk (execPortalPutMarker p s) := by
  unfold execPortalPutMarker
  repeat' first
    | with_reducible assumption
    | with_reducible apply outOk_next
    | with_reducible apply State.forkPush_keeps
    | with_reducible apply State.setPortal_keeps
    | with_reducible apply ite_keeps
    | split
theorem State.peerAtomic_keeps (s : State) (u : Nat) (job : Nat) (op : Nat) (dbl : Bool) (va : Nat) (b : Nat) (c : Nat)
    (hk : Kept s) : Kept (State.peerAtomic s u job op dbl va b c) := by
  unfold State.peerAtomic
  extract_lets n r go
  have hgo : ∀ t pa, Kept t → Kept (go t pa) := by
    intro t pa ht
    have hg := State.gate_keeps t none job pa va true none ht
    show Kept (if _ then _ else _)
    split
    · exact ht
    · split
      · exact State.feNote_keeps _ _ _ _ (of_invalid ‹_› hg)
      · exact of_held ‹_› hg
      · exact of_damaged ‹_› hg
      · exact State.sliceRmw_keeps _ _ _ _ _ _ (of_pass ‹_› hg)
  have hr : Kept r.2 := State.translate_keeps _ _ _ _ _ hk
  clear_value go r
  split
  · exact hk
  · split
    · exact hgo _ _ hr
    · exact ite_keeps (hgo _ _ hr) hr
    · exact ite_keeps (hgo _ _ (State.revive_keeps _ _ _ _ _ hr)) hr
    · exact hr
theorem State.peerPut_keeps (s : State) (u : Nat) (job : Nat) (va : Nat) (d : CellData) (code : BitVec 28) (fill : Bool)
    (hk : Kept s) : EngOk (State.peerPut s u job va d code fill) := by
  unfold State.peerPut
  extract_lets x r go
  have hgo : ∀ t pa, Kept t → EngOk (go t pa) := by
    intro t pa ht
    have hg := State.gate_keeps t none job pa va true (if fill then some 2 else none) ht
    show EngOk (if _ then _ else _)
    split
    · exact engOk_done ht
    · split
      · exact engOk_done (State.feNote_keeps _ _ _ _ (of_invalid ‹_› hg))
      · exact engOk_wait (of_held ‹_› hg)
      · exact engOk_wait (State.machineCheck_keeps _ _ _ _ _ (of_damaged ‹_› hg))
      · have h1 := State.wholeWrite_keeps _ job pa va d code (of_pass ‹_› hg)
        exact engOk_done (ite_keeps (State.setFe_keeps _ _ _ _ _ h1) h1)
  have hr : Kept r.2 := State.translate_keeps _ _ _ _ _ hk
  clear_value go r
  split
  · exact engOk_done hk
  · split
    · exact hgo _ _ hr
    · split
      · exact hgo _ _ hr
      · exact engOk_done hr
    · split
      · exact hgo _ _ (State.revive_keeps _ _ _ _ _ hr)
      · exact engOk_done hr
    · split
      · exact engOk_wait hr
      · exact engOk_done (State.kegAppend_keeps _ _ _ _ _ _ _ hr)
    · exact engOk_wait hr
    all_goals exact engOk_done hr
theorem State.peerToken_keeps (s : State) (u : Nat) (job : Nat) (va : Nat) (d0 : CellData) (d1 : CellData) (c0 : BitVec 28) (c1 : BitVec 28) (fill : Bool)
    (hk : Kept s) : Kept (State.peerToken s u job va d0 d1 c0 c1 fill) := by
  unfold State.peerToken
  repeat' first
    | with_reducible assumption
    | with_reducible apply State.peerPut_keeps
    | with_reducible refine of_done (by assumption) ?_
    | with_reducible refine of_wait (by assumption) ?_
    | with_reducible refine of_halt (by assumption) ?_
    | split
theorem execPeerRequest_keeps (u : Nat) (r : PeerReq) (s : State)
    (hk : Kept s) : OutOk (execPeerRequest u r s) := by
  unfold execPeerRequest
  repeat' first
    | with_reducible assumption
    | with_reducible apply outOk_next
    | with_reducible apply State.peerAtomic_keeps
    | with_reducible apply State.peerToken_keeps
    | with_reducible apply ite_keeps
    | split

theorem runWord_keeps (i : Instr) (s : State) (hk : Kept s) : OutOk (runWord i s) := by
  cases i with
  | add gd ga gb => exact execAdd_keeps gd ga gb s hk
  | sub gd ga gb => exact execSub_keeps gd ga gb s hk
  | mul gd ga gb => exact execMul_keeps gd ga gb s hk
  | mulh gd ga gb => exact execMulh_keeps gd ga gb s hk
  | mulhu gd ga gb => exact execMulhu_keeps gd ga gb s hk
  | div gd ga gb => exact execDiv_keeps gd ga gb s hk
  | divu gd ga gb => exact execDivu_keeps gd ga gb s hk
  | rem gd ga gb => exact execRem_keeps gd ga gb s hk
  | remu gd ga gb => exact execRemu_keeps gd ga gb s hk
  | and gd ga gb => exact execAnd_keeps gd ga gb s hk
  | or gd ga gb => exact execOr_keeps gd ga gb s hk
  | xor gd ga gb => exact execXor_keeps gd ga gb s hk
  | shl gd ga gb => exact execShl_keeps gd ga gb s hk
  | shr gd ga gb => exact execShr_keeps gd ga gb s hk
  | sar gd ga gb => exact execSar_keeps gd ga gb s hk
  | clz gd ga => exact execClz_keeps gd ga s hk
  | ctz gd ga => exact execCtz_keeps gd ga s hk
  | popc gd ga => exact execPopc_keeps gd ga s hk
  | min gd ga gb => exact execMin_keeps gd ga gb s hk
  | max gd ga gb => exact execMax_keeps gd ga gb s hk
  | minu gd ga gb => exact execMinu_keeps gd ga gb s hk
  | maxu gd ga gb => exact execMaxu_keeps gd ga gb s hk
  | slt gd ga gb => exact execSlt_keeps gd ga gb s hk
  | sltu gd ga gb => exact execSltu_keeps gd ga gb s hk
  | addI gd ga imm => exact execAddI_keeps gd ga imm s hk
  | mulI gd ga imm => exact execMulI_keeps gd ga imm s hk
  | andI gd ga imm => exact execAndI_keeps gd ga imm s hk
  | orI gd ga imm => exact execOrI_keeps gd ga imm s hk
  | xorI gd ga imm => exact execXorI_keeps gd ga imm s hk
  | shlI gd ga c => exact execShlI_keeps gd ga c s hk
  | shrI gd ga c => exact execShrI_keeps gd ga c s hk
  | sarI gd ga c => exact execSarI_keeps gd ga c s hk
  | minI gd ga imm => exact execMinI_keeps gd ga imm s hk
  | maxI gd ga imm => exact execMaxI_keeps gd ga imm s hk
  | sltI gd ga imm => exact execSltI_keeps gd ga imm s hk
  | sltuI gd ga imm => exact execSltuI_keeps gd ga imm s hk
  | lih gd ga imm => exact execLih_keeps gd ga imm s hk
  | jalr gd ga imm => exact execJalr_keeps gd ga imm s hk
  | mfc gd num => exact execMfc_keeps gd num s hk
  | mtc ga num => exact execMtc_keeps ga num s hk
  | j off => exact execJ_keeps off s hk
  | jal off => exact execJal_keeps off s hk
  | beq ga gb off => exact execBeq_keeps ga gb off s hk
  | bne ga gb off => exact execBne_keeps ga gb off s hk
  | blt ga gb off => exact execBlt_keeps ga gb off s hk
  | bge ga gb off => exact execBge_keeps ga gb off s hk
  | bltu ga gb off => exact execBltu_keeps ga gb off s hk
  | bgeu ga gb off => exact execBgeu_keeps ga gb off s hk
  | trap code => exact execTrap_keeps code s hk
  | svc code => exact execSvc_keeps code s hk
  | xiPrefix _ _ => exact outOk_next hk
  | ld size gd ga disp => exact execLd_keeps size gd ga disp s hk
  | ldW size gd ga disp => exact execLdW_keeps size gd ga disp s hk
  | ldC size gd ga disp => exact execLdC_keeps size gd ga disp s hk
  | st size gd ga disp => exact execSt_keeps size gd ga disp s hk
  | stF size gd ga disp => exact execStF_keeps size gd ga disp s hk
  | stX size gd ga disp => exact execStX_keeps size gd ga disp s hk
  | feget gd ga disp => exact execFeget_keeps gd ga disp s hk
  | feset gd ga disp => exact execFeset_keeps gd ga disp s hk
  | prefL2 ga disp => exact execPrefL2_keeps ga disp s hk
  | prefL1 ga disp => exact execPrefL1_keeps ga disp s hk
  | amoAdd dbl gd ga gb => exact execAmoAdd_keeps dbl gd ga gb s hk
  | amoAnd dbl gd ga gb => exact execAmoAnd_keeps dbl gd ga gb s hk
  | amoOr dbl gd ga gb => exact execAmoOr_keeps dbl gd ga gb s hk
  | amoXor dbl gd ga gb => exact execAmoXor_keeps dbl gd ga gb s hk
  | amoMin dbl gd ga gb => exact execAmoMin_keeps dbl gd ga gb s hk
  | amoMax dbl gd ga gb => exact execAmoMax_keeps dbl gd ga gb s hk
  | amoMinu dbl gd ga gb => exact execAmoMinu_keeps dbl gd ga gb s hk
  | amoMaxu dbl gd ga gb => exact execAmoMaxu_keeps dbl gd ga gb s hk
  | amoSwap dbl gd ga gb => exact execAmoSwap_keeps dbl gd ga gb s hk
  | amoFadd dbl gd ga gb => exact execAmoFadd_keeps dbl gd ga gb s hk
  | cas dbl gd ga gb gc => exact execCas_keeps dbl gd ga gb gc s hk
  | samoF32 ga gb gc => exact execSamoF32_keeps ga gb gc s hk
  | samoF64 ga gb gc => exact execSamoF64_keeps ga gb gc s hk
  | samoI64 ga gb gc => exact execSamoI64_keeps ga gb gc s hk
  | fence => exact execFence_keeps s hk
  | fenceEng => exact execFenceEng_keeps s hk
  | flush ga gb => exact execFlush_keeps ga gb s hk
  | discard ga => exact execDiscard_keeps ga s hk
  | bcopy gd ga gb gc => exact execBcopy_keeps gd ga gb gc s hk
  | confLoad ga => exact execConfLoad_keeps ga s hk
  | confSwitch ga => exact execConfSwitch_keeps ga s hk
  | confWait gd => exact execConfWait_keeps gd s hk
  | sparge => exact execSparge_keeps s hk
  | sbind ga gb => exact execSbind_keeps ga gb s hk
  | scopy ga gb => exact execScopy_keeps ga gb s hk
  | smcast ga gb gc => exact execSmcast_keeps ga gb gc s hk
  | permLoad ga gb => exact execPermLoad_keeps ga gb s hk
  | tdesc ga => exact execTdesc_keeps ga s hk
  | wopen ga => exact execWopen_keeps ga s hk
  | wstep gd ga => exact execWstep_keeps gd ga s hk
  | wclose ga => exact execWclose_keeps ga s hk
  | wstat gd ga => exact execWstat_keeps gd ga s hk
  | launch ga => exact execLaunch_keeps ga s hk
  | graphReplay gd ga gb => exact execGraphReplay_keeps gd ga gb s hk
  | cancel ga => exact execCancel_keeps ga s hk
  | cancelE ga => exact execCancelE_keeps ga s hk
  | fork ga gb gc => exact execFork_keeps ga gb gc s hk
  | join gd ga => exact execJoin_keeps gd ga s hk
  | steal gd => exact execSteal_keeps gd s hk
  | yield => exact execYield_keeps s hk
  | exit => exact execExit_keeps s hk
  | rett => exact execRett_keeps s hk
  | ctxsave gd ga gb => exact execCtxsave_keeps gd ga gb s hk
  | ctxload ga gb => exact execCtxload_keeps ga gb s hk
  | tlbinv ga gb => exact execTlbinv_keeps ga gb s hk
  | strandInstructionComplete _ => exact outOk_next hk
  | vadd _ _ => exact outOk_next hk
  | vsub _ _ => exact outOk_next hk
  | vmul _ _ => exact outOk_next hk
  | vmin _ _ => exact outOk_next hk
  | vmax _ _ => exact outOk_next hk
  | vabs _ _ => exact outOk_next hk
  | vneg _ _ => exact outOk_next hk
  | fma _ _ => exact outOk_next hk
  | fms _ _ => exact outOk_next hk
  | radd _ _ => exact outOk_next hk
  | rmax _ _ => exact outOk_next hk
  | rmin _ _ => exact outOk_next hk
  | rmaxabs _ _ => exact outOk_next hk
  | vand _ _ => exact outOk_next hk
  | vor _ _ => exact outOk_next hk
  | vxor _ _ => exact outOk_next hk
  | cvtNamedSource _ _ _ => exact outOk_next hk
  | cvt _ _ => exact outOk_next hk
  | qnt _ _ => exact outOk_next hk
  | scalex _ _ => exact outOk_next hk
  | vshl _ => exact outOk_next hk
  | vshr _ => exact outOk_next hk
  | vsar _ => exact outOk_next hk
  | fdiv _ _ => exact outOk_next hk
  | fsqrt _ _ => exact outOk_next hk
  | rcp _ => exact outOk_next hk
  | rsq _ => exact outOk_next hk
  | exp2 _ => exact outOk_next hk
  | log2 _ => exact outOk_next hk
  | sinpi _ => exact outOk_next hk
  | cospi _ => exact outOk_next hk
  | tanh _ => exact outOk_next hk
  | mov _ => exact outOk_next hk
  | retag _ => exact outOk_next hk
  | vbcast _ => exact outOk_next hk
  | vshuf _ => exact outOk_next hk
  | vsel _ => exact outOk_next hk
  | pset _ => exact outOk_next hk
  | pcmpeq _ => exact outOk_next hk
  | pcmplt _ => exact outOk_next hk
  | pcmple _ => exact outOk_next hk
  | ldl _ => exact outOk_next hk
  | stl _ => exact outOk_next hk
  | nop _ => exact outOk_next hk
  | efault _ => exact outOk_next hk
  | lateFiringFault _ => exact outOk_next hk
  | evdec _ => exact outOk_next hk
  | evmac _ => exact outOk_next hk
  | mcfg _ => exact outOk_next hk
  | mzero _ => exact outOk_next hk
  | mma _ => exact outOk_next hk
  | mmas _ => exact outOk_next hk
  | mread _ => exact outOk_next hk
  | mrel _ => exact outOk_next hk
  | mwrite _ => exact outOk_next hk
  | slotAgeLift _ _ => exact outOk_next hk
  | tokenArrive _ _ => exact outOk_next hk
  | outputTokenSend _ _ => exact outOk_next hk
  | planeFlip _ => exact outOk_next hk
  | elementComplete _ => exact outOk_next hk
  | generatorTransfer _ _ => exact outOk_next hk
  | generatorReexamine _ _ => exact outOk_next hk
  | bufferProducerClaim _ _ => exact outOk_next hk
  | bufferProducerComplete _ _ => exact outOk_next hk
  | bufferConsumerClaim _ _ => exact outOk_next hk
  | bufferConsumerRelease _ _ => exact outOk_next hk
  | landingWrite _ _ => exact outOk_next hk
  | copyTransfer _ _ => exact outOk_next hk
  | copyFinish _ _ => exact outOk_next hk
  | followStartToken _ _ => exact outOk_next hk
  | historyCompress _ _ => exact outOk_next hk
  | homeSliceAccess _ _ => exact outOk_next hk
  | accessReexamine _ => exact outOk_next hk
  | unlistedReexamine _ => exact outOk_next hk
  | l1WriteAck _ _ => exact outOk_next hk
  | l2LineEvict _ _ => exact outOk_next hk
  | samoContribution _ => exact outOk_next hk
  | completionDecrement => exact outOk_next hk
  | multicastRequest _ _ => exact outOk_next hk
  | multicastLineSend _ _ => exact outOk_next hk
  | mergeWindowExpire _ _ => exact outOk_next hk
  | phaseStart _ => exact outOk_next hk
  | dispatchPass => exact outOk_next hk
  | classTargetTimeout _ => exact outOk_next hk
  | preempt _ => exact outOk_next hk
  | launchComplete _ => exact outOk_next hk
  | taskPop _ => exact outOk_next hk
  | trapRecordPost => exact outOk_next hk
  | windowCommit _ => exact outOk_next hk
  | windowVoid _ => exact outOk_next hk
  | windowRerun _ => exact outOk_next hk
  | governorWindow _ => exact outOk_next hk
  | roundStart _ _ => exact outOk_next hk
  | subslotEmit _ _ => exact outOk_next hk
  | eventPacketReceive _ _ _ => exact outOk_next hk
  | subslotJudge _ _ => exact outOk_next hk
  | roundApply _ _ => exact outOk_next hk
  | stepEnd _ _ => exact outOk_next hk
  | decoderEnqueue _ _ _ => exact outOk_next hk
  | sqResumeResume _ _ => exact outOk_next hk
  | sqResumeEnd _ _ => exact outOk_next hk
  | sqResumeDeliver _ _ => exact outOk_next hk
  | clPresentWrite _ _ => exact outOk_next hk
  | clIssuebudgetWrite _ _ => exact outOk_next hk
  | dvAccgenWrite _ => exact outOk_next hk
  | controlRegisterWrite _ _ => exact outOk_next hk
  | hostMemoryWrite _ _ _ => exact outOk_next hk
  | hostMemoryRead _ _ _ => exact outOk_next hk
  | hostFillWrite _ _ _ => exact outOk_next hk
  | hostFillRead _ _ _ => exact outOk_next hk
  | cwWaitArm _ _ _ => exact outOk_next hk
  | cwWaitComplete _ _ => exact outOk_next hk
  | cwControlWarmReset _ _ => exact outOk_next hk
  | cwControlFreeze _ _ => exact outOk_next hk
  | cwControlBoot _ _ _ => exact outOk_next hk
  | cwPowercapWrite _ _ => exact outOk_next hk
  | cwAttnonceWrite _ _ => exact outOk_next hk
  | coldReset => exact outOk_next hk
  | pfHotReset => exact outOk_next hk
  | vfFlr _ => exact outOk_next hk
  | powerGovernorTick => exact outOk_next hk
  | unitFailure _ => exact outOk_next hk
  | portalRequest _ => exact outOk_next hk
  | portalReply _ => exact outOk_next hk
  | portalTimeout _ => exact outOk_next hk
  | portalPutData _ => exact outOk_next hk
  | portalPutMarker _ => exact outOk_next hk
  | peerRequest _ _ => exact outOk_next hk
  | illegalInstruction _ => exact outOk_next hk
  | instructionFetchFault _ _ => exact outOk_next hk
theorem execXiPrefix_keeps (hi : BitVec 26) (w : Word32) (s : State)
    (hk : Kept s) : OutOk (execXiPrefix hi w s) := by
  unfold execXiPrefix
  repeat' first
    | with_reducible assumption
    | with_reducible apply outOk_next
    | with_reducible apply State.illegal_keeps
    | with_reducible apply runWord_keeps
    | with_reducible apply State.setIssue_keeps
    | split
theorem State.rerun_keeps (s : State) (k : Nat) (p : Pend) (exam : Bool)
    (hk : Kept s) : OutOk (State.rerun s k p exam) := by
  unfold State.rerun
  repeat' first
    | with_reducible assumption
    | with_reducible apply runWord_keeps
    | with_reducible apply State.setIssue_keeps
theorem execStrandInstructionComplete_keeps (k : Nat) (s : State)
    (hk : Kept s) : OutOk (execStrandInstructionComplete k s) := by
  unfold execStrandInstructionComplete
  repeat' first
    | with_reducible assumption
    | with_reducible apply outOk_next
    | with_reducible apply State.rerun_keeps
    | split
    | extract_lets
theorem State.spendRetry_keeps (s : State) (k : Nat) (hk : Kept s) :
    Kept (State.spendRetry s k) := by
  unfold State.spendRetry
  repeat' first
    | with_reducible assumption
    | with_reducible refine kept_priv ?_
    | with_reducible apply kept_epc
    | with_reducible apply kept_tvec
    | with_reducible apply State.setStrand_keeps
    | split
    | (simp -zeta -proj only [strand_mk_iff]; refine ⟨?_, ?_, ?_⟩)
theorem State.examStrand_keeps (s : State) (k : Nat) (hk : Kept s) :
    OutOk (State.examStrand s k) := by
  unfold State.examStrand
  repeat' first
    | with_reducible assumption
    | with_reducible apply outOk_next
    | with_reducible apply State.rerun_keeps
    | with_reducible apply State.spendRetry_keeps
    | split
theorem State.examEngine_keeps (s : State) (p : Nat) (id : Nat)
    (hk : Kept s) : Kept (State.examEngine s p id) := by
  unfold State.examEngine
  repeat' first
    | with_reducible assumption
    | with_reducible apply State.copyStep_keeps
    | with_reducible apply State.histMove_keeps
    | with_reducible apply ite_keeps
    | split
theorem execAccessReexamine_keeps (u : Waiter) (s : State) (hk : Kept s) :
    OutOk (execAccessReexamine u s) := by
  unfold execAccessReexamine
  repeat' first
    | with_reducible assumption
    | with_reducible apply outOk_next
    | with_reducible apply State.examEngine_keeps
    | with_reducible apply State.examStrand_keeps
    | with_reducible apply State.hostRetry_keeps
    | with_reducible apply State.waitExamine_keeps
    | split
theorem execUnlistedReexamine_keeps (u : Waiter) (s : State)
    (hk : Kept s) : OutOk (execUnlistedReexamine u s) := by
  unfold execUnlistedReexamine
  repeat' first
    | with_reducible assumption
    | with_reducible apply outOk_next
    | with_reducible apply State.examEngine_keeps
    | with_reducible apply State.examStrand_keeps
    | with_reducible apply State.hostRetry_keeps
    | with_reducible apply State.waitExamine_keeps
    | with_reducible apply ite_keeps
    | split
theorem execSamoContribution_keeps (k : Nat) (s : State) (hk : Kept s) :
    OutOk (execSamoContribution k s) := by
  unfold execSamoContribution
  repeat' first
    | with_reducible assumption
    | with_reducible apply outOk_next
    | with_reducible apply State.examStrand_keeps
    | with_reducible apply State.rerun_keeps
    | split

theorem exec_keeps (i : Instr) (s : State) (hk : Kept s) : OutOk (exec i s) := by
  cases i with
  | add gd ga gb => exact execAdd_keeps gd ga gb s hk
  | sub gd ga gb => exact execSub_keeps gd ga gb s hk
  | mul gd ga gb => exact execMul_keeps gd ga gb s hk
  | mulh gd ga gb => exact execMulh_keeps gd ga gb s hk
  | mulhu gd ga gb => exact execMulhu_keeps gd ga gb s hk
  | div gd ga gb => exact execDiv_keeps gd ga gb s hk
  | divu gd ga gb => exact execDivu_keeps gd ga gb s hk
  | rem gd ga gb => exact execRem_keeps gd ga gb s hk
  | remu gd ga gb => exact execRemu_keeps gd ga gb s hk
  | and gd ga gb => exact execAnd_keeps gd ga gb s hk
  | or gd ga gb => exact execOr_keeps gd ga gb s hk
  | xor gd ga gb => exact execXor_keeps gd ga gb s hk
  | shl gd ga gb => exact execShl_keeps gd ga gb s hk
  | shr gd ga gb => exact execShr_keeps gd ga gb s hk
  | sar gd ga gb => exact execSar_keeps gd ga gb s hk
  | clz gd ga => exact execClz_keeps gd ga s hk
  | ctz gd ga => exact execCtz_keeps gd ga s hk
  | popc gd ga => exact execPopc_keeps gd ga s hk
  | min gd ga gb => exact execMin_keeps gd ga gb s hk
  | max gd ga gb => exact execMax_keeps gd ga gb s hk
  | minu gd ga gb => exact execMinu_keeps gd ga gb s hk
  | maxu gd ga gb => exact execMaxu_keeps gd ga gb s hk
  | slt gd ga gb => exact execSlt_keeps gd ga gb s hk
  | sltu gd ga gb => exact execSltu_keeps gd ga gb s hk
  | addI gd ga imm => exact execAddI_keeps gd ga imm s hk
  | mulI gd ga imm => exact execMulI_keeps gd ga imm s hk
  | andI gd ga imm => exact execAndI_keeps gd ga imm s hk
  | orI gd ga imm => exact execOrI_keeps gd ga imm s hk
  | xorI gd ga imm => exact execXorI_keeps gd ga imm s hk
  | shlI gd ga c => exact execShlI_keeps gd ga c s hk
  | shrI gd ga c => exact execShrI_keeps gd ga c s hk
  | sarI gd ga c => exact execSarI_keeps gd ga c s hk
  | minI gd ga imm => exact execMinI_keeps gd ga imm s hk
  | maxI gd ga imm => exact execMaxI_keeps gd ga imm s hk
  | sltI gd ga imm => exact execSltI_keeps gd ga imm s hk
  | sltuI gd ga imm => exact execSltuI_keeps gd ga imm s hk
  | lih gd ga imm => exact execLih_keeps gd ga imm s hk
  | jalr gd ga imm => exact execJalr_keeps gd ga imm s hk
  | mfc gd num => exact execMfc_keeps gd num s hk
  | mtc ga num => exact execMtc_keeps ga num s hk
  | j off => exact execJ_keeps off s hk
  | jal off => exact execJal_keeps off s hk
  | beq ga gb off => exact execBeq_keeps ga gb off s hk
  | bne ga gb off => exact execBne_keeps ga gb off s hk
  | blt ga gb off => exact execBlt_keeps ga gb off s hk
  | bge ga gb off => exact execBge_keeps ga gb off s hk
  | bltu ga gb off => exact execBltu_keeps ga gb off s hk
  | bgeu ga gb off => exact execBgeu_keeps ga gb off s hk
  | trap code => exact execTrap_keeps code s hk
  | svc code => exact execSvc_keeps code s hk
  | xiPrefix hi w => exact execXiPrefix_keeps hi w s hk
  | ld size gd ga disp => exact execLd_keeps size gd ga disp s hk
  | ldW size gd ga disp => exact execLdW_keeps size gd ga disp s hk
  | ldC size gd ga disp => exact execLdC_keeps size gd ga disp s hk
  | st size gd ga disp => exact execSt_keeps size gd ga disp s hk
  | stF size gd ga disp => exact execStF_keeps size gd ga disp s hk
  | stX size gd ga disp => exact execStX_keeps size gd ga disp s hk
  | feget gd ga disp => exact execFeget_keeps gd ga disp s hk
  | feset gd ga disp => exact execFeset_keeps gd ga disp s hk
  | prefL2 ga disp => exact execPrefL2_keeps ga disp s hk
  | prefL1 ga disp => exact execPrefL1_keeps ga disp s hk
  | amoAdd dbl gd ga gb => exact execAmoAdd_keeps dbl gd ga gb s hk
  | amoAnd dbl gd ga gb => exact execAmoAnd_keeps dbl gd ga gb s hk
  | amoOr dbl gd ga gb => exact execAmoOr_keeps dbl gd ga gb s hk
  | amoXor dbl gd ga gb => exact execAmoXor_keeps dbl gd ga gb s hk
  | amoMin dbl gd ga gb => exact execAmoMin_keeps dbl gd ga gb s hk
  | amoMax dbl gd ga gb => exact execAmoMax_keeps dbl gd ga gb s hk
  | amoMinu dbl gd ga gb => exact execAmoMinu_keeps dbl gd ga gb s hk
  | amoMaxu dbl gd ga gb => exact execAmoMaxu_keeps dbl gd ga gb s hk
  | amoSwap dbl gd ga gb => exact execAmoSwap_keeps dbl gd ga gb s hk
  | amoFadd dbl gd ga gb => exact execAmoFadd_keeps dbl gd ga gb s hk
  | cas dbl gd ga gb gc => exact execCas_keeps dbl gd ga gb gc s hk
  | samoF32 ga gb gc => exact execSamoF32_keeps ga gb gc s hk
  | samoF64 ga gb gc => exact execSamoF64_keeps ga gb gc s hk
  | samoI64 ga gb gc => exact execSamoI64_keeps ga gb gc s hk
  | fence => exact execFence_keeps s hk
  | fenceEng => exact execFenceEng_keeps s hk
  | flush ga gb => exact execFlush_keeps ga gb s hk
  | discard ga => exact execDiscard_keeps ga s hk
  | bcopy gd ga gb gc => exact execBcopy_keeps gd ga gb gc s hk
  | confLoad ga => exact execConfLoad_keeps ga s hk
  | confSwitch ga => exact execConfSwitch_keeps ga s hk
  | confWait gd => exact execConfWait_keeps gd s hk
  | sparge => exact execSparge_keeps s hk
  | sbind ga gb => exact execSbind_keeps ga gb s hk
  | scopy ga gb => exact execScopy_keeps ga gb s hk
  | smcast ga gb gc => exact execSmcast_keeps ga gb gc s hk
  | permLoad ga gb => exact execPermLoad_keeps ga gb s hk
  | tdesc ga => exact execTdesc_keeps ga s hk
  | wopen ga => exact execWopen_keeps ga s hk
  | wstep gd ga => exact execWstep_keeps gd ga s hk
  | wclose ga => exact execWclose_keeps ga s hk
  | wstat gd ga => exact execWstat_keeps gd ga s hk
  | launch ga => exact execLaunch_keeps ga s hk
  | graphReplay gd ga gb => exact execGraphReplay_keeps gd ga gb s hk
  | cancel ga => exact execCancel_keeps ga s hk
  | cancelE ga => exact execCancelE_keeps ga s hk
  | fork ga gb gc => exact execFork_keeps ga gb gc s hk
  | join gd ga => exact execJoin_keeps gd ga s hk
  | steal gd => exact execSteal_keeps gd s hk
  | yield => exact execYield_keeps s hk
  | exit => exact execExit_keeps s hk
  | rett => exact execRett_keeps s hk
  | ctxsave gd ga gb => exact execCtxsave_keeps gd ga gb s hk
  | ctxload ga gb => exact execCtxload_keeps ga gb s hk
  | tlbinv ga gb => exact execTlbinv_keeps ga gb s hk
  | strandInstructionComplete k => exact execStrandInstructionComplete_keeps k s hk
  | vadd f x => exact execVadd_keeps f x s hk
  | vsub f x => exact execVsub_keeps f x s hk
  | vmul f x => exact execVmul_keeps f x s hk
  | vmin f x => exact execVmin_keeps f x s hk
  | vmax f x => exact execVmax_keeps f x s hk
  | vabs f x => exact execVabs_keeps f x s hk
  | vneg f x => exact execVneg_keeps f x s hk
  | fma f x => exact execFma_keeps f x s hk
  | fms f x => exact execFms_keeps f x s hk
  | radd f x => exact execRadd_keeps f x s hk
  | rmax f x => exact execRmax_keeps f x s hk
  | rmin f x => exact execRmin_keeps f x s hk
  | rmaxabs f x => exact execRmaxabs_keeps f x s hk
  | vand f x => exact execVand_keeps f x s hk
  | vor f x => exact execVor_keeps f x s hk
  | vxor f x => exact execVxor_keeps f x s hk
  | cvtNamedSource src mode x => exact execCvtNamedSource_keeps src mode x s hk
  | cvt mode x => exact execCvt_keeps mode x s hk
  | qnt dst x => exact execQnt_keeps dst x s hk
  | scalex f x => exact execScalex_keeps f x s hk
  | vshl x => exact execVshl_keeps x s hk
  | vshr x => exact execVshr_keeps x s hk
  | vsar x => exact execVsar_keeps x s hk
  | fdiv dbl x => exact execFdiv_keeps dbl x s hk
  | fsqrt dbl x => exact execFsqrt_keeps dbl x s hk
  | rcp x => exact execRcp_keeps x s hk
  | rsq x => exact execRsq_keeps x s hk
  | exp2 x => exact execExp2_keeps x s hk
  | log2 x => exact execLog2_keeps x s hk
  | sinpi x => exact execSinpi_keeps x s hk
  | cospi x => exact execCospi_keeps x s hk
  | tanh x => exact execTanh_keeps x s hk
  | mov x => exact execMov_keeps x s hk
  | retag x => exact execRetag_keeps x s hk
  | vbcast x => exact execVbcast_keeps x s hk
  | vshuf x => exact execVshuf_keeps x s hk
  | vsel x => exact execVsel_keeps x s hk
  | pset x => exact execPset_keeps x s hk
  | pcmpeq x => exact execPcmpeq_keeps x s hk
  | pcmplt x => exact execPcmplt_keeps x s hk
  | pcmple x => exact execPcmple_keeps x s hk
  | ldl x => exact execLdl_keeps x s hk
  | stl x => exact execStl_keeps x s hk
  | nop x => exact execNop_keeps x s hk
  | efault x => exact execEfault_keeps x s hk
  | lateFiringFault e => exact execLateFiringFault_keeps e s hk
  | evdec x => exact execEvdec_keeps x s hk
  | evmac x => exact execEvmac_keeps x s hk
  | mcfg x => exact execMcfg_keeps x s hk
  | mzero x => exact execMzero_keeps x s hk
  | mma x => exact execMma_keeps x s hk
  | mmas x => exact execMmas_keeps x s hk
  | mread x => exact execMread_keeps x s hk
  | mrel x => exact execMrel_keeps x s hk
  | mwrite x => exact execMwrite_keeps x s hk
  | slotAgeLift e n => exact execSlotAgeLift_keeps e n s hk
  | tokenArrive e ch => exact execTokenArrive_keeps e ch s hk
  | outputTokenSend e ch => exact execOutputTokenSend_keeps e ch s hk
  | planeFlip e => exact execPlaneFlip_keeps e s hk
  | elementComplete e => exact execElementComplete_keeps e s hk
  | generatorTransfer t g => exact execGeneratorTransfer_keeps t g s hk
  | generatorReexamine t g => exact execGeneratorReexamine_keeps t g s hk
  | bufferProducerClaim t b => exact execBufferProducerClaim_keeps t b s hk
  | bufferProducerComplete t b => exact execBufferProducerComplete_keeps t b s hk
  | bufferConsumerClaim t b => exact execBufferConsumerClaim_keeps t b s hk
  | bufferConsumerRelease t b => exact execBufferConsumerRelease_keeps t b s hk
  | landingWrite t g => exact execLandingWrite_keeps t g s hk
  | copyTransfer p id => exact execCopyTransfer_keeps p id s hk
  | copyFinish p id => exact execCopyFinish_keeps p id s hk
  | followStartToken p id => exact execFollowStartToken_keeps p id s hk
  | historyCompress p id => exact execHistoryCompress_keeps p id s hk
  | homeSliceAccess k n => exact execHomeSliceAccess_keeps k n s hk
  | accessReexamine u => exact execAccessReexamine_keeps u s hk
  | unlistedReexamine u => exact execUnlistedReexamine_keeps u s hk
  | l1WriteAck k n => exact execL1WriteAck_keeps k n s hk
  | l2LineEvict h line => exact execL2LineEvict_keeps h line s hk
  | samoContribution k => exact execSamoContribution_keeps k s hk
  | completionDecrement => exact execCompletionDecrement_keeps s hk
  | multicastRequest p id => exact execMulticastRequest_keeps p id s hk
  | multicastLineSend h m => exact execMulticastLineSend_keeps h m s hk
  | mergeWindowExpire h m => exact execMergeWindowExpire_keeps h m s hk
  | phaseStart j => exact execPhaseStart_keeps j s hk
  | dispatchPass => exact execDispatchPass_keeps s hk
  | classTargetTimeout l => exact execClassTargetTimeout_keeps l s hk
  | preempt l => exact execPreempt_keeps l s hk
  | launchComplete l => exact execLaunchComplete_keeps l s hk
  | taskPop k => exact execTaskPop_keeps k s hk
  | trapRecordPost => exact execTrapRecordPost_keeps s hk
  | windowCommit l => exact execWindowCommit_keeps l s hk
  | windowVoid l => exact execWindowVoid_keeps l s hk
  | windowRerun l => exact execWindowRerun_keeps l s hk
  | governorWindow c => exact execGovernorWindow_keeps c s hk
  | roundStart l g => exact execRoundStart_keeps l g s hk
  | subslotEmit l g => exact execSubslotEmit_keeps l g s hk
  | eventPacketReceive l g r => exact execEventPacketReceive_keeps l g r s hk
  | subslotJudge l g => exact execSubslotJudge_keeps l g s hk
  | roundApply l g => exact execRoundApply_keeps l g s hk
  | stepEnd l g => exact execStepEnd_keeps l g s hk
  | decoderEnqueue l g d => exact execDecoderEnqueue_keeps l g d s hk
  | sqResumeResume k v => exact execSqResumeResume_keeps k v s hk
  | sqResumeEnd k v => exact execSqResumeEnd_keeps k v s hk
  | sqResumeDeliver k v => exact execSqResumeDeliver_keeps k v s hk
  | clPresentWrite c v => exact execClPresentWrite_keeps c v s hk
  | clIssuebudgetWrite c v => exact execClIssuebudgetWrite_keeps c v s hk
  | dvAccgenWrite v => exact execDvAccgenWrite_keeps v s hk
  | controlRegisterWrite r v => exact execControlRegisterWrite_keeps r v s hk
  | hostMemoryWrite f o d => exact execHostMemoryWrite_keeps f o d s hk
  | hostMemoryRead f o n => exact execHostMemoryRead_keeps f o n s hk
  | hostFillWrite f o d => exact execHostFillWrite_keeps f o d s hk
  | hostFillRead f o n => exact execHostFillRead_keeps f o n s hk
  | cwWaitArm f n v => exact execCwWaitArm_keeps f n v s hk
  | cwWaitComplete f n => exact execCwWaitComplete_keeps f n s hk
  | cwControlWarmReset f key => exact execCwControlWarmReset_keeps f key s hk
  | cwControlFreeze f key => exact execCwControlFreeze_keeps f key s hk
  | cwControlBoot f key img => exact execCwControlBoot_keeps f key img s hk
  | cwPowercapWrite f cap => exact execCwPowercapWrite_keeps f cap s hk
  | cwAttnonceWrite f nonce => exact execCwAttnonceWrite_keeps f nonce s hk
  | coldReset => exact execColdReset_keeps s hk
  | pfHotReset => exact execPfHotReset_keeps s hk
  | vfFlr f => exact execVfFlr_keeps f s hk
  | powerGovernorTick => exact execPowerGovernorTick_keeps s hk
  | unitFailure u => exact execUnitFailure_keeps u s hk
  | portalRequest p => exact execPortalRequest_keeps p s hk
  | portalReply p => exact execPortalReply_keeps p s hk
  | portalTimeout p => exact execPortalTimeout_keeps p s hk
  | portalPutData p => exact execPortalPutData_keeps p s hk
  | portalPutMarker p => exact execPortalPutMarker_keeps p s hk
  | peerRequest u r => exact execPeerRequest_keeps u r s hk
  | illegalInstruction w => exact execIllegalInstruction_keeps w s hk
  | instructionFetchFault cause tval => exact execInstructionFetchFault_keeps cause tval s hk

theorem State.fetchWord_keeps (s : State) (a : Word64) (hk : Kept s) :
    Kept (State.fetchWord s a).2 := by
  unfold State.fetchWord
  repeat' first
    | with_reducible assumption
    | with_reducible apply State.cacheRead_keeps
    | with_reducible apply State.countCheck_keeps
    | with_reducible apply State.feNote_keeps
    | with_reducible apply State.translate_keeps
    | split
    | extract_lets
theorem State.runFirst_keeps (s : State) (w : Word32) (hk : Kept s) :
    OutOk (State.runFirst s w) := by
  unfold State.runFirst
  repeat' first
    | with_reducible assumption
    | with_reducible apply exec_keeps
    | split
theorem State.runPair_keeps (s : State) (w : Word32) (hk : Kept s) :
    OutOk (State.runPair s w) := by
  unfold State.runPair
  repeat' first
    | with_reducible assumption
    | with_reducible apply outOk_next
    | with_reducible apply exec_keeps
    | with_reducible apply State.fetchWord_keeps
    | with_reducible apply State.setIssue_keeps
    | with_reducible refine of_snd (by assumption) ?_
    | split
    | extract_lets
theorem State.issueStrand_keeps (s : State) (k : Nat) (hk : Kept s) :
    OutOk (State.issueStrand s k) := by
  unfold State.issueStrand
  repeat' first
    | with_reducible assumption
    | with_reducible apply outOk_next
    | with_reducible apply exec_keeps
    | with_reducible apply State.fetchWord_keeps
    | with_reducible apply State.runFirst_keeps
    | with_reducible apply State.runPair_keeps
    | with_reducible apply State.setIssue_keeps
    | with_reducible refine of_snd (by assumption) ?_
    | split
    | extract_lets
theorem State.noteIssue_keeps (s : State) (k : Nat) (hk : Kept s) :
    Kept (State.noteIssue s k) := by
  unfold State.noteIssue
  repeat' first
    | with_reducible assumption
    | with_reducible intro _ _ _
    | with_reducible apply foldl_keeps
    | with_reducible refine kept_priv ?_
    | with_reducible apply kept_epc
    | with_reducible apply kept_tvec
    | with_reducible apply State.setStrand_keeps
    | split
    | extract_lets
    | (simp -zeta -proj only [strand_mk_iff]; refine ⟨?_, ?_, ?_⟩)
theorem State.issueTurn_keeps (s : State) (c : Nat) (hk : Kept s) :
    OutOk (State.issueTurn s c) := by
  unfold State.issueTurn
  repeat' first
    | with_reducible assumption
    | with_reducible apply outOk_next
    | with_reducible apply State.issueStrand_keeps
    | with_reducible apply State.noteIssue_keeps
    | with_reducible apply State.setCluster_keeps
    | split
    | extract_lets

theorem State.readCw_keeps (s : State) (f : Nat) (off : Nat) (hk : Kept s) :
    Kept (State.readCw s f off).2 := by
  unfold State.readCw
  repeat' first
    | with_reducible assumption
    | with_reducible apply kept_cap
    | with_reducible apply State.setDv_keeps
    | split
    | extract_lets
    | simp -zeta -proj only [device_mk_iff]
theorem State.readWindow_keeps (s : State) (f : Nat) (off : Nat)
    (hk : Kept s) : Kept (State.readWindow s f off) := by
  unfold State.readWindow
  repeat' first
    | with_reducible assumption
    | with_reducible apply State.complete_keeps
    | with_reducible apply State.readCw_keeps
    | with_reducible apply ite_keeps

theorem State.spend_keeps (s : State) (e : Nat) (hk : Kept s) :
    Kept (State.spend s e) := by
  unfold State.spend
  repeat' first
    | with_reducible assumption
    | with_reducible apply State.setCluster_keeps
theorem State.withhold_keeps (s : State) (e : Nat) (hk : Kept s) :
    Kept (State.withhold s e) := by
  unfold State.withhold
  repeat' first
    | with_reducible assumption
    | with_reducible apply State.setCluster_keeps
theorem State.fireSlot_keeps (s : State) (e : Nat) (w : Win) (before : Element)
    (hk : Kept s) : OutOk (State.fireSlot s e w before) := by
  unfold State.fireSlot
  repeat' first
    | with_reducible assumption
    | with_reducible apply outOk_next
    | with_reducible apply kept_mem
    | with_reducible apply kept_strands
    | with_reducible apply kept_dv
    | with_reducible apply exec_keeps
    | split
    | extract_lets
    | (simp -zeta -proj only [kept_mk_iff]; refine ⟨?_, ?_, ?_⟩)
theorem State.fireBoth_keeps (s : State) (e : Nat) (m : Win) (v : Win) (before : Element)
    (hk : Kept s) : OutOk (State.fireBoth s e m v before) := by
  unfold State.fireBoth
  repeat' first
    | with_reducible assumption
    | with_reducible apply outOk_next
    | with_reducible apply State.fireSlot_keeps
    | with_reducible apply State.setElement_keeps
    | with_reducible refine of_next (by assumption) ?_
    | with_reducible apply ite_keeps
    | split
theorem State.arbitrate_keeps (s : State) (l : Launch) (e : Nat) (hk : Kept s) : OutOk (s.arbitrate l e) := by
  unfold State.arbitrate
  extract_lets x ev em grant v0 m0 loses undoV undoM rv rm s1 s2 fired y s3 s4
  have h1 : Kept s1 := ite_keeps (State.withhold_keeps _ _ hk) hk
  have h2 : Kept s2 := ite_keeps (State.closeWindow_keeps _ _ h1) h1
  have h3 : Kept s3 := State.setElement_keeps _ _ _ h2
  have h4 : Kept s4 := ite_keeps (State.spend_keeps _ _ h3) h3
  clear_value s4 rm rv
  split
  · exact State.fireBoth_keeps _ _ _ _ _ h4
  · exact State.fireSlot_keeps _ _ _ _ h4
  · exact State.fireSlot_keeps _ _ _ _ h4
  · exact outOk_next h4
theorem State.fireTurn_keeps (s : State) (e : Nat) (hk : Kept s) : OutOk (s.fireTurn e) := by
  unfold State.fireTurn
  split
  · exact outOk_next hk
  · rename_i l hl
    extract_lets x x1 s1
    refine ite_out (outOk_next hk) ?_
    have h1 : Kept s1 := State.govRoll_keeps _ _ (State.setElement_keeps _ _ _ hk)
    exact ite_out (exec_keeps _ _ h1) (ite_out (outOk_next (State.elementFault_keeps _ _ _ _ _ _ _ _ h1))
      (ite_out (exec_keeps _ _ h1) (State.arbitrate_keeps _ _ _ h1)))
theorem State.pass_keeps (s : State) (hk : Kept s) :
    Kept (State.pass s) := by
  unfold State.pass
  repeat' first
    | with_reducible assumption
    | with_reducible apply kept_mem
    | with_reducible apply kept_strands
    | with_reducible apply kept_dv
    | with_reducible apply State.settle_keeps
    | with_reducible apply ite_keeps
    | extract_lets
    | (simp -zeta -proj only [kept_mk_iff]; refine ⟨?_, ?_, ?_⟩)
theorem State.takeTurn_keeps (s : State) (t : Turn) (hk : Kept s) :
    OutOk (State.takeTurn s t) := by
  unfold State.takeTurn
  repeat' first
    | with_reducible assumption
    | with_reducible apply outOk_next
    | with_reducible apply exec_keeps
    | with_reducible apply State.fireTurn_keeps
    | with_reducible apply State.issueTurn_keeps
    | with_reducible apply State.pass_keeps
    | with_reducible apply State.readWindow_keeps
    | split
theorem State.nextTurn_keeps (s : State) (hk : Kept s) :
    Kept (State.nextTurn s).2 := by
  unfold State.nextTurn
  repeat' first
    | with_reducible assumption
    | with_reducible apply kept_mem
    | with_reducible apply kept_strands
    | with_reducible apply kept_dv
    | with_reducible apply State.nextFree_keeps
    | split
    | (simp -zeta -proj only [kept_mk_iff]; refine ⟨?_, ?_, ?_⟩)
    | dsimp -zeta only

end Sys2Proof.Machine
end

