-- ==== Sys2Proof/Laws/State.lean ====
section
/-! SUPPORT. Laws of the state: what each update leaves and sets, one lemma per field per update, and what the shared
operations of a strand do. -/

namespace Sys2Proof.Machine

theorem tabPut_tabPut {α : Type} (k : Nat) (x y : α) (l : List (Nat × α)) : tabPut k y (tabPut k x l) = tabPut k y l := by
  induction l with
  | nil => simp [tabPut]
  | cons p t ih =>
    obtain ⟨j, z⟩ := p
    by_cases h1 : k < j
    · simp [tabPut, h1]
    · by_cases h2 : k = j
      · simp [tabPut, h2]
      · simp [tabPut, h1, h2, ih]

/-! ### setStrand -/

@[simp] theorem State.setStrand_strand (s : State) (k j : Nat) (x : Strand) :
    (s.setStrand k x).strand j = if j = k then x else s.strand j := by
  unfold State.strand State.setStrand
  exact tabGet_tabPut _ _ _ _ _
@[simp] theorem State.setStrand_fc (s : State) (k : Nat) (x : Strand) : (s.setStrand k x).fc = s.fc := rfl
@[simp] theorem State.setStrand_turns (s : State) (k : Nat) (x : Strand) : (s.setStrand k x).turns = s.turns := rfl
@[simp] theorem State.setStrand_freeCount (s : State) (k : Nat) (x : Strand) : (s.setStrand k x).freeCount = s.freeCount := rfl
@[simp] theorem State.setStrand_issue (s : State) (k : Nat) (x : Strand) : (s.setStrand k x).issue = s.issue := rfl
@[simp] theorem State.setStrand_firing (s : State) (k : Nat) (x : Strand) : (s.setStrand k x).firing = s.firing := rfl
@[simp] theorem State.setStrand_mem (s : State) (k : Nat) (x : Strand) : (s.setStrand k x).mem = s.mem := rfl
@[simp] theorem State.setStrand_clusters (s : State) (k : Nat) (x : Strand) : (s.setStrand k x).clusters = s.clusters := rfl
@[simp] theorem State.setStrand_elements (s : State) (k : Nat) (x : Strand) : (s.setStrand k x).elements = s.elements := rfl
@[simp] theorem State.setStrand_tiles (s : State) (k : Nat) (x : Strand) : (s.setStrand k x).tiles = s.tiles := rfl
@[simp] theorem State.setStrand_ports (s : State) (k : Nat) (x : Strand) : (s.setStrand k x).ports = s.ports := rfl
@[simp] theorem State.setStrand_slices (s : State) (k : Nat) (x : Strand) : (s.setStrand k x).slices = s.slices := rfl
@[simp] theorem State.setStrand_launches (s : State) (k : Nat) (x : Strand) : (s.setStrand k x).launches = s.launches := rfl
@[simp] theorem State.setStrand_launchNo (s : State) (k : Nat) (x : Strand) : (s.setStrand k x).launchNo = s.launchNo := rfl
@[simp] theorem State.setStrand_jobs (s : State) (k : Nat) (x : Strand) : (s.setStrand k x).jobs = s.jobs := rfl
@[simp] theorem State.setStrand_funcs (s : State) (k : Nat) (x : Strand) : (s.setStrand k x).funcs = s.funcs := rfl
@[simp] theorem State.setStrand_decrs (s : State) (k : Nat) (x : Strand) : (s.setStrand k x).decrs = s.decrs := rfl
@[simp] theorem State.setStrand_traps (s : State) (k : Nat) (x : Strand) : (s.setStrand k x).traps = s.traps := rfl
@[simp] theorem State.setStrand_trub (s : State) (k : Nat) (x : Strand) : (s.setStrand k x).trub = s.trub := rfl
@[simp] theorem State.setStrand_service (s : State) (k : Nat) (x : Strand) : (s.setStrand k x).service = s.service := rfl
@[simp] theorem State.setStrand_dv (s : State) (k : Nat) (x : Strand) : (s.setStrand k x).dv = s.dv := rfl
@[simp] theorem State.setStrand_cluster (s : State) (k j : Nat) (x : Strand) : (s.setStrand k x).cluster j = s.cluster j := rfl
@[simp] theorem State.setStrand_element (s : State) (k j : Nat) (x : Strand) : (s.setStrand k x).element j = s.element j := rfl
@[simp] theorem State.setStrand_tile (s : State) (k j : Nat) (x : Strand) : (s.setStrand k x).tile j = s.tile j := rfl
@[simp] theorem State.setStrand_port (s : State) (k j : Nat) (x : Strand) : (s.setStrand k x).port j = s.port j := rfl
@[simp] theorem State.setStrand_slice (s : State) (k j : Nat) (x : Strand) : (s.setStrand k x).slice j = s.slice j := rfl
@[simp] theorem State.setStrand_job (s : State) (k j : Nat) (x : Strand) : (s.setStrand k x).job j = s.job j := rfl
@[simp] theorem State.setStrand_func (s : State) (k j : Nat) (x : Strand) : (s.setStrand k x).func j = s.func j := rfl

/-! ### setCluster -/

@[simp] theorem State.setCluster_cluster (s : State) (k j : Nat) (x : Cluster) :
    (s.setCluster k x).cluster j = if j = k then x else s.cluster j := by
  unfold State.cluster State.setCluster
  exact tabGet_tabPut _ _ _ _ _
@[simp] theorem State.setCluster_fc (s : State) (k : Nat) (x : Cluster) : (s.setCluster k x).fc = s.fc := rfl
@[simp] theorem State.setCluster_turns (s : State) (k : Nat) (x : Cluster) : (s.setCluster k x).turns = s.turns := rfl
@[simp] theorem State.setCluster_freeCount (s : State) (k : Nat) (x : Cluster) : (s.setCluster k x).freeCount = s.freeCount := rfl
@[simp] theorem State.setCluster_issue (s : State) (k : Nat) (x : Cluster) : (s.setCluster k x).issue = s.issue := rfl
@[simp] theorem State.setCluster_firing (s : State) (k : Nat) (x : Cluster) : (s.setCluster k x).firing = s.firing := rfl
@[simp] theorem State.setCluster_mem (s : State) (k : Nat) (x : Cluster) : (s.setCluster k x).mem = s.mem := rfl
@[simp] theorem State.setCluster_strands (s : State) (k : Nat) (x : Cluster) : (s.setCluster k x).strands = s.strands := rfl
@[simp] theorem State.setCluster_elements (s : State) (k : Nat) (x : Cluster) : (s.setCluster k x).elements = s.elements := rfl
@[simp] theorem State.setCluster_tiles (s : State) (k : Nat) (x : Cluster) : (s.setCluster k x).tiles = s.tiles := rfl
@[simp] theorem State.setCluster_ports (s : State) (k : Nat) (x : Cluster) : (s.setCluster k x).ports = s.ports := rfl
@[simp] theorem State.setCluster_slices (s : State) (k : Nat) (x : Cluster) : (s.setCluster k x).slices = s.slices := rfl
@[simp] theorem State.setCluster_launches (s : State) (k : Nat) (x : Cluster) : (s.setCluster k x).launches = s.launches := rfl
@[simp] theorem State.setCluster_launchNo (s : State) (k : Nat) (x : Cluster) : (s.setCluster k x).launchNo = s.launchNo := rfl
@[simp] theorem State.setCluster_jobs (s : State) (k : Nat) (x : Cluster) : (s.setCluster k x).jobs = s.jobs := rfl
@[simp] theorem State.setCluster_funcs (s : State) (k : Nat) (x : Cluster) : (s.setCluster k x).funcs = s.funcs := rfl
@[simp] theorem State.setCluster_decrs (s : State) (k : Nat) (x : Cluster) : (s.setCluster k x).decrs = s.decrs := rfl
@[simp] theorem State.setCluster_traps (s : State) (k : Nat) (x : Cluster) : (s.setCluster k x).traps = s.traps := rfl
@[simp] theorem State.setCluster_trub (s : State) (k : Nat) (x : Cluster) : (s.setCluster k x).trub = s.trub := rfl
@[simp] theorem State.setCluster_service (s : State) (k : Nat) (x : Cluster) : (s.setCluster k x).service = s.service := rfl
@[simp] theorem State.setCluster_dv (s : State) (k : Nat) (x : Cluster) : (s.setCluster k x).dv = s.dv := rfl
@[simp] theorem State.setCluster_strand (s : State) (k j : Nat) (x : Cluster) : (s.setCluster k x).strand j = s.strand j := rfl
@[simp] theorem State.setCluster_element (s : State) (k j : Nat) (x : Cluster) : (s.setCluster k x).element j = s.element j := rfl
@[simp] theorem State.setCluster_tile (s : State) (k j : Nat) (x : Cluster) : (s.setCluster k x).tile j = s.tile j := rfl
@[simp] theorem State.setCluster_port (s : State) (k j : Nat) (x : Cluster) : (s.setCluster k x).port j = s.port j := rfl
@[simp] theorem State.setCluster_slice (s : State) (k j : Nat) (x : Cluster) : (s.setCluster k x).slice j = s.slice j := rfl
@[simp] theorem State.setCluster_job (s : State) (k j : Nat) (x : Cluster) : (s.setCluster k x).job j = s.job j := rfl
@[simp] theorem State.setCluster_func (s : State) (k j : Nat) (x : Cluster) : (s.setCluster k x).func j = s.func j := rfl

/-! ### setElement -/

@[simp] theorem State.setElement_element (s : State) (k j : Nat) (x : Element) :
    (s.setElement k x).element j = if j = k then x else s.element j := by
  unfold State.element State.setElement
  exact tabGet_tabPut _ _ _ _ _
@[simp] theorem State.setElement_fc (s : State) (k : Nat) (x : Element) : (s.setElement k x).fc = s.fc := rfl
@[simp] theorem State.setElement_turns (s : State) (k : Nat) (x : Element) : (s.setElement k x).turns = s.turns := rfl
@[simp] theorem State.setElement_freeCount (s : State) (k : Nat) (x : Element) : (s.setElement k x).freeCount = s.freeCount := rfl
@[simp] theorem State.setElement_issue (s : State) (k : Nat) (x : Element) : (s.setElement k x).issue = s.issue := rfl
@[simp] theorem State.setElement_firing (s : State) (k : Nat) (x : Element) : (s.setElement k x).firing = s.firing := rfl
@[simp] theorem State.setElement_mem (s : State) (k : Nat) (x : Element) : (s.setElement k x).mem = s.mem := rfl
@[simp] theorem State.setElement_clusters (s : State) (k : Nat) (x : Element) : (s.setElement k x).clusters = s.clusters := rfl
@[simp] theorem State.setElement_strands (s : State) (k : Nat) (x : Element) : (s.setElement k x).strands = s.strands := rfl
@[simp] theorem State.setElement_tiles (s : State) (k : Nat) (x : Element) : (s.setElement k x).tiles = s.tiles := rfl
@[simp] theorem State.setElement_ports (s : State) (k : Nat) (x : Element) : (s.setElement k x).ports = s.ports := rfl
@[simp] theorem State.setElement_slices (s : State) (k : Nat) (x : Element) : (s.setElement k x).slices = s.slices := rfl
@[simp] theorem State.setElement_launches (s : State) (k : Nat) (x : Element) : (s.setElement k x).launches = s.launches := rfl
@[simp] theorem State.setElement_launchNo (s : State) (k : Nat) (x : Element) : (s.setElement k x).launchNo = s.launchNo := rfl
@[simp] theorem State.setElement_jobs (s : State) (k : Nat) (x : Element) : (s.setElement k x).jobs = s.jobs := rfl
@[simp] theorem State.setElement_funcs (s : State) (k : Nat) (x : Element) : (s.setElement k x).funcs = s.funcs := rfl
@[simp] theorem State.setElement_decrs (s : State) (k : Nat) (x : Element) : (s.setElement k x).decrs = s.decrs := rfl
@[simp] theorem State.setElement_traps (s : State) (k : Nat) (x : Element) : (s.setElement k x).traps = s.traps := rfl
@[simp] theorem State.setElement_trub (s : State) (k : Nat) (x : Element) : (s.setElement k x).trub = s.trub := rfl
@[simp] theorem State.setElement_service (s : State) (k : Nat) (x : Element) : (s.setElement k x).service = s.service := rfl
@[simp] theorem State.setElement_dv (s : State) (k : Nat) (x : Element) : (s.setElement k x).dv = s.dv := rfl
@[simp] theorem State.setElement_strand (s : State) (k j : Nat) (x : Element) : (s.setElement k x).strand j = s.strand j := rfl
@[simp] theorem State.setElement_cluster (s : State) (k j : Nat) (x : Element) : (s.setElement k x).cluster j = s.cluster j := rfl
@[simp] theorem State.setElement_tile (s : State) (k j : Nat) (x : Element) : (s.setElement k x).tile j = s.tile j := rfl
@[simp] theorem State.setElement_port (s : State) (k j : Nat) (x : Element) : (s.setElement k x).port j = s.port j := rfl
@[simp] theorem State.setElement_slice (s : State) (k j : Nat) (x : Element) : (s.setElement k x).slice j = s.slice j := rfl
@[simp] theorem State.setElement_job (s : State) (k j : Nat) (x : Element) : (s.setElement k x).job j = s.job j := rfl
@[simp] theorem State.setElement_func (s : State) (k j : Nat) (x : Element) : (s.setElement k x).func j = s.func j := rfl

/-! ### setTile -/

@[simp] theorem State.setTile_tile (s : State) (k j : Nat) (x : Tile) :
    (s.setTile k x).tile j = if j = k then x else s.tile j := by
  unfold State.tile State.setTile
  exact tabGet_tabPut _ _ _ _ _
@[simp] theorem State.setTile_fc (s : State) (k : Nat) (x : Tile) : (s.setTile k x).fc = s.fc := rfl
@[simp] theorem State.setTile_turns (s : State) (k : Nat) (x : Tile) : (s.setTile k x).turns = s.turns := rfl
@[simp] theorem State.setTile_freeCount (s : State) (k : Nat) (x : Tile) : (s.setTile k x).freeCount = s.freeCount := rfl
@[simp] theorem State.setTile_issue (s : State) (k : Nat) (x : Tile) : (s.setTile k x).issue = s.issue := rfl
@[simp] theorem State.setTile_firing (s : State) (k : Nat) (x : Tile) : (s.setTile k x).firing = s.firing := rfl
@[simp] theorem State.setTile_mem (s : State) (k : Nat) (x : Tile) : (s.setTile k x).mem = s.mem := rfl
@[simp] theorem State.setTile_clusters (s : State) (k : Nat) (x : Tile) : (s.setTile k x).clusters = s.clusters := rfl
@[simp] theorem State.setTile_strands (s : State) (k : Nat) (x : Tile) : (s.setTile k x).strands = s.strands := rfl
@[simp] theorem State.setTile_elements (s : State) (k : Nat) (x : Tile) : (s.setTile k x).elements = s.elements := rfl
@[simp] theorem State.setTile_ports (s : State) (k : Nat) (x : Tile) : (s.setTile k x).ports = s.ports := rfl
@[simp] theorem State.setTile_slices (s : State) (k : Nat) (x : Tile) : (s.setTile k x).slices = s.slices := rfl
@[simp] theorem State.setTile_launches (s : State) (k : Nat) (x : Tile) : (s.setTile k x).launches = s.launches := rfl
@[simp] theorem State.setTile_launchNo (s : State) (k : Nat) (x : Tile) : (s.setTile k x).launchNo = s.launchNo := rfl
@[simp] theorem State.setTile_jobs (s : State) (k : Nat) (x : Tile) : (s.setTile k x).jobs = s.jobs := rfl
@[simp] theorem State.setTile_funcs (s : State) (k : Nat) (x : Tile) : (s.setTile k x).funcs = s.funcs := rfl
@[simp] theorem State.setTile_decrs (s : State) (k : Nat) (x : Tile) : (s.setTile k x).decrs = s.decrs := rfl
@[simp] theorem State.setTile_traps (s : State) (k : Nat) (x : Tile) : (s.setTile k x).traps = s.traps := rfl
@[simp] theorem State.setTile_trub (s : State) (k : Nat) (x : Tile) : (s.setTile k x).trub = s.trub := rfl
@[simp] theorem State.setTile_service (s : State) (k : Nat) (x : Tile) : (s.setTile k x).service = s.service := rfl
@[simp] theorem State.setTile_dv (s : State) (k : Nat) (x : Tile) : (s.setTile k x).dv = s.dv := rfl
@[simp] theorem State.setTile_strand (s : State) (k j : Nat) (x : Tile) : (s.setTile k x).strand j = s.strand j := rfl
@[simp] theorem State.setTile_cluster (s : State) (k j : Nat) (x : Tile) : (s.setTile k x).cluster j = s.cluster j := rfl
@[simp] theorem State.setTile_element (s : State) (k j : Nat) (x : Tile) : (s.setTile k x).element j = s.element j := rfl
@[simp] theorem State.setTile_port (s : State) (k j : Nat) (x : Tile) : (s.setTile k x).port j = s.port j := rfl
@[simp] theorem State.setTile_slice (s : State) (k j : Nat) (x : Tile) : (s.setTile k x).slice j = s.slice j := rfl
@[simp] theorem State.setTile_job (s : State) (k j : Nat) (x : Tile) : (s.setTile k x).job j = s.job j := rfl
@[simp] theorem State.setTile_func (s : State) (k j : Nat) (x : Tile) : (s.setTile k x).func j = s.func j := rfl

/-! ### setPort -/

@[simp] theorem State.setPort_port (s : State) (k j : Nat) (x : Port) :
    (s.setPort k x).port j = if j = k then x else s.port j := by
  unfold State.port State.setPort
  exact tabGet_tabPut _ _ _ _ _
@[simp] theorem State.setPort_fc (s : State) (k : Nat) (x : Port) : (s.setPort k x).fc = s.fc := rfl
@[simp] theorem State.setPort_turns (s : State) (k : Nat) (x : Port) : (s.setPort k x).turns = s.turns := rfl
@[simp] theorem State.setPort_freeCount (s : State) (k : Nat) (x : Port) : (s.setPort k x).freeCount = s.freeCount := rfl
@[simp] theorem State.setPort_issue (s : State) (k : Nat) (x : Port) : (s.setPort k x).issue = s.issue := rfl
@[simp] theorem State.setPort_firing (s : State) (k : Nat) (x : Port) : (s.setPort k x).firing = s.firing := rfl
@[simp] theorem State.setPort_mem (s : State) (k : Nat) (x : Port) : (s.setPort k x).mem = s.mem := rfl
@[simp] theorem State.setPort_clusters (s : State) (k : Nat) (x : Port) : (s.setPort k x).clusters = s.clusters := rfl
@[simp] theorem State.setPort_strands (s : State) (k : Nat) (x : Port) : (s.setPort k x).strands = s.strands := rfl
@[simp] theorem State.setPort_elements (s : State) (k : Nat) (x : Port) : (s.setPort k x).elements = s.elements := rfl
@[simp] theorem State.setPort_tiles (s : State) (k : Nat) (x : Port) : (s.setPort k x).tiles = s.tiles := rfl
@[simp] theorem State.setPort_slices (s : State) (k : Nat) (x : Port) : (s.setPort k x).slices = s.slices := rfl
@[simp] theorem State.setPort_launches (s : State) (k : Nat) (x : Port) : (s.setPort k x).launches = s.launches := rfl
@[simp] theorem State.setPort_launchNo (s : State) (k : Nat) (x : Port) : (s.setPort k x).launchNo = s.launchNo := rfl
@[simp] theorem State.setPort_jobs (s : State) (k : Nat) (x : Port) : (s.setPort k x).jobs = s.jobs := rfl
@[simp] theorem State.setPort_funcs (s : State) (k : Nat) (x : Port) : (s.setPort k x).funcs = s.funcs := rfl
@[simp] theorem State.setPort_decrs (s : State) (k : Nat) (x : Port) : (s.setPort k x).decrs = s.decrs := rfl
@[simp] theorem State.setPort_traps (s : State) (k : Nat) (x : Port) : (s.setPort k x).traps = s.traps := rfl
@[simp] theorem State.setPort_trub (s : State) (k : Nat) (x : Port) : (s.setPort k x).trub = s.trub := rfl
@[simp] theorem State.setPort_service (s : State) (k : Nat) (x : Port) : (s.setPort k x).service = s.service := rfl
@[simp] theorem State.setPort_dv (s : State) (k : Nat) (x : Port) : (s.setPort k x).dv = s.dv := rfl
@[simp] theorem State.setPort_strand (s : State) (k j : Nat) (x : Port) : (s.setPort k x).strand j = s.strand j := rfl
@[simp] theorem State.setPort_cluster (s : State) (k j : Nat) (x : Port) : (s.setPort k x).cluster j = s.cluster j := rfl
@[simp] theorem State.setPort_element (s : State) (k j : Nat) (x : Port) : (s.setPort k x).element j = s.element j := rfl
@[simp] theorem State.setPort_tile (s : State) (k j : Nat) (x : Port) : (s.setPort k x).tile j = s.tile j := rfl
@[simp] theorem State.setPort_slice (s : State) (k j : Nat) (x : Port) : (s.setPort k x).slice j = s.slice j := rfl
@[simp] theorem State.setPort_job (s : State) (k j : Nat) (x : Port) : (s.setPort k x).job j = s.job j := rfl
@[simp] theorem State.setPort_func (s : State) (k j : Nat) (x : Port) : (s.setPort k x).func j = s.func j := rfl

/-! ### setSlice -/

@[simp] theorem State.setSlice_slice (s : State) (k j : Nat) (x : Slice) :
    (s.setSlice k x).slice j = if j = k then x else s.slice j := by
  unfold State.slice State.setSlice
  exact tabGet_tabPut _ _ _ _ _
@[simp] theorem State.setSlice_fc (s : State) (k : Nat) (x : Slice) : (s.setSlice k x).fc = s.fc := rfl
@[simp] theorem State.setSlice_turns (s : State) (k : Nat) (x : Slice) : (s.setSlice k x).turns = s.turns := rfl
@[simp] theorem State.setSlice_freeCount (s : State) (k : Nat) (x : Slice) : (s.setSlice k x).freeCount = s.freeCount := rfl
@[simp] theorem State.setSlice_issue (s : State) (k : Nat) (x : Slice) : (s.setSlice k x).issue = s.issue := rfl
@[simp] theorem State.setSlice_firing (s : State) (k : Nat) (x : Slice) : (s.setSlice k x).firing = s.firing := rfl
@[simp] theorem State.setSlice_mem (s : State) (k : Nat) (x : Slice) : (s.setSlice k x).mem = s.mem := rfl
@[simp] theorem State.setSlice_clusters (s : State) (k : Nat) (x : Slice) : (s.setSlice k x).clusters = s.clusters := rfl
@[simp] theorem State.setSlice_strands (s : State) (k : Nat) (x : Slice) : (s.setSlice k x).strands = s.strands := rfl
@[simp] theorem State.setSlice_elements (s : State) (k : Nat) (x : Slice) : (s.setSlice k x).elements = s.elements := rfl
@[simp] theorem State.setSlice_tiles (s : State) (k : Nat) (x : Slice) : (s.setSlice k x).tiles = s.tiles := rfl
@[simp] theorem State.setSlice_ports (s : State) (k : Nat) (x : Slice) : (s.setSlice k x).ports = s.ports := rfl
@[simp] theorem State.setSlice_launches (s : State) (k : Nat) (x : Slice) : (s.setSlice k x).launches = s.launches := rfl
@[simp] theorem State.setSlice_launchNo (s : State) (k : Nat) (x : Slice) : (s.setSlice k x).launchNo = s.launchNo := rfl
@[simp] theorem State.setSlice_jobs (s : State) (k : Nat) (x : Slice) : (s.setSlice k x).jobs = s.jobs := rfl
@[simp] theorem State.setSlice_funcs (s : State) (k : Nat) (x : Slice) : (s.setSlice k x).funcs = s.funcs := rfl
@[simp] theorem State.setSlice_decrs (s : State) (k : Nat) (x : Slice) : (s.setSlice k x).decrs = s.decrs := rfl
@[simp] theorem State.setSlice_traps (s : State) (k : Nat) (x : Slice) : (s.setSlice k x).traps = s.traps := rfl
@[simp] theorem State.setSlice_trub (s : State) (k : Nat) (x : Slice) : (s.setSlice k x).trub = s.trub := rfl
@[simp] theorem State.setSlice_service (s : State) (k : Nat) (x : Slice) : (s.setSlice k x).service = s.service := rfl
@[simp] theorem State.setSlice_dv (s : State) (k : Nat) (x : Slice) : (s.setSlice k x).dv = s.dv := rfl
@[simp] theorem State.setSlice_strand (s : State) (k j : Nat) (x : Slice) : (s.setSlice k x).strand j = s.strand j := rfl
@[simp] theorem State.setSlice_cluster (s : State) (k j : Nat) (x : Slice) : (s.setSlice k x).cluster j = s.cluster j := rfl
@[simp] theorem State.setSlice_element (s : State) (k j : Nat) (x : Slice) : (s.setSlice k x).element j = s.element j := rfl
@[simp] theorem State.setSlice_tile (s : State) (k j : Nat) (x : Slice) : (s.setSlice k x).tile j = s.tile j := rfl
@[simp] theorem State.setSlice_port (s : State) (k j : Nat) (x : Slice) : (s.setSlice k x).port j = s.port j := rfl
@[simp] theorem State.setSlice_job (s : State) (k j : Nat) (x : Slice) : (s.setSlice k x).job j = s.job j := rfl
@[simp] theorem State.setSlice_func (s : State) (k j : Nat) (x : Slice) : (s.setSlice k x).func j = s.func j := rfl

/-! ### setJob -/

@[simp] theorem State.setJob_job (s : State) (k j : Nat) (x : Job) :
    (s.setJob k x).job j = if j = k then x else s.job j := by
  unfold State.job State.setJob
  exact tabGet_tabPut _ _ _ _ _
@[simp] theorem State.setJob_fc (s : State) (k : Nat) (x : Job) : (s.setJob k x).fc = s.fc := rfl
@[simp] theorem State.setJob_turns (s : State) (k : Nat) (x : Job) : (s.setJob k x).turns = s.turns := rfl
@[simp] theorem State.setJob_freeCount (s : State) (k : Nat) (x : Job) : (s.setJob k x).freeCount = s.freeCount := rfl
@[simp] theorem State.setJob_issue (s : State) (k : Nat) (x : Job) : (s.setJob k x).issue = s.issue := rfl
@[simp] theorem State.setJob_firing (s : State) (k : Nat) (x : Job) : (s.setJob k x).firing = s.firing := rfl
@[simp] theorem State.setJob_mem (s : State) (k : Nat) (x : Job) : (s.setJob k x).mem = s.mem := rfl
@[simp] theorem State.setJob_clusters (s : State) (k : Nat) (x : Job) : (s.setJob k x).clusters = s.clusters := rfl
@[simp] theorem State.setJob_strands (s : State) (k : Nat) (x : Job) : (s.setJob k x).strands = s.strands := rfl
@[simp] theorem State.setJob_elements (s : State) (k : Nat) (x : Job) : (s.setJob k x).elements = s.elements := rfl
@[simp] theorem State.setJob_tiles (s : State) (k : Nat) (x : Job) : (s.setJob k x).tiles = s.tiles := rfl
@[simp] theorem State.setJob_ports (s : State) (k : Nat) (x : Job) : (s.setJob k x).ports = s.ports := rfl
@[simp] theorem State.setJob_slices (s : State) (k : Nat) (x : Job) : (s.setJob k x).slices = s.slices := rfl
@[simp] theorem State.setJob_launches (s : State) (k : Nat) (x : Job) : (s.setJob k x).launches = s.launches := rfl
@[simp] theorem State.setJob_launchNo (s : State) (k : Nat) (x : Job) : (s.setJob k x).launchNo = s.launchNo := rfl
@[simp] theorem State.setJob_funcs (s : State) (k : Nat) (x : Job) : (s.setJob k x).funcs = s.funcs := rfl
@[simp] theorem State.setJob_decrs (s : State) (k : Nat) (x : Job) : (s.setJob k x).decrs = s.decrs := rfl
@[simp] theorem State.setJob_traps (s : State) (k : Nat) (x : Job) : (s.setJob k x).traps = s.traps := rfl
@[simp] theorem State.setJob_trub (s : State) (k : Nat) (x : Job) : (s.setJob k x).trub = s.trub := rfl
@[simp] theorem State.setJob_service (s : State) (k : Nat) (x : Job) : (s.setJob k x).service = s.service := rfl
@[simp] theorem State.setJob_dv (s : State) (k : Nat) (x : Job) : (s.setJob k x).dv = s.dv := rfl
@[simp] theorem State.setJob_strand (s : State) (k j : Nat) (x : Job) : (s.setJob k x).strand j = s.strand j := rfl
@[simp] theorem State.setJob_cluster (s : State) (k j : Nat) (x : Job) : (s.setJob k x).cluster j = s.cluster j := rfl
@[simp] theorem State.setJob_element (s : State) (k j : Nat) (x : Job) : (s.setJob k x).element j = s.element j := rfl
@[simp] theorem State.setJob_tile (s : State) (k j : Nat) (x : Job) : (s.setJob k x).tile j = s.tile j := rfl
@[simp] theorem State.setJob_port (s : State) (k j : Nat) (x : Job) : (s.setJob k x).port j = s.port j := rfl
@[simp] theorem State.setJob_slice (s : State) (k j : Nat) (x : Job) : (s.setJob k x).slice j = s.slice j := rfl
@[simp] theorem State.setJob_func (s : State) (k j : Nat) (x : Job) : (s.setJob k x).func j = s.func j := rfl

/-! ### setFunc -/

@[simp] theorem State.setFunc_func (s : State) (k j : Nat) (x : Func) :
    (s.setFunc k x).func j = if j = k then x else s.func j := by
  unfold State.func State.setFunc
  exact tabGet_tabPut _ _ _ _ _
@[simp] theorem State.setFunc_fc (s : State) (k : Nat) (x : Func) : (s.setFunc k x).fc = s.fc := rfl
@[simp] theorem State.setFunc_turns (s : State) (k : Nat) (x : Func) : (s.setFunc k x).turns = s.turns := rfl
@[simp] theorem State.setFunc_freeCount (s : State) (k : Nat) (x : Func) : (s.setFunc k x).freeCount = s.freeCount := rfl
@[simp] theorem State.setFunc_issue (s : State) (k : Nat) (x : Func) : (s.setFunc k x).issue = s.issue := rfl
@[simp] theorem State.setFunc_firing (s : State) (k : Nat) (x : Func) : (s.setFunc k x).firing = s.firing := rfl
@[simp] theorem State.setFunc_mem (s : State) (k : Nat) (x : Func) : (s.setFunc k x).mem = s.mem := rfl
@[simp] theorem State.setFunc_clusters (s : State) (k : Nat) (x : Func) : (s.setFunc k x).clusters = s.clusters := rfl
@[simp] theorem State.setFunc_strands (s : State) (k : Nat) (x : Func) : (s.setFunc k x).strands = s.strands := rfl
@[simp] theorem State.setFunc_elements (s : State) (k : Nat) (x : Func) : (s.setFunc k x).elements = s.elements := rfl
@[simp] theorem State.setFunc_tiles (s : State) (k : Nat) (x : Func) : (s.setFunc k x).tiles = s.tiles := rfl
@[simp] theorem State.setFunc_ports (s : State) (k : Nat) (x : Func) : (s.setFunc k x).ports = s.ports := rfl
@[simp] theorem State.setFunc_slices (s : State) (k : Nat) (x : Func) : (s.setFunc k x).slices = s.slices := rfl
@[simp] theorem State.setFunc_launches (s : State) (k : Nat) (x : Func) : (s.setFunc k x).launches = s.launches := rfl
@[simp] theorem State.setFunc_launchNo (s : State) (k : Nat) (x : Func) : (s.setFunc k x).launchNo = s.launchNo := rfl
@[simp] theorem State.setFunc_jobs (s : State) (k : Nat) (x : Func) : (s.setFunc k x).jobs = s.jobs := rfl
@[simp] theorem State.setFunc_decrs (s : State) (k : Nat) (x : Func) : (s.setFunc k x).decrs = s.decrs := rfl
@[simp] theorem State.setFunc_traps (s : State) (k : Nat) (x : Func) : (s.setFunc k x).traps = s.traps := rfl
@[simp] theorem State.setFunc_trub (s : State) (k : Nat) (x : Func) : (s.setFunc k x).trub = s.trub := rfl
@[simp] theorem State.setFunc_service (s : State) (k : Nat) (x : Func) : (s.setFunc k x).service = s.service := rfl
@[simp] theorem State.setFunc_dv (s : State) (k : Nat) (x : Func) : (s.setFunc k x).dv = s.dv := rfl
@[simp] theorem State.setFunc_strand (s : State) (k j : Nat) (x : Func) : (s.setFunc k x).strand j = s.strand j := rfl
@[simp] theorem State.setFunc_cluster (s : State) (k j : Nat) (x : Func) : (s.setFunc k x).cluster j = s.cluster j := rfl
@[simp] theorem State.setFunc_element (s : State) (k j : Nat) (x : Func) : (s.setFunc k x).element j = s.element j := rfl
@[simp] theorem State.setFunc_tile (s : State) (k j : Nat) (x : Func) : (s.setFunc k x).tile j = s.tile j := rfl
@[simp] theorem State.setFunc_port (s : State) (k j : Nat) (x : Func) : (s.setFunc k x).port j = s.port j := rfl
@[simp] theorem State.setFunc_slice (s : State) (k j : Nat) (x : Func) : (s.setFunc k x).slice j = s.slice j := rfl
@[simp] theorem State.setFunc_job (s : State) (k j : Nat) (x : Func) : (s.setFunc k x).job j = s.job j := rfl

/-! ### setMem -/

@[simp] theorem State.setMem_fc (s : State) (x : Memory) : (s.setMem x).fc = s.fc := rfl
@[simp] theorem State.setMem_turns (s : State) (x : Memory) : (s.setMem x).turns = s.turns := rfl
@[simp] theorem State.setMem_freeCount (s : State) (x : Memory) : (s.setMem x).freeCount = s.freeCount := rfl
@[simp] theorem State.setMem_issue (s : State) (x : Memory) : (s.setMem x).issue = s.issue := rfl
@[simp] theorem State.setMem_firing (s : State) (x : Memory) : (s.setMem x).firing = s.firing := rfl
@[simp] theorem State.setMem_mem (s : State) (x : Memory) : (s.setMem x).mem = x := rfl
@[simp] theorem State.setMem_clusters (s : State) (x : Memory) : (s.setMem x).clusters = s.clusters := rfl
@[simp] theorem State.setMem_strands (s : State) (x : Memory) : (s.setMem x).strands = s.strands := rfl
@[simp] theorem State.setMem_elements (s : State) (x : Memory) : (s.setMem x).elements = s.elements := rfl
@[simp] theorem State.setMem_tiles (s : State) (x : Memory) : (s.setMem x).tiles = s.tiles := rfl
@[simp] theorem State.setMem_ports (s : State) (x : Memory) : (s.setMem x).ports = s.ports := rfl
@[simp] theorem State.setMem_slices (s : State) (x : Memory) : (s.setMem x).slices = s.slices := rfl
@[simp] theorem State.setMem_launches (s : State) (x : Memory) : (s.setMem x).launches = s.launches := rfl
@[simp] theorem State.setMem_launchNo (s : State) (x : Memory) : (s.setMem x).launchNo = s.launchNo := rfl
@[simp] theorem State.setMem_jobs (s : State) (x : Memory) : (s.setMem x).jobs = s.jobs := rfl
@[simp] theorem State.setMem_funcs (s : State) (x : Memory) : (s.setMem x).funcs = s.funcs := rfl
@[simp] theorem State.setMem_decrs (s : State) (x : Memory) : (s.setMem x).decrs = s.decrs := rfl
@[simp] theorem State.setMem_traps (s : State) (x : Memory) : (s.setMem x).traps = s.traps := rfl
@[simp] theorem State.setMem_trub (s : State) (x : Memory) : (s.setMem x).trub = s.trub := rfl
@[simp] theorem State.setMem_service (s : State) (x : Memory) : (s.setMem x).service = s.service := rfl
@[simp] theorem State.setMem_dv (s : State) (x : Memory) : (s.setMem x).dv = s.dv := rfl
@[simp] theorem State.setMem_strand (s : State) (x : Memory) (j : Nat) : (s.setMem x).strand j = s.strand j := rfl
@[simp] theorem State.setMem_cluster (s : State) (x : Memory) (j : Nat) : (s.setMem x).cluster j = s.cluster j := rfl
@[simp] theorem State.setMem_element (s : State) (x : Memory) (j : Nat) : (s.setMem x).element j = s.element j := rfl
@[simp] theorem State.setMem_tile (s : State) (x : Memory) (j : Nat) : (s.setMem x).tile j = s.tile j := rfl
@[simp] theorem State.setMem_port (s : State) (x : Memory) (j : Nat) : (s.setMem x).port j = s.port j := rfl
@[simp] theorem State.setMem_slice (s : State) (x : Memory) (j : Nat) : (s.setMem x).slice j = s.slice j := rfl
@[simp] theorem State.setMem_job (s : State) (x : Memory) (j : Nat) : (s.setMem x).job j = s.job j := rfl
@[simp] theorem State.setMem_func (s : State) (x : Memory) (j : Nat) : (s.setMem x).func j = s.func j := rfl

/-! ### setDv -/

@[simp] theorem State.setDv_fc (s : State) (x : Device) : (s.setDv x).fc = s.fc := rfl
@[simp] theorem State.setDv_turns (s : State) (x : Device) : (s.setDv x).turns = s.turns := rfl
@[simp] theorem State.setDv_freeCount (s : State) (x : Device) : (s.setDv x).freeCount = s.freeCount := rfl
@[simp] theorem State.setDv_issue (s : State) (x : Device) : (s.setDv x).issue = s.issue := rfl
@[simp] theorem State.setDv_firing (s : State) (x : Device) : (s.setDv x).firing = s.firing := rfl
@[simp] theorem State.setDv_mem (s : State) (x : Device) : (s.setDv x).mem = s.mem := rfl
@[simp] theorem State.setDv_clusters (s : State) (x : Device) : (s.setDv x).clusters = s.clusters := rfl
@[simp] theorem State.setDv_strands (s : State) (x : Device) : (s.setDv x).strands = s.strands := rfl
@[simp] theorem State.setDv_elements (s : State) (x : Device) : (s.setDv x).elements = s.elements := rfl
@[simp] theorem State.setDv_tiles (s : State) (x : Device) : (s.setDv x).tiles = s.tiles := rfl
@[simp] theorem State.setDv_ports (s : State) (x : Device) : (s.setDv x).ports = s.ports := rfl
@[simp] theorem State.setDv_slices (s : State) (x : Device) : (s.setDv x).slices = s.slices := rfl
@[simp] theorem State.setDv_launches (s : State) (x : Device) : (s.setDv x).launches = s.launches := rfl
@[simp] theorem State.setDv_launchNo (s : State) (x : Device) : (s.setDv x).launchNo = s.launchNo := rfl
@[simp] theorem State.setDv_jobs (s : State) (x : Device) : (s.setDv x).jobs = s.jobs := rfl
@[simp] theorem State.setDv_funcs (s : State) (x : Device) : (s.setDv x).funcs = s.funcs := rfl
@[simp] theorem State.setDv_decrs (s : State) (x : Device) : (s.setDv x).decrs = s.decrs := rfl
@[simp] theorem State.setDv_traps (s : State) (x : Device) : (s.setDv x).traps = s.traps := rfl
@[simp] theorem State.setDv_trub (s : State) (x : Device) : (s.setDv x).trub = s.trub := rfl
@[simp] theorem State.setDv_service (s : State) (x : Device) : (s.setDv x).service = s.service := rfl
@[simp] theorem State.setDv_dv (s : State) (x : Device) : (s.setDv x).dv = x := rfl
@[simp] theorem State.setDv_strand (s : State) (x : Device) (j : Nat) : (s.setDv x).strand j = s.strand j := rfl
@[simp] theorem State.setDv_cluster (s : State) (x : Device) (j : Nat) : (s.setDv x).cluster j = s.cluster j := rfl
@[simp] theorem State.setDv_element (s : State) (x : Device) (j : Nat) : (s.setDv x).element j = s.element j := rfl
@[simp] theorem State.setDv_tile (s : State) (x : Device) (j : Nat) : (s.setDv x).tile j = s.tile j := rfl
@[simp] theorem State.setDv_port (s : State) (x : Device) (j : Nat) : (s.setDv x).port j = s.port j := rfl
@[simp] theorem State.setDv_slice (s : State) (x : Device) (j : Nat) : (s.setDv x).slice j = s.slice j := rfl
@[simp] theorem State.setDv_job (s : State) (x : Device) (j : Nat) : (s.setDv x).job j = s.job j := rfl
@[simp] theorem State.setDv_func (s : State) (x : Device) (j : Nat) : (s.setDv x).func j = s.func j := rfl

/-! ### setIssue -/

@[simp] theorem State.setIssue_fc (s : State) (x : Issue) : (s.setIssue x).fc = s.fc := rfl
@[simp] theorem State.setIssue_turns (s : State) (x : Issue) : (s.setIssue x).turns = s.turns := rfl
@[simp] theorem State.setIssue_freeCount (s : State) (x : Issue) : (s.setIssue x).freeCount = s.freeCount := rfl
@[simp] theorem State.setIssue_issue (s : State) (x : Issue) : (s.setIssue x).issue = x := rfl
@[simp] theorem State.setIssue_firing (s : State) (x : Issue) : (s.setIssue x).firing = s.firing := rfl
@[simp] theorem State.setIssue_mem (s : State) (x : Issue) : (s.setIssue x).mem = s.mem := rfl
@[simp] theorem State.setIssue_clusters (s : State) (x : Issue) : (s.setIssue x).clusters = s.clusters := rfl
@[simp] theorem State.setIssue_strands (s : State) (x : Issue) : (s.setIssue x).strands = s.strands := rfl
@[simp] theorem State.setIssue_elements (s : State) (x : Issue) : (s.setIssue x).elements = s.elements := rfl
@[simp] theorem State.setIssue_tiles (s : State) (x : Issue) : (s.setIssue x).tiles = s.tiles := rfl
@[simp] theorem State.setIssue_ports (s : State) (x : Issue) : (s.setIssue x).ports = s.ports := rfl
@[simp] theorem State.setIssue_slices (s : State) (x : Issue) : (s.setIssue x).slices = s.slices := rfl
@[simp] theorem State.setIssue_launches (s : State) (x : Issue) : (s.setIssue x).launches = s.launches := rfl
@[simp] theorem State.setIssue_launchNo (s : State) (x : Issue) : (s.setIssue x).launchNo = s.launchNo := rfl
@[simp] theorem State.setIssue_jobs (s : State) (x : Issue) : (s.setIssue x).jobs = s.jobs := rfl
@[simp] theorem State.setIssue_funcs (s : State) (x : Issue) : (s.setIssue x).funcs = s.funcs := rfl
@[simp] theorem State.setIssue_decrs (s : State) (x : Issue) : (s.setIssue x).decrs = s.decrs := rfl
@[simp] theorem State.setIssue_traps (s : State) (x : Issue) : (s.setIssue x).traps = s.traps := rfl
@[simp] theorem State.setIssue_trub (s : State) (x : Issue) : (s.setIssue x).trub = s.trub := rfl
@[simp] theorem State.setIssue_service (s : State) (x : Issue) : (s.setIssue x).service = s.service := rfl
@[simp] theorem State.setIssue_dv (s : State) (x : Issue) : (s.setIssue x).dv = s.dv := rfl
@[simp] theorem State.setIssue_strand (s : State) (x : Issue) (j : Nat) : (s.setIssue x).strand j = s.strand j := rfl
@[simp] theorem State.setIssue_cluster (s : State) (x : Issue) (j : Nat) : (s.setIssue x).cluster j = s.cluster j := rfl
@[simp] theorem State.setIssue_element (s : State) (x : Issue) (j : Nat) : (s.setIssue x).element j = s.element j := rfl
@[simp] theorem State.setIssue_tile (s : State) (x : Issue) (j : Nat) : (s.setIssue x).tile j = s.tile j := rfl
@[simp] theorem State.setIssue_port (s : State) (x : Issue) (j : Nat) : (s.setIssue x).port j = s.port j := rfl
@[simp] theorem State.setIssue_slice (s : State) (x : Issue) (j : Nat) : (s.setIssue x).slice j = s.slice j := rfl
@[simp] theorem State.setIssue_job (s : State) (x : Issue) (j : Nat) : (s.setIssue x).job j = s.job j := rfl
@[simp] theorem State.setIssue_func (s : State) (x : Issue) (j : Nat) : (s.setIssue x).func j = s.func j := rfl

/-! ### The issuing strand -/

@[simp] theorem State.cur_setCur (s : State) (x : Strand) : (s.setCur x).cur = x := by
  unfold State.cur State.setCur
  rw [State.setStrand_strand, State.setStrand_issue, if_pos rfl]
@[simp] theorem State.setCur_setCur (s : State) (x y : Strand) : (s.setCur x).setCur y = s.setCur y := by
  unfold State.setCur State.setStrand
  simp only [tabPut_tabPut]
@[simp] theorem State.setCur_strand (s : State) (x : Strand) (j : Nat) :
    (s.setCur x).strand j = if j = s.issue.k then x else s.strand j := State.setStrand_strand _ _ _ _
@[simp] theorem State.cur_setMem (s : State) (m : Memory) : (s.setMem m).cur = s.cur := rfl
@[simp] theorem State.cur_setCluster (s : State) (c : Nat) (x : Cluster) : (s.setCluster c x).cur = s.cur := rfl
@[simp] theorem State.cur_setDv (s : State) (d : Device) : (s.setDv d).cur = s.cur := rfl
@[simp] theorem State.cur_setElement (s : State) (e : Nat) (x : Element) : (s.setElement e x).cur = s.cur := rfl
@[simp] theorem State.cur_setTile (s : State) (t : Nat) (x : Tile) : (s.setTile t x).cur = s.cur := rfl
@[simp] theorem State.cur_setPort (s : State) (p : Nat) (x : Port) : (s.setPort p x).cur = s.cur := rfl

/-! ### Registers -/

theorem Strand.reg_zero (x : Strand) : x.reg 0 = 0 := rfl
theorem Strand.reg_setReg (x : Strand) (r q : GReg) (v : Word64) :
    (x.setReg r v).reg q = if q = 0 then 0 else if q = r then v else x.reg q := by
  unfold Strand.reg Strand.setReg
  by_cases hq : q = 0
  · rw [if_pos hq, if_pos hq]
  · rw [if_neg hq, if_neg hq]
    by_cases e : q = r
    · subst e
      simp only [if_neg hq, if_pos trivial, Vector.getElem_set_self]
    · rw [if_neg e, if_neg hq]
      by_cases hr : r = 0
      · simp only [if_pos hr]
      · simp only [if_neg hr]
        exact Vector.getElem_set_ne _ _ (fun h => e (BitVec.eq_of_toNat_eq h.symm))
@[simp] theorem Strand.setReg_mode (x : Strand) (r : GReg) (v : Word64) : (x.setReg r v).mode = x.mode := by
  unfold Strand.setReg; split <;> rfl
@[simp] theorem Strand.setReg_pc (x : Strand) (r : GReg) (v : Word64) : (x.setReg r v).pc = x.pc := by
  unfold Strand.setReg; split <;> rfl
@[simp] theorem Strand.setReg_priv (x : Strand) (r : GReg) (v : Word64) : (x.setReg r v).priv = x.priv := by
  unfold Strand.setReg; split <;> rfl
@[simp] theorem Strand.setReg_intrap (x : Strand) (r : GReg) (v : Word64) : (x.setReg r v).intrap = x.intrap := by
  unfold Strand.setReg; split <;> rfl
@[simp] theorem Strand.setReg_prio (x : Strand) (r : GReg) (v : Word64) : (x.setReg r v).prio = x.prio := by
  unfold Strand.setReg; split <;> rfl
@[simp] theorem Strand.setReg_cause (x : Strand) (r : GReg) (v : Word64) : (x.setReg r v).cause = x.cause := by
  unfold Strand.setReg; split <;> rfl
@[simp] theorem Strand.setReg_epc (x : Strand) (r : GReg) (v : Word64) : (x.setReg r v).epc = x.epc := by
  unfold Strand.setReg; split <;> rfl
@[simp] theorem Strand.setReg_tval (x : Strand) (r : GReg) (v : Word64) : (x.setReg r v).tval = x.tval := by
  unfold Strand.setReg; split <;> rfl
@[simp] theorem Strand.setReg_tvec (x : Strand) (r : GReg) (v : Word64) : (x.setReg r v).tvec = x.tvec := by
  unfold Strand.setReg; split <;> rfl
@[simp] theorem Strand.setReg_retry (x : Strand) (r : GReg) (v : Word64) : (x.setReg r v).retry = x.retry := by
  unfold Strand.setReg; split <;> rfl
@[simp] theorem Strand.setReg_scratch (x : Strand) (r : GReg) (v : Word64) : (x.setReg r v).scratch = x.scratch := by
  unfold Strand.setReg; split <;> rfl
@[simp] theorem Strand.setReg_job (x : Strand) (r : GReg) (v : Word64) : (x.setReg r v).job = x.job := by
  unfold Strand.setReg; split <;> rfl
@[simp] theorem Strand.setReg_rcl (x : Strand) (r : GReg) (v : Word64) : (x.setReg r v).rcl = x.rcl := by
  unfold Strand.setReg; split <;> rfl
@[simp] theorem Strand.setReg_running (x : Strand) (r : GReg) (v : Word64) : (x.setReg r v).running = x.running := by
  unfold Strand.setReg; split <;> rfl
@[simp] theorem Strand.setReg_depth (x : Strand) (r : GReg) (v : Word64) : (x.setReg r v).depth = x.depth := by
  unfold Strand.setReg; split <;> rfl
@[simp] theorem Strand.setReg_declared (x : Strand) (r : GReg) (v : Word64) : (x.setReg r v).declared = x.declared := by
  unfold Strand.setReg; split <;> rfl
@[simp] theorem Strand.setReg_pend (x : Strand) (r : GReg) (v : Word64) : (x.setReg r v).pend = x.pend := by
  unfold Strand.setReg; split <;> rfl
@[simp] theorem Strand.setReg_posted (x : Strand) (r : GReg) (v : Word64) : (x.setReg r v).posted = x.posted := by
  unfold Strand.setReg; split <;> rfl
@[simp] theorem Strand.setReg_susp (x : Strand) (r : GReg) (v : Word64) : (x.setReg r v).susp = x.susp := by
  unfold Strand.setReg; split <;> rfl
@[simp] theorem Strand.setReg_yield (x : Strand) (r : GReg) (v : Word64) : (x.setReg r v).yield = x.yield := by
  unfold Strand.setReg; split <;> rfl
@[simp] theorem State.setReg_cur (s : State) (r : GReg) (v : Word64) : (s.setReg r v).cur = s.cur.setReg r v :=
  State.cur_setCur _ _
theorem State.reg_setReg (s : State) (r q : GReg) (v : Word64) :
    (s.setReg r v).reg q = if q = 0 then 0 else if q = r then v else s.reg q := by
  unfold State.reg
  rw [State.setReg_cur, Strand.reg_setReg]
@[simp] theorem State.setReg_isPair (s : State) (r : GReg) (v : Word64) : (s.setReg r v).isPair = s.isPair := rfl
@[simp] theorem State.setReg_nextPc (s : State) (r : GReg) (v : Word64) : (s.setReg r v).nextPc = s.nextPc := by
  unfold State.nextPc State.wordPc
  rw [State.setReg_cur, State.setReg_isPair, Strand.setReg_pc]

/-! ### Retiring, and going to an address -/

@[simp] theorem State.goto_cur (s : State) (a : Word64) : (s.goto a).cur = { s.cur with pc := a, mode := .ready, pend := none } :=
  State.cur_setCur _ _
@[simp] theorem State.goto_reg (s : State) (a : Word64) (q : GReg) : (s.goto a).reg q = s.reg q := by
  unfold State.reg
  rw [State.goto_cur]
  rfl
@[simp] theorem State.goto_mem (s : State) (a : Word64) : (s.goto a).mem = s.mem := rfl
@[simp] theorem State.retire_cur (s : State) : s.retire.cur = { s.cur with pc := s.nextPc, mode := .ready, pend := none } :=
  State.cur_setCur _ _
@[simp] theorem State.retire_mem (s : State) : s.retire.mem = s.mem := rfl
theorem State.retireReg_eq (s : State) (r : GReg) (v : Word64) :
    s.retireReg r v = s.setCur { s.cur.setReg r v with pc := s.nextPc, mode := .ready, pend := none } := by
  unfold State.retireReg State.retire State.goto
  rw [State.setReg_cur, State.setReg_nextPc]
  exact State.setCur_setCur _ _ _
@[simp] theorem State.retireReg_cur (s : State) (r : GReg) (v : Word64) :
    (s.retireReg r v).cur = { s.cur.setReg r v with pc := s.nextPc, mode := .ready, pend := none } := by
  rw [State.retireReg_eq, State.cur_setCur]
theorem State.retireReg_reg (s : State) (r q : GReg) (v : Word64) :
    (s.retireReg r v).reg q = if q = 0 then 0 else if q = r then v else s.reg q := by
  unfold State.reg
  rw [State.retireReg_cur]
  exact Strand.reg_setReg s.cur r q v
@[simp] theorem State.retireReg_mem (s : State) (r : GReg) (v : Word64) : (s.retireReg r v).mem = s.mem := rfl

/-! ### Traps -/

/-- Everything that taking a trap can do: hand it to the supervisor as it is, hand it over as a double trap, or enter the
strand's own handler. -/
theorem State.takeTrap_cases (s : State) (k : Nat) (code : BitVec 8) (tval epc : Word64) (pair : Bool) :
    (supervisorRouted code.toNat = true ∧ s.takeTrap k code tval epc pair = s.suspend k code tval epc pair) ∨
    (supervisorRouted code.toNat = false ∧ ((s.strand k).intrap = true ∨ (s.strand k).tvec = 0) ∧
      s.takeTrap k code tval epc pair = s.suspend k 0x0D (code.zeroExtend 64) epc pair) ∨
    (supervisorRouted code.toNat = false ∧ (s.strand k).intrap = false ∧ (s.strand k).tvec ≠ 0 ∧
      s.takeTrap k code tval epc pair = s.setStrand k
        { (s.strand k) with epc := epc &&& ~~~3, tval := tval, cause := BitVec.ofBool pair ++ code, intrap := true,
                            pc := (s.strand k).tvec, mode := .ready, pend := none }) := by
  unfold State.takeTrap
  by_cases h1 : supervisorRouted code.toNat = true
  · exact .inl ⟨h1, if_pos h1⟩
  · have h1' : supervisorRouted code.toNat = false := by simpa using h1
    by_cases h2 : (s.strand k).intrap = true ∨ (s.strand k).tvec = 0
    · refine .inr (.inl ⟨h1', h2, ?_⟩)
      simp only [h1', Bool.false_eq_true, if_false]
      rw [if_pos (by simpa using h2)]
    · refine .inr (.inr ⟨h1', ?_, fun e => h2 (.inr e), ?_⟩)
      · cases hi : (s.strand k).intrap with
        | false => rfl
        | true => exact absurd (.inl hi) h2
      · simp only [h1', Bool.false_eq_true, if_false]
        rw [if_neg (by simpa using h2)]
@[simp] theorem State.returnFromTrap_cur (s : State) :
    s.returnFromTrap.cur = { s.cur with pc := s.cur.epc, intrap := false, mode := .ready, pend := none } :=
  State.cur_setCur _ _
@[simp] theorem State.returnFromTrap_mem (s : State) : s.returnFromTrap.mem = s.mem := rfl

end Sys2Proof.Machine
end

