-- ==== Sys2Proof/Tests/Slice0.lean ====
section
/-! SUPPORT. Tests: ill-formed terms that `wf` refuses, words of the spec that decode to their instructions, one step of
small states against the spec's own values, and for each obligation states that meet its hypotheses. -/

open Sys2Proof Sys2Proof.Machine

namespace Sys2Proof.Tests

set_option Elab.async false

/-! ### Well-formedness: an ill-formed term for each check, which the check refuses -/

/-- A slot whose sources are v1 and v2 and whose destination is v0. -/
def plainSlot : Slot := { trig := 0, dst := 0, srcA := 1, srcB := 2, deqA := false, deqB := false, bit0 := false }

theorem test_wf_accepts_a_slot : (Instr.vadd 1 plainSlot).wf = true := by decide
theorem test_wf_pairs :
    [(Instr.xiPrefix 0 0x40A07960).wf, (Instr.xiPrefix 0 0x00C32005).wf, (Instr.xiPrefix 0 0xFFFFFFFE).wf,
      (Instr.xiPrefix 0x10000 0x70A00001).wf, (Instr.xiPrefix 1 0x54A00001).wf, (Instr.xiPrefix 0x10000 0x78A00005).wf,
      (Instr.xiPrefix 0x10000 0x7C050004).wf, (Instr.xiPrefix 0 0x94200005).wf, (Instr.xiPrefix 0 0xD0000000).wf,
      (Instr.xiPrefix 0 0x80A0F800).wf] =
    [true, false, false, false, false, false, false, false, false, false] := by decide
theorem test_wf_refuses_selects :
    [(Instr.vadd 1 { plainSlot with dst := 29 }).wf, (Instr.vadd 1 { plainSlot with srcA := 16 }).wf,
      (Instr.vadd 1 { plainSlot with srcB := 28 }).wf, (Instr.vadd 1 { plainSlot with deqA := true }).wf,
      (Instr.vadd 1 { plainSlot with deqB := true }).wf, (Instr.vabs 1 plainSlot).wf] =
    [false, false, false, false, false, false] := by decide
theorem test_wf_refuses_bit0 :
    [(Instr.vadd 1 { plainSlot with bit0 := true }).wf, (Instr.vadd 4 { plainSlot with bit0 := true }).wf,
      (Instr.radd 4 { plainSlot with bit0 := true }).wf, (Instr.vmin 4 { plainSlot with bit0 := true }).wf] =
    [false, true, false, false] := by decide
theorem test_wf_refuses_formats :
    [(Instr.fma 4 plainSlot).wf, (Instr.fma 1 { plainSlot with dst := 16 }).wf, (Instr.vand 3 plainSlot).wf,
      (Instr.cvtNamedSource 0 0 { plainSlot with srcB := 4 }).wf, (Instr.cvtNamedSource 13 0 { plainSlot with srcB := 4 }).wf,
      (Instr.cvt 0 { plainSlot with srcB := 26 }).wf, (Instr.retag { plainSlot with srcB := 0 }).wf,
      (Instr.retag { plainSlot with srcB := 3 }).wf] =
    [false, false, false, false, false, false, false, false] := by decide
theorem test_wf_refuses_shapes :
    [(Instr.pset { plainSlot with dst := 16, srcB := 0 }).wf, (Instr.ldl { plainSlot with srcB := 4 }).wf,
      (Instr.ldl { plainSlot with dst := 24, srcA := 24, srcB := 4 }).wf, (Instr.stl { plainSlot with srcB := 0 }).wf,
      (Instr.nop { plainSlot with dst := 1, srcA := 0, srcB := 0 }).wf, (Instr.efault { plainSlot with srcB := 0 }).wf,
      (Instr.evdec plainSlot).wf, (Instr.mcfg { plainSlot with dst := 28, srcA := 29, srcB := 0 }).wf,
      (Instr.mzero { plainSlot with dst := 28, srcB := 0 }).wf, (Instr.mread { plainSlot with dst := 28, srcA := 0, srcB := 0 }).wf,
      (Instr.mma plainSlot).wf, (Instr.mwrite { plainSlot with dst := 28 }).wf] =
    [false, false, false, false, false, false, false, false, false, false, false, false] := by decide

/-! ### Decoding: words written from the spec's encodings, field by field (04 R57–R64, 05 R78–R85) -/

/-- A sequencer word from its fields: major, and the bits below. -/
def word (major low : Nat) : Word32 := BitVec.ofNat 32 (major * 2 ^ 26 + low)

/-- R form (05 R79): DIV is function 5; the word stands in 06. -/
theorem test_decode_r : decodeWord 0x00C32005 = .ok (.div 6 3 4) ∧
    decodeWord (word 0 (6 * 2 ^ 21 + 3 * 2 ^ 16 + 4 * 2 ^ 11 + 5)) = .ok (.div 6 3 4) := by decide
/-- I form (05 R78): the words stand in 05 and 06. -/
theorem test_decode_i : decodeWord 0x40A07960 = .ok (.addI 5 0 0x7960) ∧ decodeWord 0x40BF0040 = .ok (.addI 5 31 0x40) := by
  decide
/-- A shift count above 63 is refused (04 R59). -/
theorem test_decode_shift_count : (decodeWord (word 0x15 (2 ^ 21 + 0x3F))).toOption = some (.shlI 1 0 0x3F) ∧
    (decodeWord (word 0x15 (2 ^ 21 + 0x40))).toOption = none := by decide
/-- B and J forms: the words stand in 06. -/
theorem test_decode_branches : decodeWord 0x15000002 = .ok (.bne 8 0 2) ∧ decodeWord 0x0C000001 = .ok (.jal 1) := by decide
/-- Registers and traps: the words stand in 06. -/
theorem test_decode_system : decodeWord 0x78A00005 = .ok (.mfc 5 5) ∧ decodeWord 0x7C050004 = .ok (.mtc 5 4) ∧
    decodeWord 0x94000005 = .ok (.trap 5) ∧ decodeWord 0xD0000000 = .ok .rett := by decide
/-- A pair (04 R62): the words stand in 05. -/
theorem test_decode_pair : decodeSeq 0xFFFFFFFE (some 0x40A07960) = .ok (.xiPrefix 0x3FFFFFE 0x40A07960) := by decide
/-- Stream and work commands: the words stand in 09. -/
theorem test_decode_commands : decodeWord 0xC4020000 = .ok (.confLoad 2) ∧ decodeWord 0xC5A00002 = .ok (.confWait 13) ∧
    decodeWord 0xC4000003 = .ok .sparge ∧ decodeWord 0xC40C5804 = .ok (.sbind 12 11) ∧
    decodeWord 0xC4074005 = .ok (.scopy 7 8) := by decide
/-- The all-zero word is ADD g0, g0, g0, and an unassigned major is refused (04 R77). -/
theorem test_decode_ends : decodeWord 0 = .ok (.add 0 0 0) ∧ (decodeWord (word 0x01 0)).toOption = none := by decide
/-- Slot words that stand in 05 and 08. -/
theorem test_decode_slots :
    decodeSlot 0x0804084E = .ok (.vadd 1 { trig := 2, dst := 0, srcA := 8, srcB := 9, deqA := true, deqB := true, bit0 := false }) ∧
    decodeSlot 0x330C8300 = .ok (.cvt 3 { plainSlot with trig := 12, dst := 4, srcA := 3, srcB := 0 }) ∧
    decodeSlot 0x10E42000 = .ok (.fma 1 { plainSlot with trig := 4, dst := 1, srcA := 0, srcB := 0 }) ∧
    decodeSlot 0x15844010 = .ok (.rmaxabs 1 { plainSlot with trig := 5, dst := 2, srcA := 0, srcB := 2 }) ∧
    decodeSlot 0x2F246370 = .ok (.scalex 1 { plainSlot with trig := 11, dst := 3, srcA := 3, srcB := 14 }) ∧
    decodeSlot 0x43122520 = .ok (.qnt 0 { plainSlot with trig := 16, dst := 17, srcA := 5, srcB := 4 }) ∧
    decodeSlot 0x1F9D21F0 = .ok (.pcmplt { plainSlot with trig := 7, dst := 9, srcA := 1, srcB := 30 }) ∧
    decodeSlot 0x26504B24 =
      .ok (.cvtNamedSource 5 0 { plainSlot with trig := 9, dst := 2, srcA := 11, srcB := 4, deqA := true }) := by decide
/-- Matrix opcodes (05 R84): MZERO of accumulator 1. -/
theorem test_decode_matrix : decodeSlot (BitVec.ofNat 32 (0xF1 * 2 ^ 18 + 28 * 2 ^ 13 + 1)) =
    .ok (.mzero { plainSlot with dst := 28, srcA := 0, srcB := 0, bit0 := true }) := by decide

/-! ### States the witnesses start from

Each `witness_…` theorem shows operands and a state that meet the hypotheses of the obligation it names, all together; a
statement with several clauses has one for each. -/

/-- Device memory with the translation records of jobs 0 and 1: each has a heap of 0x4000 bytes from 0x1000 on, in place. -/
def heap : Memory := (((Memory.empty.setNat 0 8 0x1000).setNat 8 8 0x4000).setNat 64 8 0x1000).setNat 72 8 0x4000

/-- The memory with a cell of data and state at an address, with its code. -/
def put (m : Memory) (a d : Nat) (fe : BitVec 2) : Memory :=
  m.setCell a { data := BitVec.ofNat 256 d, fe := fe, w := false, code := gen (BitVec.ofNat 256 d) }

/-- Registers with some values. -/
def regs (l : List (Nat × Word64)) : Vector Word64 32 := l.foldl (fun v x => vset v x.1 x.2) (Vector.replicate 32 0)

/-- The supervisor strand of die 4 issues, with some registers, over a memory. -/
def sup (m : Memory) (g : List (Nat × Word64)) : State :=
  { State.reset with
    fc := 5000, mem := m, issue := { k := 519, hi := none, exam := false },
    strands := [(519, { Strand.reset with mode := .ready, priv := true, pc := 0x100, tvec := 0x800, g := regs g })] }

/-- Rights of masters 0 to 3 (jobs), of function 1 and of UALink port 0 where the witnesses need them. -/
def rights : List (Nat × Byte) :=
  [(0, 0xFF), (64, 0xFF), (128, 0xFF), (256 * 216, 0xFF), (256 * 1081 + 64, 0xFF)]

/-- A direct launch of job 1 that holds cluster 0. -/
def work : Launch :=
  { State.withFetchWord.placeLaunch 0 with
    xrec := { hbase := 0x1000, hlimit := 0x4000, hoff := 0, root := 0, kegpa := 0, kegcells := 0 },
    record := { (State.withFetchWord.placeLaunch 0).record with done := 0x1E00 } }

/-- Strand 0 of job 1 issues in the region of a launch, with some registers, over a memory. -/
def job (l : Launch) (m : Memory) (g : List (Nat × Word64)) : State :=
  { State.reset with
    fc := 5000, mem := m, launches := [l], launchNo := 1, clusters := [(0, { Cluster.reset with owner := some 0 })],
    jobs := [(1, { Job.reset with running := some 0x1F00 })],
    strands := [(0, { Strand.reset with mode := .ready, job := 1, pc := 0x100, tvec := 0x800, declared := true, g := regs g })],
    dv := { Device.reset with loaded := true, access := rights, trapring := 0x4004 } }

/-- The state a meaning answers. -/
def after (i : Instr) (s : State) : State :=
  match exec i s with
  | .next t => t
  | _ => s

/-- The state with the issuing strand's instruction in flight. -/
def inFlight (s : State) (i : Instr) (stage : Nat) (value : Word64) (place : Place) (mode : Mode) : State :=
  s.setCur { s.cur with mode := mode, pend := some { instr := i, hi := none, pa := 0x1040, va := 0x1040, place := place,
                                                     stage := stage, value := value, cmds := [], walks := [],
                                                     sends := [], left := [], sum := 0 } }

/-! ### Sequencer instructions (06) -/

theorem witness_integer_table : aluRow (.divu 5 6 7) = some (5, 6, 7, fun x y => if y = 0 then 0 else x / y) := rfl
theorem witness_integer_immediate :
    aluImmRow (sup heap []) (.sltuI 5 6 0xFFFF) = some (5, 6, -1, fun x y => if x < y then 1 else 0) := rfl
theorem witness_branches : branchRow (.bgeu 1 2 0x8000) = some (1, 2, 0x8000, fun x y => !x.ult y) := rfl
theorem witness_trap_entry : (job work heap []).issue.k < 1152 ∧ (job work heap []).ringOn := by
  unfold State.ringOn; decide +kernel
theorem witness_traps_by_instruction : (job work heap []).handler ∧ (job work heap []).issue.k < 1152 ∧ (job work heap []).ringOn := by
  unfold State.handler State.ringOn; decide +kernel
theorem witness_return_from_trap : (sup heap []).cur.priv = true ∧ (job work heap []).cur.priv = false ∧
    (job work heap []).cur.intrap = false ∧ (job work heap []).issue.k < 1152 ∧ (job work heap []).ringOn := by
  unfold State.ringOn; decide +kernel
theorem witness_control_registers : (job work heap []).issue.hi = none ∧ (job work heap []).handler ∧
    (job work heap []).cur.priv = false ∧ (9 : BitVec 16).toNat < 10 ∧ (8 : BitVec 16).toNat < 9 ∧
    (0x100 : BitVec 16).toNat ∈ [0x009, 0x100, 0x101, 0x501, 0x504, 0x50B, 0x50D] ∧ 0x080 ≤ (0x9F : BitVec 16).toNat ∧
    (0x0A : BitVec 16).toNat < 0x080 ∧ 0x600 ≤ (0xFFFF : BitVec 16).toNat := by
  unfold State.handler; decide +kernel
/-- The strand's word stands after a prefix that names a unit. -/
def named (s : State) (id : BitVec 26) : State := s.setIssue { s.issue with hi := some id }
theorem names_unit {s : State} {h : BitVec 26} {u : UnitRef} (hh : s.issue.hi = some h) (hp : s.cur.priv = true) :
    s.namesUnit u ↔ unitAbs (h.toNat % 65536) = some u := by
  unfold State.namesUnit
  simp [hh, hp]
theorem witness_control_registers_of_units :
    ((named (sup heap [(1, 5)]) 0).namesUnit (.element 0) ∧ (sup heap [(1, 5)]).regValue (.element 0) 0x204 = some 0 ∧
      (named (sup heap [(1, 5)]) 0).mayWrite (.element 0) 0x204 ∧
      ∀ l, (named (sup heap [(1, 5)]) 0).regionOf (.element 0) = some l → l.window = none) ∧
    ((sup heap []).namesUnit (.strand 519) ∧ (sup heap []).cur.priv = true ∧ (0x50B : BitVec 16).toNat = 0x50B) ∧
    (∀ u, ¬(named (sup heap []) 0xFFFF).namesUnit u) ∧
    ((named (job work heap []) 97).namesUnit (.strand 1) ∧ 1 ≠ (named (job work heap []) 97).issue.k ∧
      (named (job work heap []) 97).cur.priv = false ∧ (named (job work heap []) 97).handler ∧
      ((job work heap []).regValue (.strand 1) 4).isSome = true) := by
  refine ⟨⟨?_, by decide +kernel, ?_, fun l h => ?_⟩, ⟨?_, by decide +kernel, rfl⟩, fun u h => ?_, ?_, by decide +kernel,
    by decide +kernel, ?_, by decide +kernel⟩
  · exact (names_unit rfl rfl).2 (by decide)
  · exact ⟨fun h => absurd h (by decide +kernel), fun h => absurd h (by decide)⟩
  · rw [show (named (sup heap [(1, 5)]) 0).regionOf (.element 0) = none by decide +kernel] at h
    cases h
  · show UnitRef.strand 519 = .strand (sup heap []).issue.k
    rfl
  · have h2 := (names_unit rfl rfl).1 h
    rw [show unitAbs ((0xFFFF : BitVec 26).toNat % 65536) = none by decide] at h2
    cases h2
  · unfold State.namesUnit
    simp only [show (named (job work heap []) 97).issue.hi = some 97 from rfl,
      show (named (job work heap []) 97).cur.priv = false from rfl, Bool.false_eq_true, if_false]
    exact ⟨work, by decide +kernel, by decide +kernel, fun k h => by cases h; decide⟩
  · unfold State.handler; decide +kernel

theorem witness_pairs : pairOk 0x3FFFFFE 0x40A07960 = true ∧ decodeWord 0x40A07960 = .ok (.addI 5 0 0x7960) ∧
    pairOk 0 0x00C32005 = false ∧ (job work heap []).handler := by
  unfold State.handler; decide +kernel

/-- The spec's own values (06 R93): DIV −7 by 2 is −3, and by 0 is 0. -/
theorem test_div : (after (.div 3 1 2) (sup heap [(1, -7), (2, 2)])).reg 3 = -3 ∧
    (after (.div 3 1 2) (sup heap [(1, -7)])).reg 3 = 0 := by decide +kernel
/-- 06 R93: REM −7 by 2 is −1, and REMU 7 by 0 is 7. -/
theorem test_rem : (after (.rem 3 1 2) (sup heap [(1, -7), (2, 2)])).reg 3 = -1 ∧
    (after (.remu 3 1 2) (sup heap [(1, 7)])).reg 3 = 7 := by decide +kernel
/-- 06 R93: DIV −2^63 by −1 wraps, MULH −1 by 1 is −1, and SAR of the sign by 63 is −1. -/
theorem test_integer_corners :
    (after (.div 3 1 2) (sup heap [(1, 0x8000000000000000), (2, -1)])).reg 3 = 0x8000000000000000 ∧
    (after (.mulh 3 1 2) (sup heap [(1, -1), (2, 1)])).reg 3 = -1 ∧
    (after (.sar 3 1 2) (sup heap [(1, 0x8000000000000000), (2, 63)])).reg 3 = -1 := by decide +kernel
/-- 04: ADD g5, g0, −100000 as a pair. -/
theorem test_pair_add : (after (.xiPrefix 0x3FFFFFE 0x40A07960) (sup heap [])).reg 5 = -100000 ∧
    (after (.xiPrefix 0x3FFFFFE 0x40A07960) (sup heap [])).cur.pc = 0x108 := by decide +kernel
theorem test_g0 : (after (.addI 0 1 5) (sup heap [(1, 1)])).reg 0 = 0 := by decide +kernel
/-- JAL links the word after itself (06 R96). -/
theorem test_jal : (after (.jal 0x3FFFFFF) (sup heap [])).reg 31 = 0x104 ∧ (after (.jal 0x3FFFFFF) (sup heap [])).cur.pc = 0xFC := by
  decide +kernel
/-- JALR reads ga before it writes gd, and clears bits 1:0 (06 R97). -/
theorem test_jalr : (after (.jalr 1 1 3) (sup heap [(1, 0x200)])).cur.pc = 0x200 ∧
    (after (.jalr 1 1 3) (sup heap [(1, 0x200)])).reg 1 = 0x104 := by decide +kernel
theorem test_branch : (after (.bltu 1 2 0xFFFF) (sup heap [(1, 1), (2, -1)])).cur.pc = 0xFC ∧
    (after (.blt 1 2 0xFFFF) (sup heap [(1, 1), (2, -1)])).cur.pc = 0x104 := by decide +kernel
/-- TRAP saves the word after it, the code and the cause, and goes to SQ_TVEC (06 R100, R101). -/
theorem test_trap : let t := after (.trap 5) (job work heap [])
    (t.cur.epc, t.cur.tval, t.cur.cause) = (0x104, 5, 3) ∧ t.cur.pc = 0x800 ∧ t.cur.intrap = true := by decide +kernel
theorem test_svc_suspends : (after (.svc 7) (job work heap [])).cur.mode = .suspended ∧
    (after (.svc 7) (job work heap [])).traps.length = 1 := by decide +kernel
/-- A trap in a handler is a double trap, for the supervisor (06 R101). -/
theorem test_double_trap : ((after (.trap 5) (after (.trap 5) (job work heap []))).cur.susp.map (·.code)) = some 0x0D := by
  decide +kernel
theorem test_rett : (after .rett (after (.trap 5) (job work heap []))).cur.pc = 0x104 ∧
    (after .rett (after (.trap 5) (job work heap []))).cur.intrap = false := by decide +kernel
/-- SQ_RETRY is 0x0400 at start (06 R91). -/
theorem test_mfc : (after (.mfc 5 5) (job work heap [])).reg 5 = 0x0400 := by decide +kernel
theorem test_mtc : (after (.mtc 1 4) (job work heap [(1, 0x1237)])).cur.tvec = 0x1234 := by decide +kernel

/-! ### Memory instructions (16, 17) -/

/-- Cells: 0x1040 full, 0x1060 empty, 0x1080 full. -/
def cells : Memory := put (put (put heap 0x1040 0x1122334455667788 2) 0x1060 0 1) 0x1080 7 2

theorem witness_access_checks : 2 ^ 52 ≤ (0x10000000000000 : Word64).toNat ∧ (0x1041 : Word64).toNat % 8 ≠ 0 ∧
    (0x1040 : Word64).toNat < 2 ^ 52 ∧ (0x1040 : Word64).toNat % 8 = 0 ∧
    ((sup cells []).strandX (sup cells []).issue.k).inHeap (0x1040 : Word64).toNat = true := by decide +kernel
theorem witness_loads : (sup cells [(2, 0x1040)]).reaches ((sup cells [(2, 0x1040)]).mAddr 3 2 0) (2 ^ (3 : BitVec 2).toNat) false 1 0x1040 ∧
    (sup cells [(2, 0x1040)]).cleanAt 0x1040 ∧ (∀ p ∈ (sup cells [(2, 0x1040)]).cur.posted, p.pa / 32 ≠ 0x1040 / 32) ∧
    (sup cells []).feOk 0x1040 ∧ ((sup cells []).mem.sideAt 0x1040).fe = 2 ∧ (sup cells [(2, 0x1040)]).cur.pend = none ∧
    (sup cells [(2, 0x1040)]).quiet 0x1040 ∧ (sup cells [(2, 0x1040)]).writeHeld 0x1040 = false ∧
    (sup cells [(2, 0x1040)]).hasRoom 0x1040 := by
  unfold State.reaches State.cleanAt State.feOk State.quiet State.hasRoom; decide +kernel
theorem witness_stores : (sup cells [(2, 0x1060)]).reaches ((sup cells [(2, 0x1060)]).mAddr 0 2 0) (2 ^ (0 : BitVec 2).toNat) true 2 0x1060 ∧
    (sup cells [(2, 0x1060)]).cleanAt 0x1060 ∧ (sup cells [(2, 0x1060)]).quiet 0x1060 ∧
    ((sup cells [(2, 0x1060)]).mem.sideAt 0x1060).fe = 1 ∧ (sup cells [(2, 0x1060)]).cur.posted = [] ∧
    (sup cells [(2, 0x1060)]).cur.pend = none ∧ (sup cells [(2, 0x1060)]).writeHeld 0x1060 = false := by
  unfold State.reaches State.cleanAt State.quiet; decide +kernel

/-- The supervisor strand has posted an 8-byte store to 0x1048; it stands at its slice, or another L1 holds the line. -/
def posting (atSlice shared : Bool) : State :=
  { (sup cells []).setCur { (sup cells []).cur with posted := [{ va := 0x1048, pa := 0x1048, size := 8, value := 9,
                                                                 share := shareOf 8 8 9, fill := false,
                                                                 atSlice := atSlice }] } with
    ports := if shared then [(0, { Port.reset with l1 := [l1Of 0x1048] })] else [] }

theorem witness_posted_stores : (∀ a b, ((posting a b).strand 519).posted[0]? = some
      { va := 0x1048, pa := 0x1048, size := 8, value := 9, share := shareOf (0x1048 % 32) 8 (9 : Word64).toNat, fill := false,
        atSlice := a } ∧
      postedFree ((posting a b).strand 519).posted 0 = true ∧ (posting a b).cleanAt 0x1048 ∧ (posting a b).feOk 0x1048 ∧
      (posting a b).quiet 0x1048 ∧ (posting a b).writeHeld 0x1048 = false ∧
      (posting a b).l1Shared 0x1048 (some (portOfStrand 519)) = b) := by
  unfold State.cleanAt State.feOk State.quiet; decide +kernel
theorem witness_state_operations : (sup cells [(2, 0x1040), (1, 1)]).reaches ((sup cells [(2, 0x1040), (1, 1)]).mAddr 3 2 0) 0 false 1 0x1040 ∧
    (sup cells [(2, 0x1040), (1, 1)]).reaches ((sup cells [(2, 0x1040), (1, 1)]).mAddr 3 2 0) 0 true 2 0x1040 ∧
    (sup cells [(2, 0x1040), (1, 1)]).feOk 0x1040 ∧ (sup cells [(2, 0x1040), (1, 1)]).quiet 0x1040 ∧
    (sup cells [(2, 0x1040), (1, 1)]).cur.posted = [] ∧ (sup cells [(2, 0x1040), (1, 1)]).writeHeld 0x1040 = false ∧
    ((sup cells [(2, 0x1040), (1, 1)]).reg 1).toNat % 4 = (1 : BitVec 2).toNat ∧ (job work cells [(1, 3)]).handler ∧
    (job work cells [(1, 3)]).issue.hi = none ∧ ((job work cells [(1, 3)]).reg 1).toNat % 4 = 3 ∧
    ((sup cells [(2, 0x1040), (1, 1)]).mAddr 3 2 0).toNat < 2 ^ 52 ∧ ∀ pa, (sup cells [(2, 0x1040), (1, 1)]).hasRoom pa := by
  unfold State.reaches State.feOk State.quiet State.handler
  have h : ∀ pa, (sup cells [(2, 0x1040), (1, 1)]).hasRoom pa := fun pa => .inr (.inr rfl)
  exact ⟨by decide +kernel, by decide +kernel, by decide +kernel, by decide +kernel, by decide +kernel, by decide +kernel,
    by decide +kernel, by decide +kernel, by decide +kernel, by decide +kernel, by decide +kernel, h⟩
theorem witness_atomics : (atomicRow (sup cells []) (.cas true 1 2 3 4)).isSome = true ∧
    (sup cells [(2, 0x1040)]).reaches ((sup cells [(2, 0x1040)]).reg 2) 8 true 3 0x1040 ∧ (sup cells [(2, 0x1040)]).feOk 0x1040 ∧
    (sup cells [(2, 0x1040)]).cleanAt 0x1040 ∧ (sup cells [(2, 0x1040)]).cur.posted = [] ∧
    (sup cells [(2, 0x1040)]).writeHeld 0x1040 = false ∧ (sup cells [(2, 0x1040)]).noRecord ∧
    (sup cells [(2, 0x1040)]).hasRoom 0x1040 := by
  unfold State.reaches State.cleanAt State.feOk State.noRecord State.hasRoom; decide +kernel

/-- SAMO.I64 of contribution m of 3 to 0x1040; its slice knows the sequence, with number 1 due and number 2 in the buffer. -/
def contributing (m : Nat) : State :=
  { sup cells [(2, 0x1040), (3, 5), (4, BitVec.ofNat 64 (3 * 2 ^ 32 + m))] with
    slices := if m = 0 then [] else [(homeOf 0x1040, { Slice.reset with
      seqs := [{ pa := 0x1040, fmt := 2, t := 3, x := 1, job := 0, bad := false }], reorder := if m = 1 then [{ pa := 0x1040, n := 2, c := 7 }] else [] })] }

theorem witness_sequenced_atomics : (Instr.samoI64 2 3 4, 8, 2) ∈
      [(.samoF32 2 3 4, 4, 0), (.samoF64 2 3 4, 8, 1), (Instr.samoI64 2 3 4, 8, 2)] ∧
    (∀ m ∈ [0, 1, 2], let s := contributing m;
      s.reaches (s.reg 2) 8 true 3 0x1040 ∧ s.feOk 0x1040 ∧ s.cleanAt 0x1040 ∧ s.quiet 0x1040 ∧ s.cur.posted = [] ∧
      s.cur.pend = none ∧ s.writeHeld 0x1040 = false ∧ (s.reg 4).toNat = 3 * 2 ^ 32 + m ∧ m < 2 ^ 32 ∧ m < 3 ∧
      (∀ q ∈ (s.slice (homeOf 0x1040)).seqs, q.fmt = 2 ∧ q.t = 3 ∧ q.x = 1 ∧ q.bad = false)) ∧
    ((contributing 0).slice (homeOf 0x1040)).seqs = [] ∧
    samoRun ((contributing 0).slice (homeOf 0x1040)).reorder 0x1040 0 3 [5] ∧
    samoRun ((contributing 1).slice (homeOf 0x1040)).reorder 0x1040 1 3 [5, 7] ∧
    ((contributing 2).slice (homeOf 0x1040)).reorder = [] := by
  refine ⟨by simp, ?_, rfl, ⟨by decide +kernel, by decide, by decide, by decide +kernel, ?_, by decide +kernel⟩,
    ⟨by decide +kernel, by decide, by decide, by decide +kernel, ?_, by decide +kernel⟩, by decide +kernel⟩
  · unfold State.reaches State.feOk State.cleanAt State.quiet; decide +kernel
  · intro j v h
    simp at h
  · intro j v h
    cases j with
    | zero => cases h; exact ⟨{ pa := 0x1040, n := 2, c := 7 }, by decide +kernel, rfl, rfl, rfl⟩
    | succ j => simp at h
theorem witness_fences : (sup cells []).cur.posted = [] ∧
    (∀ x ∈ (sup cells []).ports, ∀ c ∈ x.2.cmds, c.owner ≠ (sup cells []).issue.k) ∧
    (posting false false).cur.posted ≠ [] ∧ (posting false false).cur.pend = none := by decide +kernel

/-- Slice 0 holds a line of 0x1000, and job 0 knows tensor 5. -/
def lined : State :=
  { sup cells [(1, 5), (2, 0x1000), (3, 0x100)] with
    jobs := [(0, { Job.reset with tensors := [(5, 0)] })],
    slices := [(0, { Slice.reset with lines := [{ addr := 0x1000, job := 0, id := 5, dirty := 1, back := [] }] })] }

theorem witness_caches : (lined.reg 3).toNat ≤ 2 ^ 30 ∧ 0 < (lined.reg 3).toNat ∧ (lined.reg 2).toNat % 65536 + (lined.reg 3).toNat ≤ 65536 ∧
    (lined.reg 2).toNat < 2 ^ 52 ∧ (lined.strandX lined.issue.k).inHeap (lined.reg 2).toNat = true ∧
    0x1000 < ((lined.reg 2).toNat + (lined.strandX lined.issue.k).hoff) % 2 ^ 44 + (lined.reg 3).toNat ∧
    (lined.reg 1).toNat < 2 ^ 16 ∧ lined.reg 1 ≠ 0 ∧ lined.cur.posted = [] ∧
    ((lined.job (lined.strandJob lined.issue.k)).tensors.any fun t => t.1.toNat == (lined.reg 1).toNat) = true ∧
    lined.cur.priv = true ∧ (lined.reg 3).toNat < 1024 ∧ (∀ x ∈ lined.slices, x.2.waits = []) ∧
    (∀ x ∈ lined.strands, x.2.posted = []) ∧ (job work cells []).cur.priv = false ∧ (job work cells []).handler ∧
    (lined.slice 0).waits = [] := by
  unfold State.handler; decide +kernel
/-- Slice 0 holds the line, for a cell of which strand 1 waits there; a merge group covers it or not. -/
def awaited (merging : Bool) : State :=
  { lined with slices := [(0,
    { lined.slice 0 with
      waits := [{ pa := 0x1040, va := 0x1040, who := .strand 1, kind := 0 }],
      merges := if merging then [{ job := 0, group := 1, va := 0x1000, pa := 0x1000, shape := 0, opened := 0, isOpen := true, sent := 0,
                                   cells := [(0, 0x1000)], who := [] }] else [] })] }
theorem witness_evictions : lined.writeHeld 0x1000 = false ∧ (lined.slice 0).lines.any (fun x => x.addr == 0x1000) = true ∧ (∀ b, ((awaited b).slice 0).lines.any (fun x => x.addr == 0x1000) = true ∧ (awaited b).writeHeld 0x1000 = b) ∧
    (awaited false).dv.parktab.toNat % 64 = 0 ∧ (∀ w ∈ ((awaited false).slice 0).waits, w.who = .strand 1) := by decide +kernel
theorem passes_one_page {s : State} {va stop pa : Nat}
    (h : (s.translate (.seq (s.issue.k / 8)) (s.strandJob s.issue.k) (s.strandX s.issue.k) va).1 = .heap pa)
    (hs : stop ≤ (va / 65536 + 1) * 65536) : ∀ n, s.passesPages va stop n
  | 0 => trivial
  | 1 => fun _ _ => by simp only [h]; trivial
  | n + 2 => by
    unfold State.passesPages
    intro _ _
    simp only [h]
    unfold State.passesPages
    intro hlt
    omega
theorem witness_flush : ∀ n, lined.passesPages (lined.reg 2).toNat ((lined.reg 2).toNat + (lined.reg 3).toNat) n := by
  rw [show (lined.reg 2).toNat = 0x1000 by decide +kernel, show (lined.reg 3).toNat = 0x100 by decide +kernel]
  exact passes_one_page (pa := 0x1000) (by decide +kernel) (by norm_num)

/-- BCOPY of two cells or one from 0x1040 on to 0x1080 on, with a mode, the KEEPW bit and the count so far; at its issue, or under
way. -/
def copying (mode keepw idx : Nat) (started : Bool) : State :=
  let s := sup cells [(1, BitVec.ofNat 64 idx), (2, 0x1080), (3, 0x1040), (4, BitVec.ofNat 64 (2 + 2 ^ 24 * mode + 2 ^ 26 * keepw))]
  let p : Pend := { instr := .bcopy 1 2 3 4, hi := none, pa := 0, va := 0, place := .none, stage := 1, value := BitVec.ofNat 64 idx,
                    cmds := [], walks := [(0x1080, 0x1040, 2 + 2 ^ 24 * mode + 2 ^ 26 * keepw)], sends := [], left := [],
                    sum := 0 }
  if started then s.setCur { s.cur with pend := some p } else s

theorem witness_block_copy : (∀ q ∈ [(0, 0), (3, 0), (0, 1)], let s := copying q.1 q.2 0 false; let ctl := 2 + 2 ^ 24 * q.1 + 2 ^ 26 * q.2;
      ctl < 2 ^ 27 ∧ s.cur.priv = true ∧ s.cur.posted = [] ∧ s.cur.pend = none ∧ 0x1080 = (s.reg 2).toNat ∧
      0x1040 = (s.reg 3).toNat ∧ ctl = (s.reg 4).toNat ∧ 0 = (s.reg 1).toNat ∧
      s.reaches (0x1080 + BitVec.ofNat 64 (32 * 0)) 0 true 2 0x1080 ∧
      (s.prep (0x1080 + BitVec.ofNat 64 (32 * 0)) 0 true 2).2.reaches (0x1040 + BitVec.ofNat 64 (32 * 0)) 0 false 1 0x1040 ∧
      s.feOk 0x1080 ∧ s.feOk 0x1040 ∧ s.quiet 0x1080 ∧ s.writeHeld 0x1080 = false ∧ (s.mem.sideAt 0x1040).fe = 2 ∧
      s.quiet 0x1040 ∧ s.writeHeld 0x1040 = false) ∧
    (let s := copying 0 0 1 true;
      (s.cur.pend.map (·.instr)) = some (.bcopy 1 2 3 4) ∧
      (s.cur.pend.map fun p => (p.place, p.stage, p.value.toNat)) = some (.none, 1, 1) ∧
      (s.cur.pend.map (·.walks)) = some [(0x1080, 0x1040, 2)] ∧
      s.reaches (0x1080 + BitVec.ofNat 64 (32 * 1)) 0 true 2 0x10A0 ∧
      (s.prep (0x1080 + BitVec.ofNat 64 (32 * 1)) 0 true 2).2.reaches (0x1040 + BitVec.ofNat 64 (32 * 1)) 0 false 1 0x1060 ∧
      s.feOk 0x10A0 ∧ s.feOk 0x1060 ∧ s.quiet 0x10A0 ∧ s.writeHeld 0x10A0 = false) ∧
    (copying 0 0 2 false).cur.pend = none ∧ ((copying 0 0 2 false).reg 1).toNat = 2 ∧
    ((job work cells [(4, 0x4000001)]).reg 4).toNat / 2 ^ 26 % 2 = 1 ∧ (job work cells [(4, 0x4000001)]).handler := by
  unfold State.reaches State.feOk State.quiet State.handler
  refine ⟨?_, ?_, ?_, ?_, ?_, ?_⟩ <;> decide +kernel
theorem witness_waiting : let i := Instr.ldW 3 1 2 0
    (∀ p ∈ [Place.none, .woken none, .unlisted 4488], ∃ x, ((inFlight (sup cells []) i 0 0 p .waiting).strand 519).pend = some x ∧
      x.instr = i ∧ x.place = p) ∧ decodeWord (encode i).head! = .ok i ∧
    ((inFlight (sup cells []) i 0 0 .none .waiting).strand 519).mode = .waiting ∧
    ((inFlight (sup cells []) i 0 0 (.woken none) .parked).strand 519).mode = .parked ∧
    4488 + 512 ≤ (sup cells []).fc ∧ decodeWord (encode (.samoF64 1 2 3)).head! = .ok (.samoF64 1 2 3) := by
  refine ⟨fun p hp => ⟨_, rfl, rfl, rfl⟩, ?_⟩
  decide +kernel

/-! ### Element slots (07, 08, 20) -/

/-- A slot word's fields with the given destination and sources. -/
def slot (d a b : Nat) : Slot :=
  { trig := 0, dst := BitVec.ofNat 5 d, srcA := BitVec.ofNat 5 a, srcB := BitVec.ofNat 5 b, deqA := false, deqB := false,
    bit0 := false }

/-- An element with a plane, whose first registers hold the data and tags of the list, and whose pointer 1 stands at 0x40. -/
def holding (l : List (Nat × Nat)) : Element :=
  { Element.reset with
    v := l.zipIdx.foldl (fun v x => vset v x.2 { data := BitVec.ofNat 512 x.1.1, tag := BitVec.ofNat 4 x.1.2 }) Element.reset.v,
    lp := vset Element.reset.lp 1 0x200040,
    plane := some { ver := 1, valid := 0xFFFFFFFF, initQ := 5, done := 3, bank := 0, slots := [], trigs := List.replicate 64 0,
                    preloads := [] } }

/-- Element 0 of job 1's launch fires slot 3. -/
def elt (x : Element) : State :=
  { job work heap [] with elements := [(0, x)], firing := { e := 0, slot := 3, bank := 0, before := x } }

/-- The registers 0 to 3 hold data of one tag, 4 to 7 two lines of tag 11, one of tag 8 and one of tag 9. -/
def four (t : Nat) : State :=
  elt (holding [(0x3F8000003FC000004000000040400000, t), (0xBF80000040000000, t), (0x40A00000, t), (7, t), (3, 11), (1, 11),
                (5, 8), (0x7F, 9)])

theorem reads_register (s : State) (sel : Sel) (pres t : Nat) (d : Line) (h : sel.toNat < 8)
    (hv : vget s.firing.before.v (8 * s.firing.bank.toNat + sel.toNat) { data := 0, tag := 0 } =
      { data := d, tag := BitVec.ofNat 4 t } ∧ t < 16) : s.reads sel pres d t := by
  unfold State.reads
  simpa [h] using hv
theorem reads_zero (s : State) (pres : Nat) : s.reads 29 pres 0 pres := by
  unfold State.reads
  simp

/-- Source a of `four`. -/
def da : Line := 0x3F8000003FC000004000000040400000
/-- Source b of `four`. -/
def db : Line := 0xBF80000040000000

theorem four_a (t : Nat) (h : t < 16) (h1 : (vget (four t).firing.before.v 0 { data := 0, tag := 0 }) =
    { data := da, tag := BitVec.ofNat 4 t } := by rfl) (pres : Nat) : (four t).reads 0 pres da t :=
  reads_register _ _ _ _ _ (by decide) ⟨h1, h⟩
theorem four_b (t : Nat) (h : t < 16) (pres : Nat) : (four t).reads 1 pres db t :=
  reads_register _ _ _ _ _ (by decide) ⟨rfl, h⟩
theorem four_d (t : Nat) (h : t < 16) (pres : Nat) : (four t).reads 2 pres 0x40A00000 t :=
  reads_register _ _ _ _ _ (by decide) ⟨rfl, h⟩
theorem elt_owner (x : Element) : (elt x).ownerOf 0 = some work := by
  have h : (job work heap []).ownerOf 0 = some work := by decide +kernel
  exact h
theorem elt_fires (x : Element) (y : Slot) (h : y.dst.isLp = false) : (elt x).mayFire work y := by
  refine ⟨?_, fun hl => by rw [h] at hl; cases hl⟩
  have h0 : (elt x).firing.e / 12 = 0 := by simp [elt]
  rw [h0]
  exact elt_owner x
theorem four_fires (t : Nat) : (four t).mayFire work (slot 2 0 1) := elt_fires _ _ rfl

theorem witness_lane_results :
    ((laneRow (.fdiv false (slot 2 0 1))).map fun r => (r.1, r.2.1)) = some (slot 2 0 1, 2) ∧
    ((laneRow1 (.vabs 7 (slot 2 0 1))).map fun r => (r.1, r.2.1)) = some (slot 2 0 1, 12) ∧ (four 2).mayFire work (slot 2 0 1) ∧
    (four 2).reads 0 2 da 2 ∧ (four 2).reads 1 2 db 2 ∧ (four 12).mayFire work (slot 2 0 1) ∧ (four 12).reads 0 12 da 12 :=
  ⟨rfl, rfl, four_fires 2, four_a 2 (by decide) rfl 2, four_b 2 (by decide) 2, four_fires 12, four_a 12 (by decide) rfl 12⟩
theorem witness_fused_and_scaled : tagFloat (rowTag 1) = some .f32 ∧ (slot 2 0 1).dst.isV = true ∧ (four 2).mayFire work (slot 2 0 1) ∧
    (four 2).reads 0 2 da 2 ∧ (four 2).reads 1 2 db 2 ∧ (four 2).reads 2 2 0x40A00000 2 ∧ (four 2).mayFire work (slot 2 0 4) ∧
    (four 2).reads 4 11 3 11 :=
  ⟨rfl, rfl, four_fires 2, four_a 2 (by decide) rfl 2, four_b 2 (by decide) 2, four_d 2 (by decide) 2, elt_fires _ _ rfl,
   reads_register _ _ _ _ _ (by decide) ⟨rfl, by decide⟩⟩
theorem witness_reductions_and_shifts :
    ((reduceRow (.rmaxabs 5 (slot 2 0 1))).map fun r => (r.1, r.2.1)) = some (slot 2 0 1, 10) ∧
    ((shiftRow (.vsar (slot 2 0 1))).map (·.1)) = some (slot 2 0 1) ∧ (four 10).mayFire work (slot 2 0 1) ∧
    (four 10).reads 0 10 da 10 ∧ (four 10).reads 1 10 db 10 ∧ (four 8).mayFire work (slot 2 0 1) ∧ (four 8).reads 0 0 da 8 ∧
    (four 12).mayFire work (slot 2 0 1) ∧ (four 12).reads 0 0 da 12 ∧ (four 12).reads 1 12 db 12 :=
  ⟨rfl, rfl, four_fires 10, four_a 10 (by decide) rfl 10, four_b 10 (by decide) 10, four_fires 8, four_a 8 (by decide) rfl 0,
   four_fires 12, four_a 12 (by decide) rfl 0, four_b 12 (by decide) 12⟩
theorem witness_conversions : (slot 2 0 1).code.toNat ≤ 12 ∧ (four 1).mayFire work (slot 2 0 1) ∧ (four 1).reads 0 1 da 1 ∧
    (four 12).mayFire work (slot 2 0 1) ∧ (four 12).reads 0 0 da 12 ∧ (four 0).mayFire work (slot 2 0 1) ∧ (four 0).reads 0 2 da 0 ∧
    (four 4).mayFire work (slot 2 0 7) ∧ (four 4).reads 0 0 da 4 ∧ (four 4).reads 7 9 0x7F 9 ∧ cut 8 0x7F 0 ≠ 255 :=
  ⟨by decide, four_fires 1, four_a 1 (by decide) rfl 1, four_fires 12, four_a 12 (by decide) rfl 0, four_fires 0,
   four_a 0 (by decide) rfl 2, elt_fires _ _ rfl, four_a 4 (by decide) rfl 0, reads_register _ _ _ _ _ (by decide) ⟨rfl, by decide⟩,
   by decide +kernel⟩
theorem witness_moves_and_predicates : (four 12).mayFire work (slot 2 0 1) ∧ (four 12).reads 0 0 da 12 ∧ (four 0).reads 4 11 3 11 ∧
    (four 0).reads 6 8 5 8 ∧ (four 0).reads 0 0 da 0 ∧ (four 2).reads 1 0 db 2 ∧
    ((compareRow (.pcmple (slot 2 0 1))).map (·.1)) = some (slot 2 0 1) ∧ (four 1).mayFire work (slot 2 0 1) ∧
    (four 1).reads 0 0 da 1 ∧ (four 1).reads 1 1 db 1 :=
  ⟨four_fires 12, four_a 12 (by decide) rfl 0, reads_register _ _ _ _ _ (by decide) ⟨rfl, by decide⟩,
   reads_register _ _ _ _ _ (by decide) ⟨rfl, by decide⟩, four_a 0 (by decide) rfl 0, four_b 2 (by decide) 0, rfl, four_fires 1,
   four_a 1 (by decide) rfl 0, four_b 1 (by decide) 1⟩
theorem reads_local (s : State) (sel : Sel) (pres : Nat) (d : Line) (h : 24 ≤ sel.toNat ∧ sel.toNat < 28)
    (hr : let x := s.firing.before
      let a := lpAddr (x.ptr s.firing.bank (sel.toNat - 24))
      a % 32 = 0 ∧ a + 64 ≤ 49152 ∧ d = (x.lmem.cell (a + 32)).data ++ (x.lmem.cell a).data ∧
        codesFit d (x.lmem.cell a).code (x.lmem.cell (a + 32)).code) : s.reads sel pres d pres := by
  unfold State.reads
  rw [if_neg (by omega), if_neg (by omega), if_pos h]
  exact ⟨rfl, hr⟩
theorem witness_local_memory : (four 2).mayFire work (slot 2 25 0) ∧ (four 2).reads 25 9 0 9 ∧ (four 2).mayFire work (slot 25 0 0) ∧
    (four 2).reads 0 0 da 2 ∧ (lpStride ((four 2).firing.before.ptr (four 2).firing.bank 1)).toNat % 32 = 0 := by
  refine ⟨elt_fires _ _ rfl, reads_local _ _ _ _ (by decide) ?_, ?_, four_a 2 (by decide) rfl 0, by decide +kernel⟩
  · unfold codesFit; decide +kernel
  · unfold State.mayFire; decide +kernel
theorem witness_element_faults : work.halted = false ∧ work.window = none ∧ (∀ k ∈ work.strands, ((four 2).strand k).pend = none) ∧
    (∀ p ∈ (four 2).ports, work.holds (p.1 / 3) = true → p.2.cmds = []) ∧ (four 2).ownerOf ((four 2).firing.e / 12) = some work ∧
    ((elt { holding [] with late := some { word := 5 } }).element 0).late = some { word := 5 } := by decide +kernel

/-- An event packet of group 0 that names lanes 0, 1 and 63, with its CRC. -/
def event : BitVec 128 := (0x80000000000000030000000000000000 : BitVec 128) ||| (packetCrc 0x80000000000000030000000000000000).zeroExtend 128
/-- Registers: an event, weights 1.5 in lane 0 and quarter 0, an accumulator. -/
def eventing : State := elt (holding [(event.toNat, 13), (0x3FC00000, 2), (0x3F80000040000000, 2)])
theorem witness_event_arithmetic : packetOk ((event.zeroExtend 512 : Line).extractLsb' 0 128) = true ∧
    eventing.mayFire work (slot 2 0 1) ∧ eventing.reads 0 0 (event.zeroExtend 512) 13 ∧ eventing.reads 1 2 0x3FC00000 2 ∧
    eventing.reads 2 2 0x3F80000040000000 2 ∧ ∃ cols : Nat → Line, ∀ i, i < 16 →
      cols i = (eventing.firing.before.lmem.cell (64 * i + 32)).data ++ (eventing.firing.before.lmem.cell (64 * i)).data ∧
      codesFit (cols i) (eventing.firing.before.lmem.cell (64 * i)).code (eventing.firing.before.lmem.cell (64 * i + 32)).code :=
  ⟨by decide +kernel, elt_fires _ _ rfl, reads_register _ _ _ _ _ (by decide) ⟨by decide +kernel, by decide⟩,
   reads_register _ _ _ _ _ (by decide) ⟨rfl, by decide⟩, reads_register _ _ _ _ _ (by decide) ⟨rfl, by decide⟩,
   fun i => (eventing.firing.before.lmem.cell (64 * i + 32)).data ++ (eventing.firing.before.lmem.cell (64 * i)).data,
   fun i hi => ⟨rfl, by
    revert i
    unfold codesFit
    decide +kernel⟩⟩

/-- An array configured for a pair of formats, its accumulator 0 in use. -/
def arrayed (fa fb : BitVec 4) (half : Bool) : Arr :=
  { Arr.install with cfg := true, aFmt := fa, bFmt := fb, half := half, hA := 0x3C00, hB := 0x3C00,
                     acc0 := { Acc.install with inUse := true } }
/-- The element whose registers hold data of three tags, with an array. -/
def matrix (m : Arr) (ta tb : Nat) : State :=
  elt { holding [(0x3C00, ta), (0x3C00, tb), (0x800605, 9), (0x800804, 9)] with arr := m }
theorem witness_matrix_array :
    (∀ x, x.dst.isLp = false → (matrix Arr.install 5 6).mayFire work x) ∧ (matrix Arr.install 5 6).reads 2 9 0x800605 9 ∧
    (0x800605 : Line).toNat = 5 + 256 * 6 + 65536 * 128 ∧
    ((matrix (arrayed 5 6 false) 5 6).arr.acc false).inUse = true ∧ matClass 5 6 ≠ 3 ∧
    (matrix (arrayed 5 6 false) 5 6).reads 0 5 0x3C00 5 ∧ (matrix (arrayed 5 6 false) 5 6).reads 1 6 0x3C00 6 ∧ matClass 3 4 = 3 ∧
    (matrix (arrayed 3 4 true) 3 4).arr.half = true ∧ (matrix (arrayed 3 4 true) 3 4).reads 0 3 0x3C00 3 ∧
    (matrix (arrayed 3 4 true) 3 4).reads 1 4 0x3C00 4 ∧ (matrix (arrayed 8 8 false) 2 8).reads 0 2 0x3C00 2 ∧
    (matrix (arrayed 8 8 false) 2 8).arr.half = false :=
  ⟨fun x h => elt_fires _ x h, reads_register _ _ _ _ _ (by decide) ⟨rfl, by decide⟩, by decide +kernel, by decide +kernel, by decide,
   reads_register _ _ _ _ _ (by decide) ⟨rfl, by decide⟩, reads_register _ _ _ _ _ (by decide) ⟨rfl, by decide⟩, by decide,
   by decide +kernel, reads_register _ _ _ _ _ (by decide) ⟨rfl, by decide⟩, reads_register _ _ _ _ _ (by decide) ⟨rfl, by decide⟩,
   reads_register _ _ _ _ _ (by decide) ⟨rfl, by decide⟩, by decide +kernel⟩

/-- The launch with a route from port 7 of element 0 to port 7 of element 1, and one back. -/
def forth : Launch := { work with routes := [0x0000700017000000, 0x0001700007000000] }
/-- Two elements; element 0 holds one token in output 7, has lost 64 cycles with slot 31, and has one on the wire of input 7. -/
def pair : State :=
  { job forth heap [] with
    elements := [(0, { ((holding []).setOut 7 [makeToken da 2 0 1]).setInp 7 { wire := [makeToken db 2 0 1], buf := [], part := [] }
                         with lifting := 0x80000000 }), (1, holding [])] }
/-- Element 0 with a standby plane of version 2, and the switch token of that version at its one routed input. -/
def flipping : State :=
  { job forth heap [] with
    elements := [(0, { (holding []).setInp 7 { wire := [], buf := [switchToken 2], part := [] } with
                         standby := some { ver := 2, valid := 1, initQ := 9, done := 0, bank := 2, slots := [], trigs := [],
                                           preloads := [] } })] }
/-- Element 0 with its done predicate set. -/
def finishing : State := { job work heap [] with elements := [(0, { holding [] with q := Vector.replicate 4 0xFFFF })] }

theorem witness_element_events : (pair.element 0).lifting.getLsbD 31 = true ∧ pair.liveAt 0 = some forth ∧
    ((pair.element 0).inp 7).wire = [makeToken db 2 0 1] ∧ (pair.element 0).complete = false ∧
    (∀ r, forth.inRoute 0 7 = some r → routeMode r ≠ 2 ∧ routeMode r ≠ 3) ∧ (pair.element 0).out 7 = [makeToken da 2 0 1] ∧
    forth.outFork 0 7 = [0x0000700017000000] ∧ routeMode 0x0000700017000000 = 0 ∧
    forth.unit? (routeDst 0x0000700017000000).1 = some (.element 1) ∧ (routeDst 0x0000700017000000).2 = 7 ∧
    pair.inputRoom 1 7 = true ∧ flipping.liveAt 0 = some forth ∧ flipping.flipDue forth 0 = true ∧
    (flipping.element 0).standby.map (·.ver) = some 2 ∧ (∃ vs, flipping.switchHeads forth 0 = some vs ∧ ∀ v ∈ vs, v = 2) ∧
    (∀ ch, ch < 8 → forth.isDelay 0 ch = false ∧ ∀ r ∈ forth.outFork 0 ch, routeMode r ≠ 1) ∧
    finishing.liveAt 0 = some work ∧ finishing.completeDue work 0 = true := by
  have h : forth.inRoute 0 7 = some 0x0001700007000000 := by decide +kernel
  have h2 : flipping.switchHeads forth 0 = some [2] := by decide +kernel
  have h3 : (List.range 8).all (fun ch => !forth.isDelay 0 ch) = true := by decide +kernel
  have h4 : ∀ r ∈ forth.routes, routeMode r ≠ 1 := by
    intro r hr
    obtain rfl | rfl : r = 0x0000700017000000 ∨ r = 0x0001700007000000 := by simpa [forth] using hr
    · decide
    · decide
  refine ⟨by decide +kernel, by decide +kernel, by decide +kernel, by decide +kernel, fun r hr => ?_, by decide +kernel,
    by decide +kernel, by decide, by decide +kernel, by decide, by decide +kernel, by decide +kernel, by decide +kernel,
    by decide +kernel, ⟨[2], h2, by decide⟩,
    fun ch hc => ⟨by
      have h5 : (!forth.isDelay 0 ch) = true := List.all_eq_true.1 h3 ch (List.mem_range.2 hc)
      rwa [Bool.not_eq_true'] at h5, fun r hr => h4 r (List.mem_filter.1 hr).1⟩, by decide +kernel, by decide +kernel⟩
  rw [h] at hr
  cases hr
  decide

/-- 03 R49: 1.5 + 1.5 in FP32, and 2^24 + 1 is a tie to even. -/
theorem test_vadd : ((vget ((after (.vadd 1 (slot 2 0 1)) (elt (holding [(0x4B8000003FC00000, 2), (0x3F8000003FC00000, 2)]))).element 0).v 2
    { data := 0, tag := 0 }).data) = 0x4B80000040400000 := by decide +kernel
/-- 08 R129: INT8 100 + 100 saturates to 127 with bit 0, and wraps without it. -/
theorem test_vadd_saturates :
    ((vget ((after (.vadd 4 { slot 2 0 1 with bit0 := true }) (elt (holding [(100, 8), (100, 8)]))).element 0).v 2 { data := 0, tag := 0 }).data) = 127 ∧
    ((vget ((after (.vadd 4 (slot 2 0 1)) (elt (holding [(100, 8), (100, 8)]))).element 0).v 2 { data := 0, tag := 0 }).data) = 200 := by
  decide +kernel
/-- A tag that is not the row's is the fault 0x01, and the element stops (03 R43). -/
theorem test_wrong_tag : ((after (.vadd 1 (slot 2 0 1)) (four 8)).element 0).stopped = true := by decide +kernel
/-- 1/3 in FP32. -/
theorem test_fdiv : ((vget ((after (.fdiv false (slot 2 0 1)) (elt (holding [(0x3F800000, 2), (0x40400000, 2)]))).element 0).v 2
    { data := 0, tag := 0 }).data.extractLsb' 0 32) = 0x3EAAAAAB := by decide +kernel
/-- CVT of FP32 1.00390625 to BF16 is a tie to even (03 R49): 0x3F80. -/
theorem test_cvt : ((vget ((after (.cvt 0 (slot 2 0 6)) (elt (holding [(0x3F808000, 2)]))).element 0).v 2 { data := 0, tag := 0 }).data.extractLsb' 0 16) = 0x3F80 := by
  decide +kernel
theorem test_pcmplt : (vget ((after (.pcmplt (slot 9 0 1)) (elt (holding [(0, 12), (0, 12)]))).element 0).q 0 0).getLsbD 9 = false := by decide +kernel
/-- STL writes 64 bytes at the pointer, which then stands a stride on (08 R124). -/
theorem test_stl : ((after (.stl (slot 25 0 0)) (four 2)).element 0).lmem.byte 0x43 = 0x40 ∧
    ((after (.stl (slot 25 0 0)) (four 2)).element 0).ptr 0 1 = 0x200060 := by decide +kernel

/-! ### Commands of a region (09) -/

/-- Memory with an image of one opcode section, for element 0, all zero, with the given flags. -/
def imaged (flags : Nat) : Memory :=
  put (put heap 0x1100 (0xEF000001 + 2 ^ 32 * 23 + 2 ^ 64 * flags + 2 ^ 96 * 0x101 + 2 ^ 128) 2) 0x1120 (2 + 2 ^ 32 * 21) 2
/-- The strand of job 1 with an image at g1, element 0 of the resident configuration complete. -/
def loading (flags : Nat) : State :=
  { job work (imaged flags) [(1, 0x1100)] with elements := [(0, { Element.reset with complete := true })] }
/-- The image at g1 passes its checks with STANDBY as said, and one that is not STANDBY passes them when it is read again. -/
def imagePasses (s : State) (l : Launch) (standby : Bool) : Bool :=
  match (s.capture (.confLoad 1) l).readImage (s.reg 1) with
  | (some g, s1) =>
    match s1.checkImage l g with
    | .ok st => st.standby == standby && st.planes.length == 1 && (standby ||
        (match (s1.countImage g (.ok st)).readImage (s.reg 1) with
        | (some g3, s3) => (s3.checkImage l g3).toOption.isSome
        | _ => false))
    | .error _ => false
  | _ => false
theorem image_passes {s : State} {l : Launch} {b : Bool} (h : imagePasses s l b = true) :
    ∃ g s1 st, (s.capture (.confLoad 1) l).readImage (s.reg 1) = (some g, s1) ∧ s1.checkImage l g = .ok st ∧ st.standby = b ∧
      (∃ q, st.planes = [q]) ∧ (b = false → ∃ g3 s3 st3, (s1.countImage g (.ok st)).readImage (s.reg 1) = (some g3, s3) ∧
        s3.checkImage l g3 = .ok st3) := by
  unfold imagePasses at h
  split at h
  · rename_i g s1 hg
    split at h
    · rename_i st hst
      simp only [Bool.and_eq_true, beq_iff_eq, Bool.or_eq_true] at h
      refine ⟨g, s1, st, hg, hst, h.1.1, List.length_eq_one_iff.1 h.1.2, fun hb => ?_⟩
      rcases h.2 with h2 | h2
      · rw [hb] at h2; cases h2
      · split at h2
        · rename_i g3 s3 hg3
          cases hst3 : s3.checkImage l g3 with
          | error e => rw [hst3] at h2; cases h2
          | ok st3 => exact ⟨g3, s3, st3, hg3, hst3⟩
        · cases h2
    · cases h
  · cases h
/-- CONF.SWITCH of version 1 waits at its second stage; both elements hold that version. -/
def switching : State :=
  let p : Pend := { instr := .confSwitch 1, hi := none, pa := 0, va := 0, place := .none, stage := 2, value := 1, cmds := [],
                    walks := [], sends := [], left := [], sum := 0 }
  { pair.setCur { pair.cur with g := regs [(1, 1)], pend := some p } with
    elements := [(0, { pair.element 0 with flipped := true }), (1, { pair.element 1 with complete := true })] }

theorem witness_configuration : (loading 0x213).commands work ∧ ((loading 0x213).reg 1).toNat % 32 = 0 ∧
    (∃ g s1 st, ((loading 0x213).capture (.confLoad 1) work).readImage ((loading 0x213).reg 1) = (some g, s1) ∧
      s1.checkImage work g = .ok st ∧ st.standby = true ∧ ∃ q, st.planes = [q]) ∧
    (loading 0x311).commands work ∧ (loading 0x311).cur.pend = none ∧ (loading 0x311).still work ∧
    (loading 0x311).allDone work = true ∧
    (∃ g s1 st, ((loading 0x311).capture (.confLoad 1) work).readImage ((loading 0x311).reg 1) = (some g, s1) ∧
      s1.checkImage work g = .ok st ∧ st.standby = false ∧ (∃ q, st.planes = [q]) ∧ ∃ g3 s3 st3,
        (s1.countImage g (.ok st)).readImage ((loading 0x311).reg 1) = (some g3, s3) ∧ s3.checkImage work g3 = .ok st3) ∧
    ((job forth heap [(1, 2)]).mayAct forth ∧ forth.window = none ∧ ((job forth heap [(1, 2)]).reg 1).toNat = 2 ∧
      (job forth heap [(1, 2)]).cur.pend = none ∧ (job forth heap [(1, 2)]).still forth) ∧
    (switching.mayAct forth ∧ (switching.reg 1).toNat = 1 ∧ (switching.cur.pend.map (·.stage)) = some 2 ∧
      switching.switched forth = true) ∧
    work.haltDue = false ∧ (loading 0).anyFaulted work = false ∧
    ({ loading 0 with elements := [(0, { Element.reset with faulted := true })] }).anyFaulted { work with named := [0] } = true := by
  unfold State.commands State.acts State.mayAct State.still
  obtain ⟨g, s1, st, h1, h2, h3, h4, -⟩ := image_passes (s := loading 0x213) (l := work) (b := true) (by decide +kernel)
  obtain ⟨g', s1', st', h1', h2', h3', h4', h5'⟩ := image_passes (s := loading 0x311) (l := work) (b := false) (by decide +kernel)
  exact ⟨by decide +kernel, by decide +kernel, ⟨g, s1, st, h1, h2, h3, h4⟩, by decide +kernel, by decide +kernel, by decide +kernel,
    by decide +kernel, ⟨g', s1', st', h1', h2', h3', h4', h5' rfl⟩, by decide +kernel, by decide +kernel, by decide +kernel,
    by decide +kernel, by decide +kernel⟩

/-- A launch with routes from generator 0 of tile 0 to element 0, from port 0 to generator 3, and from element 0 to
generator 2. -/
def stream : Launch := { work with routes := [0x0020000000000000, 0x0040000203000000, 0x0000100202000000] }
/-- A pattern of two transfers from 0x40, reading with tag 2 or writing. -/
def pat (write : Bool) : Nat :=
  0x40 + 2 ^ 32 * (if write then 1 else 0x20) + 2 ^ 64 * 2 + 2 ^ 80 + 2 ^ 96 + 2 ^ 112 + 2 ^ 128 * 64
/-- A copy record of rows of one cell between 0x1040 and 0x100 of tile 0, with flags, FE mode, ROWS and more fields. -/
def copyRec (flags fe rows more : Nat) : Nat :=
  0x1040 + 2 ^ 64 * 0x100 + 2 ^ 96 * 0x20 + 2 ^ 112 * flags + 2 ^ 120 * fe + 2 ^ 128 * rows + 2 ^ 160 * 32 + 2 ^ 192 * 32 +
    2 ^ 224 * 32 + more
/-- The strand of job 1 with a record of two cells at 0x1100. -/
def recorded (n : Nat) (g : List (Nat × Word64)) : State :=
  job stream (put (put (put heap 0x1040 0x77 2) 0x1100 (n % 2 ^ 256) 2) 0x1120 (n / 2 ^ 256) 2) g
/-- The state after the strand has read the cell at an address of its heap. -/
def readOne (s : State) (a : Word64) : State := (s.prep a 0 false 1).2.cacheRead s.issue.k a.toNat a.toNat
theorem reads_cells {s t : State} {a : Word64} {d : CellData} {ds : List CellData}
    (h : s.reaches a 0 false 1 a.toNat ∧ s.feOk a.toNat ∧ s.cleanAt a.toNat ∧ s.hasRoom a.toNat ∧ (s.mem.cell a.toNat).data = d)
    (h2 : (readOne s a).readsCells (a + 32) ds t) : s.readsCells a (d :: ds) t :=
  ⟨a.toNat, h.1, h.2.1, h.2.2.1, h.2.2.2.1, h.2.2.2.2, h2⟩

/-- A descriptor of tensor 5: 16 FP32 lanes at 0x1800. -/
def tensor5 : Nat := 0x1800 + 2 ^ 64 * 5 + 2 ^ 80 * 2 + 2 ^ 88 + 2 ^ 96 * 16 + 2 ^ 128 + 2 ^ 160 + 2 ^ 192

theorem witness_stream_commands_sbind : let s := recorded (pat false) [(1, 0), (2, 0x1100)]
    s.commands stream ∧ (s.reg 2).toNat % 32 = 0 ∧ stream.genOf (s.reg 1).toNat = some (0, 0) ∧
    s.readsCells (s.reg 2) [BitVec.ofNat 256 (pat false)] (readOne s 0x1100) ∧
    patBad stream (s.tile 0) 0 0 (BitVec.ofNat 256 (pat false)) = none ∧ ((s.tile 0).gen 0).walk = none := by
  intro s
  refine ⟨by unfold State.commands State.acts State.mayAct; decide +kernel, by decide +kernel, by decide +kernel, ?_, by decide +kernel, by decide +kernel⟩
  have h : s.reg 2 = 0x1100 := by decide +kernel
  rw [h]
  exact reads_cells (by unfold State.reaches State.feOk State.cleanAt State.hasRoom; decide +kernel) rfl
theorem witness_stream_commands_copies (mc : Bool) : let r := copyRec 0 0 1 (if mc then 2 ^ 320 * 7 else 0)
    let s := recorded r [(1, 0), (2, 0x1100), (3, 1)]
    s.commands stream ∧ stream.portOf (s.reg 1).toNat = some 0 ∧
    s.readsCells (s.reg 2) [BitVec.ofNat 256 r, BitVec.ofNat 256 (r / 2 ^ 256)] (readOne (readOne s 0x1100) 0x1120) ∧
    (readOne (readOne s 0x1100) 0x1120).copyBad stream 0 mc (if mc then (s.reg 3).toNat else 0) (BitVec.ofNat 512 (cellsNat
      [BitVec.ofNat 256 r, BitVec.ofNat 256 (r / 2 ^ 256)])) = none ∧ (s.port 0).queued < 16 := by
  intro r s
  cases mc <;>
  · refine ⟨by unfold State.commands State.acts State.mayAct; decide +kernel, by decide +kernel, ?_, by decide +kernel, by decide +kernel⟩
    have h : s.reg 2 = 0x1100 := by decide +kernel
    rw [h]
    exact reads_cells (by unfold State.reaches State.feOk State.cleanAt State.hasRoom; decide +kernel)
      (reads_cells (by unfold State.reaches State.feOk State.cleanAt State.hasRoom; decide +kernel) rfl)
theorem witness_stream_commands_tables :
    let s := recorded (2 + 2 ^ 256) [(1, 0x20), (2, 0x1100)]
    let q := recorded tensor5 [(1, 0x1100)]
    s.commands stream ∧ stream.own (s.reg 1).toNat = some (.tile 0) ∧ (s.reg 1).toNat < 2 ^ 16 ∧ (∀ g, g < 4 → ((s.tile 0).gen g).walk = none) ∧
    s.readsCells (s.reg 2) [2] (readOne s 0x1100) ∧ (readOne s 0x1100).readsCells (s.reg 2 + 32) [1] (readOne (readOne s 0x1100) 0x1120) ∧
    permBad (cellsNat [1]) 2 = none ∧ q.acts stream ∧
    q.readsCells (q.reg 1) [BitVec.ofNat 256 tensor5, 0] (readOne (readOne q 0x1100) 0x1120) ∧
    enterTensor (q.job 1).tensors ((readOne (readOne q 0x1100) 0x1120).busyTensors 1) (BitVec.ofNat 512 (cellsNat
      [BitVec.ofNat 256 tensor5, 0])) = .ok [(5, BitVec.ofNat 512 tensor5)] := by
  intro s q
  have h : s.reg 2 = 0x1100 := by decide +kernel
  have h2 : q.reg 1 = 0x1100 := by decide +kernel
  rw [h, h2]
  exact ⟨by unfold State.commands State.acts State.mayAct; decide +kernel, by decide +kernel, by decide +kernel, by decide +kernel,
    reads_cells (by unfold State.reaches State.feOk State.cleanAt State.hasRoom; decide +kernel) rfl,
    reads_cells (by unfold State.reaches State.feOk State.cleanAt State.hasRoom; decide +kernel) rfl, by decide +kernel,
    by unfold State.acts State.mayAct; decide +kernel,
    reads_cells (by unfold State.reaches State.feOk State.cleanAt State.hasRoom; decide +kernel)
      (reads_cells (by unfold State.reaches State.feOk State.cleanAt State.hasRoom; decide +kernel) rfl), by decide +kernel⟩

/-! ### Watch groups (11, 12) -/

/-- A watched tensor 5 of 16 lanes: B 1, K 2, weights 4 and −4, ROUNDS 2, STRETCH 1. -/
def watched : Line := BitVec.ofNat 512 (tensor5 + 2 ^ 224 + 2 ^ 272 + 2 ^ 280 * 2 + 2 ^ 288 * 4 + 2 ^ 304 * 0xFFFC + 2 ^ 416 * 2 + 2 ^ 424)
/-- Group 3 of two members, tiles 0 and 1, with a decoder at port 7 of element 0. -/
def group3 : Group :=
  { checkDecs.emptyGroup with num := 3, tensor := 5, k := 2, members := [0x20, 0x21],
                              decs := [{ unit := 0, port := 7, tile := false, bank := 0, off := 0, due := [] }], desc := watched }
/-- The launch with the group as given. -/
def withGroup (y : Group) : Launch := { work with groups := [y], slotLen := 10 }
/-- A member's entry as WOPEN leaves it, with masks. -/
def member (rank : Nat) : WEntry := { openEntry watched (placedEntry 3 2 0 rank 16) with masks := [1, 2] }
/-- The launch's strand, with the group and its two members. -/
def watchingOf (l : Launch) (m : Nat → WEntry) : State :=
  { job l (put heap 0x1800 0x3F800000 2) [(1, 3)] with
    jobs := [(1, { Job.reset with running := some 0x1F00, tensors := [(5, watched)] })],
    tiles := [(0, { Tile.reset with watch := [(0, m 0)] }), (1, { Tile.reset with watch := [(0, m 1)] })] }
def watching (y : Group) : State := watchingOf (withGroup y) (if y.everOpen then member else fun r => placedEntry 3 2 0 r 16)
/-- The strand has an instruction at stage 1, with what it waits for. -/
def atStage1 (s : State) (i : Instr) (left : List (BitVec 14)) : State :=
  let p : Pend := { instr := i, hi := none, pa := 0, va := 0, place := .none, stage := 1, value := 0, cmds := [], walks := [],
                    sends := [], left := left, sum := 6 }
  s.setCur { s.cur with pend := some p }
/-- The group opened and idle. -/
def opened3 : Group := { group3 with everOpen := true }

theorem witness_watch_commands :
    (let s := watching group3;
      s.mayAct (withGroup group3) ∧ (withGroup group3).window = none ∧
      (withGroup group3).range (s.reg 1).toNat false = some [group3] ∧ s.closing (withGroup group3) group3 = false ∧
      s.openBad (withGroup group3) group3 = none ∧ (s.job 1).tensors.find? (fun t => t.1 == group3.tensor) = some (5, watched) ∧
      (withGroup group3).range 3 true = some [group3]) ∧
    (let s := watching opened3;
      s.commands (withGroup opened3) ∧ s.cur.pend = none ∧ (withGroup opened3).range (s.reg 1).toNat false = some [opened3] ∧
      s.stepBad (withGroup opened3) opened3 = none ∧ opened3.blockCells = (0x1800, 2) ∧
      (∀ m ∈ s.presentMembers (withGroup opened3) opened3, (s.counts 1 m).1.isSome = true) ∧
      s.opened (withGroup opened3) opened3 = true ∧ opened3.phase = .idle ∧ opened3.members.length ≤ opened3.k ∧
      ∃ d ∈ opened3.decs, d.tile = false) ∧
    (∀ n ∈ [[], [3]], ((atStage1 (watching opened3) (.wstep 2 1) n).cur.pend.map fun p => (p.stage, p.left)) = some (1, n)) ∧
    (let s := atStage1 (watching group3) (.wclose 1) [3];
      s.mayAct (withGroup group3) ∧ (withGroup group3).groupNo 3 = some group3 ∧ s.closeOver (withGroup group3) group3 = true) := by
  unfold State.commands State.acts State.mayAct
  decide +kernel
theorem witness_watch_block : (watching opened3).readsBlock 0x1800
    [(watching opened3).mem.cell 0x1800, (watching opened3).mem.cell 0x1820] := by
  unfold State.readsBlock State.readsBlock State.readsBlock State.reaches State.feOk
  exact ⟨0x1800, by decide +kernel, by decide +kernel, .inr (.inr rfl), rfl, 0x1820, by decide +kernel, by decide +kernel,
    .inr (.inr rfl), by decide +kernel, trivial⟩

/-- The group in a round or between rounds. -/
def round (phase : GPhase) (t0 sub rounds : Nat) (flight : List (Nat × BitVec 128)) (due : List (Option Event)) : Group :=
  { group3 with phase := phase, t0 := t0, sub := sub, rounds := rounds, flight := flight, everOpen := true,
                decs := [{ unit := 0, port := 7, tile := false, bank := 0, off := 0, due := due }] }
/-- Events due to a decoder: the first of member 0, and one of another group. -/
def heard (ok : Bool) : Event := { packet := if ok then (member 0).packet 0 false else event, sub := 0, round := 0, step := 0 }
/-- The group with an event due to a decoder in tile 1. -/
def decoding : Group :=
  { round .between 5000 0 2 [] [] with
    decs := [{ unit := 0x21, port := 0, tile := true, bank := 0, off := 0x400, due := [some (heard true)] }] }

theorem witness_watch_rounds :
    (∀ p ∈ [GPhase.between, .round], (watching (round p 4961 3 1 [] [])).watchLive 0 0 =
      some (withGroup (round p 4961 3 1 [] []), round p 4961 3 1 [] [])) ∧
    (let y := round .between 5000 0 1 [] [];
      (watching y).stepOver (withGroup y) y = false ∧
        ∀ m ∈ (watching y).presentMembers (withGroup y) y, ((watching y).counts 1 m).1.isSome = true) ∧
    (let y := round .round 4970 3 1 [] [];
      y.sender y.sub = 0 ∧
      ((watching y).presentMembers (withGroup y) y).find? (fun m => m.rank == 0) = some ⟨0, 0, member 0⟩ ∧
      (member 0).mustEmit 3 = true ∧ (member 0).emitted.getLsbD 3 = false ∧ (watching y).fc = y.t0 + y.sub * 10) ∧
    (let y := round .round 4970 3 1 [(1, (member 0).packet 1 true)] [];
      ((watching y).presentMembers (withGroup y) y).find? (fun m => m.rank == 1) = some ⟨1, 1, member 1⟩ ∧
      (member 1).packetFits 3 ((member 0).packet 1 true) = true ∧ (member 1).packetFits 3 event = false) ∧
    (let y := round .round 4961 3 1 [] [];
      y.t0 + (y.sub + 1) * 10 ≤ (watching y).fc + 1 ∧ y.sub < 2 * y.k) ∧
    (let y := round .round 4961 4 1 [] [];
      2 * y.k ≤ y.sub ∧ y.rounds + 1 < dRounds y.desc + dStretch y.desc ∧
      ((watching y).applyRound (withGroup y) y).launches = (watching y).launches) ∧
    (let y := round .ending 4961 0 2 [] [];
      (watching y).watchLive 0 0 = some (withGroup y, y) ∧
      (watching y).stepOver (withGroup y) y = true) ∧
    (∀ ok, let y := round .between 4961 0 2 [] [some (heard ok)];
      (watching y).watchLive 0 0 = some (withGroup y, y) ∧
      (withGroup y).live (watching y).fc = true ∧ (withGroup y).unit? 0 = some (.element 0) ∧ (heard ok).fits y.num = ok ∧
      (watching y).inputRoom 0 7 = true) ∧
    (watching decoding).watchLive 0 0 = some (withGroup decoding, decoding) ∧ (withGroup decoding).unit? 0x21 = some (.tile 1) ∧
    ((watching decoding).areaCells (withGroup decoding) 1 0x400).1.map (·.length) = some 8 := by decide +kernel

/-! ### Generators, buffers and copy engines (09, 14) -/

/-- A walk of `pat` at its last transfer. -/
def walking (write : Bool) : Walk :=
  { pat := BitVec.ofNat 256 (pat write), ver := 1, i0 := 1, i1 := 0, i2 := 0, i3 := 0, slot := none, asked := false, mark := false }
/-- Tile 0 as given, under the launch with the routes. -/
def tiled (x : Tile) : State := { job stream heap [] with tiles := [(0, x)] }
/-- Tile 0 with generator 0 reading and generator 2 writing a token, whose walks come to a marker or not; the token is one or not. -/
def generating (mark fin : Bool) : State :=
  tiled ((Tile.reset.setGen 0 { Gen.reset with walk := some { walking false with mark := mark } }).setGen 2
    { Gen.reset with walk := some { walking true with mark := mark }, wire := [{ makeToken da 2 0 1 with fin := fin }] })
/-- The reading walk with FE 1: it waits for full cells. -/
def feWalk : Walk := { walking false with pat := BitVec.ofNat 256 (pat false + 2 ^ 42) }
/-- Its generator, waiting or not, and one cell that it reads in a state. -/
def celling (celled : Bool) (retry : BitVec 16) (fe : BitVec 2) : State :=
  let y : Gen := { Gen.reset with walk := some feWalk, celled := celled, waiting := celled, retry := retry, poked := 1 }
  tiled { Tile.reset.setGen 0 y with sram := put Tile.reset.sram 0x80 0 fe }
/-- Generator 1 reads row 2 of a ring of four rows, of which its writer has written some. -/
def lining (rows : Nat) : State :=
  tiled { Tile.reset.setGen 1 { Gen.reset with walk := some (walking false) } with
    mode := 2, qbase := 0x400, qsize := 4, lrow := 64, put := rows }

theorem witness_generator_transfers :
    (∀ m f, (generating m f).liveAt (0 / 6) = some stream) ∧
    (generating false false).transfers 0 0 (walking false) 0x80 [0x80, 0xA0] ∧ patWrite (walking false).pat = false ∧
    (∀ m f, (generating m f).forkRoom stream (stream.fork (stream.relId (.tile 0)) 0) = true) ∧
    (∀ f, (generating false f).transfers 0 2 (walking true) 0x80 [0x80, 0xA0]) ∧ patWrite (walking true).pat = true ∧
    (∀ m f, ((generating m f).tile 0).gen 2 = { Gen.reset with walk := some { walking true with mark := m }, wire :=
      [{ makeToken da 2 0 1 with fin := f }] }) ∧ stream.window = none ∧
    (generating false false).watchArea stream 0 0x80 = false ∧ (generating false false).watchArea stream 0 0xA0 = false ∧
    (∀ f, (generating true f).walking 0 0 { walking false with mark := true } ∧
      (generating true f).walking 0 2 { walking true with mark := true }) ∧ (walking false).i0 + 1 = patCount (walking false).pat 0 := by
  unfold State.transfers State.walking Walk.comesTo Walk.inRange Tile.cellsAt Tile.statesFit
  refine ⟨?_, ?_, ?_, ?_, ?_, ?_, ?_, ?_, ?_, ?_, ?_, ?_⟩ <;> decide +kernel
theorem witness_generator_waits :
    ((lining 7).walking 0 1 (walking false) ∧ (walking false).comesTo ((lining 7).tile 0) 0x80 ∧
      ((lining 7).tile 0).cellsAt (walking false) 0x80 [0x480, 0x4A0] ∧ ((lining 7).tile 0).overrun 1 (walking false) = true) ∧
    ((lining 0).walking 0 1 (walking false) ∧ ((lining 0).tile 0).overrun 1 (walking false) = false ∧
      ((lining 0).tile 0).ringStall 1 (walking false) = true) ∧
    (∀ fe : BitVec 2, (celling false 9 fe).walking 0 0 feWalk ∧ feWalk.comesTo ((celling false 9 fe).tile 0) 0x80 ∧
      ((celling false 9 fe).tile 0).cellsAt feWalk 0x80 [0x80, 0xA0] ∧ ((celling false 9 fe).tile 0).overrun 0 feWalk = false ∧
      ((celling false 9 fe).tile 0).ringStall 0 feWalk = false) ∧
    ¬((celling false 9 1).tile 0).statesFit feWalk [0x80, 0xA0] ∧
    (∀ r fe, let y := ((celling true r fe).tile 0).gen 0; y.swOut = none ∧ y.walk = some feWalk ∧ y.wire = [] ∧ y.celled = true ∧
      y.poked = 1 ∧ y.retry = r) ∧ patCbuf feWalk.pat = false ∧
    (((celling true 9 2).tile 0).walkCells feWalk).getD [] = [0x80, 0xA0] ∧
    ((celling true 9 2).tile 0).statesFit feWalk [0x80, 0xA0] ∧ ¬((celling true 9 1).tile 0).statesFit feWalk [0x80, 0xA0] := by
  unfold State.walking Walk.comesTo Walk.inRange Tile.cellsAt Tile.statesFit
  refine ⟨?_, ?_, ?_, ?_, fun r fe => ⟨rfl, rfl, rfl, rfl, rfl, rfl⟩, ?_, ?_, ?_, ?_⟩ <;> decide +kernel

/-- Buffer 7 of tile 0: four slots, one free and one filled, with requests and claims. -/
def buffer7 : Buf :=
  { Buf.unused with base := 0x400, slotBytes := 64, slots := 4, free := 1, filled := 1, prod := 3, cons := 2, preq := [.gen 2 0],
                    creq := [.cmd 0 0], claims := [{ who := .gen 2 0, slot := 0, full := true }],
                    taken := [{ who := .gen 0 0, slot := 1, full := true }] }
/-- A walk of buffer 7 under CBUF, with no slot yet. -/
def bufWalk : Walk := { walking false with pat := BitVec.ofNat 256 (pat false + 2 ^ 45 + 7 * 2 ^ 48) }
def buffering : State :=
  tiled { Tile.reset.setGen 0 { Gen.reset with walk := some bufWalk } with bufs := vset Tile.reset.bufs 7 buffer7 }
theorem witness_circular_buffers : (buffering.liveAt (0 / 6)).isSome = true ∧ (buffering.tile 0).buf 7 = buffer7 ∧
    ((buffering.tile 0).gen 0).walk = some bufWalk ∧ patCbuf bufWalk.pat = true ∧ patBuf bufWalk.pat = 7 ∧
    (buffering.tile 0).failed = false ∧ ((buffering.tile 0).gen 0).swOut = none := by decide +kernel

/-- A window that opened at fc 4000 with the record of element 0. -/
def opened (close voided : Bool) (fault : Option (Word64 × Nat × Bool)) : Window :=
  { opened := 4000, elems := [(0, { Element.reset with bank := 2 })], tiles := [], ports := [], groups := [], ver := 1, held := [],
    lmUndo := [], tlUndo := [], close := close, voided := voided, fault := fault, committing := false }
/-- The launch with an open window. -/
def windowed (w : Window) : Launch := { work with window := some w, record := { work.record with direct := false } }
/-- The fault of a window's access to the page at 0x1800. -/
def miss : Option (Word64 × Nat × Bool) := some (5, 0x1800, true)

/-- A command of port 0 of the strand of job 1: record, multicast, cells moved and landed, elements to start. -/
def command (r : Nat) (mc : Bool) (next landed : Nat) (follow : List Nat) : Cmd :=
  { id := 0, launch := 0, owner := 0, mcast := mc, record := BitVec.ofNat 512 r, mask := 1, budget := 0x400, asked := false,
    slots := [], next := next, landed := landed, drained := false, follow := follow, place := .none, fetch := none, ended := false }
/-- Port 0 of a launch with a command, generator 3 of tile 0 a landing one with a cell to write, and merge groups at slice 0. -/
def movingIn (l : Launch) (m : Memory) (c : Cmd) (fe : BitVec 2) (merges : List Merge) : State :=
  let g : Gen := { Gen.reset with landing := true, land := [{ p := 0, id := 0, addr := 0x120, cell := freshCell 0x55 2 }] }
  { job l m [] with
    ports := [(0, { Port.reset with cmds := [c], nextId := 1 })],
    tiles := [(0, { Tile.reset.setGen 3 g with sram := put Tile.reset.sram 0x100 0x99 fe })],
    slices := if merges.isEmpty then [] else [(0, { Slice.reset with merges := merges })] }
/-- Cells 0x1040 full, 0x1060 empty, and a completion cell of COUNT n at 0x1E00. -/
def carried (n : Nat) : Memory := put (put (put heap 0x1040 0x77 2) 0x1060 0 1) 0x1E00 n 1
def moving (c : Cmd) (merges : List Merge) : State := movingIn stream (carried 2) c 2 merges
/-- The launch of the routes with an open window. -/
def streamW : Launch := { stream with window := some (opened false false none), record := { stream.record with direct := false } }
/-- Commands: two rows in, at the last one; a row out; both rows in, landed, with a start token, and DONE at 0x1E00. -/
def copyInCmd : Cmd := command (copyRec 0 0 2 0) false 1 0 []
def takeCmd (place : Place) : Cmd := { command (copyRec 0 3 1 0) false 0 0 [] with place := place }
def copyOutCmd (fe : Nat) : Cmd := command (copyRec 1 fe 1 0) false 0 0 []
def followCmd : Cmd := command (copyRec 0x20 0 2 (2 ^ 272 * 7)) false 2 2 [0]
def doneCmd : Cmd := command (copyRec 0 0 2 (2 ^ 384 * 0x1E00)) false 2 2 []
def bufferCmd : Cmd := { command (copyRec 0x1E 0 2 0) false 2 2 [] with slots := [(0, 0)] }

theorem witness_sparge : (moving copyInCmd []).mayAct stream ∧ (moving copyInCmd []).moves stream ∧ (job stream heap []).still stream ∧
    (moving copyInCmd []).cur.pend = none ∧ (atStage1 (job stream heap []) .sparge []).drained stream
      { instr := .sparge, hi := none, pa := 0, va := 0, place := .none, stage := 1, value := 0, cmds := [(0, 0)], walks := [],
        sends := [], left := [], sum := 0 } = true := by
  unfold State.mayAct State.moves State.still
  decide +kernel
theorem engine_reaches {s : State} {l : Launch} {p va pa : Nat} {w : Bool} (h : s.engAcc l p va w = (.ok pa, s)) :
    s.engReaches s l p va w pa := ⟨h, rfl, rfl, rfl, rfl, rfl, rfl⟩
theorem witness_copies_in : (moving copyInCmd []).copies 0 0 1 stream copyInCmd ∧ copyInCmd.tiles stream 0 = [(0, 3)] ∧
    (((moving copyInCmd []).tile 0).gen 3).land.length < 4 ∧
    (moving copyInCmd []).engReaches (moving copyInCmd []) stream 0 (crMem copyInCmd.record 1) false 0x1060 ∧
    (moving copyInCmd []).feOk 0x1060 ∧ (moving copyInCmd []).hasRoom 0x1060 ∧ crDir copyInCmd.record = false ∧
    (moving copyInCmd []).landAt (0 / 6) = some stream ∧ (moving copyInCmd []).liveAt (0 / 6) = some stream ∧
    (moving copyInCmd []).noteCells stream 0 [0x120] = some (moving copyInCmd []) ∧
    badFe (((moving copyInCmd []).tile 0).sram.sideAt 0x120).fe = false ∧ (moving copyInCmd []).watchArea stream 0 0x120 = false := by
  refine ⟨?_, by decide +kernel, by decide +kernel, engine_reaches (by decide +kernel), ?_, .inr (.inr rfl), ?_⟩
  · unfold State.copies State.hasTurn; decide +kernel
  · unfold State.feOk; decide +kernel
  · decide +kernel
theorem witness_copies_take : let c := takeCmd .none
    (∀ m ∈ [carried 2, put heap 0x1040 0 1], let s := movingIn stream m c 2 [];
      s.copies 0 0 0 stream c ∧ crFe c.record = 3 ∧ s.quiet 0x1040 ∧ s.writeHeld 0x1040 = false ∧
      s.engAcc stream 0 (crMem c.record 0) false = (.ok 0x1040, s)) ∧ ((carried 2).sideAt 0x1040).fe = 2 ∧
    ((put heap 0x1040 0 1).sideAt 0x1040).fe = 1 := by
  unfold State.copies State.hasTurn State.quiet
  decide +kernel
/-- A cell lands in the area of the decoder of tile 1, and one in a cell with no valid state. -/
theorem witness_landing_faults :
    (let s := { watching decoding with tiles := [(1, { (watching decoding).tile 1 with
        gens := vset (Vector.replicate 4 Gen.reset) 3 { Gen.reset with land := [{ p := 0, id := 0, addr := 0x420, cell := freshCell 0 2 }] } }),
        (0, (watching decoding).tile 0)] };
      s.landAt (1 / 6) = some (withGroup decoding) ∧ s.watchArea (withGroup decoding) 1 0x420 = true ∧
      (((s.tile 1).gen 3).land.map (·.addr)) = [0x420]) ∧
    badFe (((movingIn stream heap copyInCmd 3 []).tile 0).sram.sideAt 0x100).fe = true := by decide +kernel
theorem witness_copies_out : let s := movingIn stream (carried 2)
    (∀ fe ∈ [0, 3], (s (copyOutCmd fe) 2 []).copies 0 0 0 stream (copyOutCmd fe) ∧ crDir (copyOutCmd fe).record = true ∧
      (copyOutCmd fe).tiles stream 0 = [(0, 3)] ∧ (s (copyOutCmd fe) 2 []).noteCells stream 0 [0x100] = some (s (copyOutCmd fe) 2 []) ∧
      (s (copyOutCmd fe) 2 []).engReaches (s (copyOutCmd fe) 2 []) stream 0 (crMem (copyOutCmd fe).record 0) true 0x1040 ∧
      (s (copyOutCmd fe) 2 []).feOk 0x1040 ∧ (s (copyOutCmd fe) 2 []).writeHeld 0x1040 = false ∧
      (s (copyOutCmd fe) 2 []).quiet 0x1040 ∧ (((s (copyOutCmd fe) 2 []).tile 0).sram.cell 0x100).fe = 2) ∧
    (s (copyOutCmd 3) 1 []).copies 0 0 0 stream (copyOutCmd 3) ∧ (((s (copyOutCmd 3) 1 []).tile 0).sram.cell 0x100).fe = 1 ∧
    (let w := movingIn streamW (carried 2) (copyOutCmd 0) 2 [];
      w.copies 0 0 0 streamW (copyOutCmd 0) ∧ w.engReaches w streamW 0 (crMem (copyOutCmd 0).record 0) true 0x1040) := by
  have hw : (movingIn streamW (carried 2) (copyOutCmd 0) 2 []).engAcc streamW 0 (crMem (copyOutCmd 0).record 0) true =
      (.ok 0x1040, movingIn streamW (carried 2) (copyOutCmd 0) 2 []) := by decide +kernel
  unfold State.copies State.hasTurn State.feOk State.quiet
  refine ⟨fun fe h => ?_, by decide +kernel, by decide +kernel, by decide +kernel, engine_reaches hw⟩
  obtain rfl | rfl : fe = 0 ∨ fe = 3 := by simpa using h
  · exact ⟨by decide +kernel, by decide +kernel, by decide +kernel, by decide +kernel, engine_reaches (by decide +kernel),
      by decide +kernel⟩
  · exact ⟨by decide +kernel, by decide +kernel, by decide +kernel, by decide +kernel, engine_reaches (by decide +kernel),
      by decide +kernel⟩
theorem witness_copies_finish :
    (∀ c ∈ [followCmd, doneCmd, command (copyRec 0 0 2 0) false 2 2 [], bufferCmd],
      (moving c []).liveAt (0 / 3) = some stream ∧ (moving c []).cmd? 0 0 = some c ∧ c.ended = false ∧ c.next = crCells c.record ∧
      crDir c.record = false ∧ c.landed = crCells c.record * (c.tiles stream 0).length ∧ (moving c []).slotsDone stream 0 c = true) ∧
    crCbuf bufferCmd.record = true ∧ crCbuf followCmd.record = false ∧
    (moving followCmd []).inputRoom 0 (crChan followCmd.record) = true ∧ crChan followCmd.record = 7 ∧
    crDone (command (copyRec 0 0 2 0) false 2 2 []).record = 0 ∧ crDone doneCmd.record = 0x1E00 := by decide +kernel
theorem witness_copies_done (n : Nat) (h : n = 1 ∨ n = 2) : let s := movingIn stream (carried n) doneCmd 2 []
    s.engReaches s stream 0 0x1E00 true 0x1E00 ∧ s.writeHeld 0x1E00 = false ∧ s.cleanAt 0x1E00 ∧ s.quiet 0x1E00 ∧ s.feOk 0x1E00 ∧
    s.countAt 0x1E00 = n ∧ s.plainCell stream.job 0x1E00 := by
  unfold State.cleanAt State.quiet State.feOk State.plainCell
  obtain rfl | rfl := h
  · exact ⟨engine_reaches (by decide +kernel), by decide +kernel⟩
  · exact ⟨engine_reaches (by decide +kernel), by decide +kernel⟩
/-- A history command of eight FP32 values with β 0.5 and references at 0x400, under an FE mode. -/
def historyCmd (fe : Nat) : Cmd := command (copyRec 0x81 fe 1 (2 ^ 280 * 2 + 2 ^ 288 * 0x3F000000 + 2 ^ 352 * 0x400)) false 0 0 []
/-- The values of its record, whose source and references lie in tile 0. -/
def history (s : State) (c : Cmd) : List Hist :=
  let m := (s.tile 0).sram
  (List.range 8).map (fun i => histValue (FloatFmt.f32.value (crBeta c.record))
    (FloatFmt.f32.value ((cellLanes 32 [(m.cell 0x100).data]).getD i 0)) (BitVec.ofNat 32 (m.nat (0x400 + 4 * i) 4)))
/-- The cells are written, after which the tiles and the command are as before. -/
def historyDone (s : State) (comp : Bool) (va : Nat) (ds : List CellData) (c : Cmd) : Bool :=
  match s.histWrite stream 0 comp (some 2) va ds with
  | .done t => t.tiles == s.tiles && t.cmd? 0 0 == some c
  | _ => false
theorem history_done {s : State} {comp : Bool} {va : Nat} {ds : List CellData} {c : Cmd} (h : historyDone s comp va ds c = true) :
    ∃ t, s.histWrite stream 0 comp (some 2) va ds = .done t ∧ t.tiles = s.tiles ∧ t.cmd? 0 0 = some c := by
  unfold historyDone at h
  split at h
  · rename_i t ht
    simp only [Bool.and_eq_true, beq_iff_eq] at h
    exact ⟨t, ht, h.1, h.2⟩
  · cases h
theorem witness_history_records (fe : Nat) (h : fe = 1 ∨ fe = 3) : let s := moving (historyCmd fe) []; let c := historyCmd fe
    s.hasTurn 0 0 stream c c.todo ∧ crHist c.record = true ∧ c.tiles stream 0 = [(0, 3)] ∧ crHref c.record = 0x400 ∧
    crValues c.record = crCells c.record * 256 / FloatFmt.f32.width ∧ (List.range (crCells c.record)).map (crOff c.record (s.copyBase c 0)) = [0x100] ∧
    (List.range ((4 * crValues c.record + 31) / 32)).map (fun n => crHref c.record + 32 * n) = [0x400] ∧
    (∀ a ∈ [0x100, 0x400], ((s.tile 0).sram.sideAt a).fe = 2 ∧ ((s.tile 0).sram.cell a).code = gen ((s.tile 0).sram.cell a).data) ∧
    s.watchArea stream 0 0x400 = false ∧ s.noteCells stream 0 [0x400, 0x100] = some s ∧
    ∃ s4, s.histWrite stream 0 (crComp c.record) (some 2) (crVa c.record) (histRecord c.record (history s c)) = .done s4 ∧
      s4.tiles = s.tiles ∧ s4.cmd? 0 0 = some c := by
  unfold State.hasTurn
  obtain rfl | rfl := h <;>
  exact ⟨by decide +kernel, by decide +kernel, by decide +kernel, by decide +kernel, by decide +kernel, by decide +kernel,
    by decide +kernel, by decide +kernel, by decide +kernel, by decide +kernel, history_done (by decide +kernel)⟩
/-- The reference of a history command fails its check. -/
theorem witness_history_faults : let m := ((moving (historyCmd 1) []).tile 0).sram.setSide 0x400 { fe := 2, w := false, code := 0x0F };
    (check (m.cell 0x400).data (m.cell 0x400).code).data? = none ∧ badFe (m.sideAt 0x400).fe = false ∧
    ∃ i j, (Val.num false 1 2) = .num false i j ∧ 0 < i ∧ 0 < j :=
  ⟨by decide +kernel, by decide +kernel, ⟨1, 2, rfl, by decide, by decide⟩⟩

/-- A multicast of two rows in group 7, and merge groups with its key, open for 126 half cycles or closed. -/
def castCmd (fetch : Option (List Nat)) : Cmd := { command (copyRec 0 0 2 (2 ^ 320 * 7)) true 0 0 [] with fetch := fetch }
def merge (opened sent : Nat) (who : List Joiner) : Merge :=
  { job := 1, group := 7, va := 0x1040, pa := 0x1040, shape := crShape (castCmd none).record, cells := [(0, 0x1040), (1, 0x1060)],
    opened := opened, isOpen := true, sent := sent, who := who }
/-- The group that the command started; one whose tree is over and whose member still misses a cell; one that is over. -/
def started1 : Merge := merge 4872 0 [{ p := 0, id := 0, start := 0, got := 0 }]
def catching : Merge := merge 4872 2 [{ p := 0, id := 0, start := 1, got := 0 }]
def served : Merge := merge 4872 2 [{ p := 0, id := 0, start := 0, got := 0 }]
theorem witness_multicast_requests : let s := moving (castCmd none) []; let c := castCmd none
    s.hasTurn 0 0 stream c c.todo ∧ c.mcast = true ∧ crGroup c.record = 7 ∧
    (∀ n ∈ List.range (crCells c.record), s.engAcc stream 0 (crMem c.record n) false = (.ok (0x1040 + 32 * n), s)) ∧
    ((List.range (crCells c.record)).map (crOff c.record 0)).Nodup ∧
    ¬((List.range 2).map (crOff (BitVec.ofNat 512 (copyRec 0 0 2 0 - 2 ^ 224 * 32)) 0)).Nodup := by
  unfold State.hasTurn
  decide +kernel
theorem witness_multicast_merging :
    (let s := moving (castCmd none) [merge 4873 1 []];
      s.mergesWith (merge 4873 1 []) stream (castCmd none).record 0x1040 [(0, 0x1040), (1, 0x1060)] ∧
      (s.slice (homeOf 0x1040)).merges = [merge 4873 1 []] ∧ [merge 4873 1 []].Nodup ∧
      (merge 4873 1 []).sent ≤ (merge 4873 1 []).cells.length) ∧
    ¬(moving (castCmd none) [merge 4872 1 []]).mergesWith (merge 4872 1 []) stream (castCmd none).record 0x1040
      [(0, 0x1040), (1, 0x1060)] ∧
    (List.replicate 16 (merge 4872 1 [])).length = 16 ∧
    (∀ g ∈ [started1, catching], let s := moving (castCmd (some [])) [g]; let c := castCmd (some [])
      (s.slice 0).merges[0]? = some g ∧ g.who.filterMap s.member = g.who.map (fun j => (j, stream, c)) ∧
      c.tiles stream 0 = [(0, 3)] ∧ ((s.tile 0).gen 3).land.length < 4 ∧ s.feOk 0x1040 ∧ g.cells[0]? = some (0, 0x1040)) ∧
    started1.sends 0 started1.who { started1 with sent := 1 } ∧
    catching.sends 0 catching.who { catching with who := [{ p := 0, id := 0, start := 1, got := 1 }] } ∧
    served.cells.length ≤ served.sent ∧ (∀ j ∈ served.who, j.start ≤ j.got) ∧
    served.opened + 128 ≤ (moving (castCmd none) [served]).fc ∧ served.isOpen = true := by
  unfold State.mergesWith State.feOk
  refine ⟨by decide +kernel, by decide +kernel, by simp, by decide +kernel, .inl ⟨by decide, rfl, rfl, rfl⟩,
    .inr ⟨by decide, [], { p := 0, id := 0, start := 1, got := 0 }, [], rfl, by simp, by decide, rfl, rfl, rfl⟩, by decide⟩

/-! ### Launches, tasks and levels (21, 22) -/

/-- A launch record at 0x1100: one cluster, one strand, direct, DONE at 0x1D00. -/
def recordX : Nat := 2 ^ 128 * 0x1D00 + 2 ^ 256 * 0x77 + 2 ^ 448 + 2 ^ 456 + 2 ^ 464 * 8 + 2 ^ 480 + 2 ^ 768 * 0x3FFFFF
/-- Memory with job 1's work record (two phase slots from 0x1800, weights 1, JOBDONE at 0x1E40, TVEC 0x900), the record, the
current phase at 0x1F00 with COUNT 3, and DONE of the running launch at 0x1E00 with COUNT 2. -/
def shop : Memory :=
  put (put (put (put (put (put (put (put heap 0x240 (0x1800 + 2 ^ 64 * 2 + 2 ^ 96 * 0x01010101 + 2 ^ 128 * 0x1E40) 2) 0x260 0x900 2)
    0x1100 (recordX % 2 ^ 256) 2) 0x1120 (recordX / 2 ^ 256 % 2 ^ 256) 2) 0x1140 (recordX / 2 ^ 512 % 2 ^ 256) 2)
    0x1160 (recordX / 2 ^ 768) 2) 0x1F00 (3 + 2 ^ 72 * 3) 1) 0x1E00 (2 + 2 ^ 72) 1
/-- Strand 0 of job 1 with the job's work record. -/
def duty (l : Launch) (m : Memory) (g : List (Nat × Word64)) : State :=
  { job l m g with dv := { (job l m g).dv with worktab := 0x200 } }

/-- LAUNCH of a record at 0x1100 by strand 0, at its issue. -/
def enrolling (x : Nat) : State :=
  duty work (put (put (put shop 0x1100 (x % 2 ^ 256) 2) 0x1120 (x / 2 ^ 256 % 2 ^ 256) 2) 0x1D20 (2 + 2 ^ 72) 2) [(1, 0x1100)]
/-- The record waits for DEP at 0x1D20, a completion cell that is full with FAULT, or has no cluster. -/
def recordDep : Nat := recordX + 2 ^ 64 * 0x1D20
def recordBad : Nat := recordX - 2 ^ 448

theorem witness_launch_enrols : ∀ x ∈ [recordX, recordDep, recordBad], let s := enrolling x; let s1 := (s.readLaunch true 1 0x1100).2;
    let s3 := ((s1.addPhase 1 1).doneCell 1 0x1D00).2;
    s.acts work ∧ s.cur.pend = none ∧ (s.reg 1).toNat = 0x1100 ∧ (s.job 1).running = some 0x1F00 ∧ s.noWaiters ∧
    (s.readLaunch true 1 0x1100).1.toOption = some (if x = recordBad then x % 2 ^ 512 else x) ∧
    recFieldsOk x = decide (x ≠ recordBad) ∧ (parseRecord 0x1100 x).next = 0 ∧
    (parseRecord 0x1100 x).dep = (if x = recordDep then 0x1D20 else 0) ∧ (parseRecord 0x1100 x).done = 0x1D00 ∧
    ((s1.addPhase 1 1).doneCell 1 0x1D00).1 = .at_ 0x1D00 ∧ s.quiet 0x1D00 ∧ s3.weight 1 0 ≠ 0 ∧
    s3.levelCancelled 1 0x1F00 false = false ∧ s3.depOk 1 0x1D20 = true ∧ (s3.xrecOf 1).inHeap 0x1D20 = true ∧
    (0x1D20 + (s3.xrecOf 1).hoff) % 2 ^ 44 = 0x1D20 ∧ s.dv.jobtab = 0 ∧ ∀ b, b < 112 → b / 32 ≠ 0x1D00 / 32 := by
  unfold State.acts State.mayAct State.quiet State.noWaiters
  decide +kernel
/-- LAUNCH with the address of the next record. -/
def enrollingNext (v : Word64) : State :=
  let p : Pend := { instr := .launch 1, hi := none, pa := 0, va := 0, place := .none, stage := 1, value := v, cmds := [],
                    walks := [], sends := [], left := [], sum := 0 }
  (enrolling recordX).setCur { (enrolling recordX).cur with pend := some p }
theorem witness_launch_goes_on : (enrollingNext 0).acts work ∧ (enrollingNext 0x1100).acts work ∧
    ((enrollingNext 0x1100).cur.pend.map fun p => (p.stage, p.value)) = some (1, 0x1100) := by
  unfold State.acts State.mayAct
  decide +kernel
/-- GRAPH.REPLAY of the graph record at 0x1200 with TURN full, at the HOLD cell of TURN's slot, or at its last stage. -/
def replaying (stage : Nat) : State :=
  let s := duty work (put (put shop 0x1240 4 (if stage = 3 then 1 else 2)) 0x1260 0 2) [(1, 0x1200), (2, 0x1300)]
  let p : Pend := { instr := .graphReplay 3 1 2, hi := none, pa := 0, va := 0, place := .none, stage := stage, value := 4,
                    cmds := [(0, 0)], walks := [], sends := [], left := [], sum := 0 }
  if stage = 0 then s else s.setCur { s.cur with pend := some p }
theorem witness_replay_turns : ∀ q ∈ [(0, 0x1240), (1, 0x1260), (3, 0x1240)], let s := replaying q.1
    s.acts work ∧ s.quiet q.2 ∧ s.cleanAt q.2 ∧ s.writeHeld q.2 = false ∧ s.feOk q.2 ∧
    (s.reg 1).toNat % 32 = 0 ∧ (s.reg 2).toNat % 32 = 0 ∧ (q.1 ≠ 3 → (s.mem.sideAt q.2).fe = 2) ∧
    (s.cur.pend.map fun p => (p.stage, p.cmds)) = (if q.1 = 0 then none else some (q.1, [(0, 0)])) ∧
    s.reaches (s.reg 1 + (if q.1 = 1 then BitVec.ofNat 64 (96 + 32 * (4 % 2)) else 64)) 32 (q.1 = 3) (if q.1 = 3 then 2 else 1) q.2 := by
  unfold State.acts State.mayAct State.quiet State.cleanAt State.reaches State.feOk
  decide +kernel

/-- A second launch of job 1, enrolled from the record. -/
def second (stage : Stage) : Launch := { newLaunch 1 1 0x1F00 false (parseRecord 0x1100 recordX) with stage := stage }
/-- The launch with its page table at 0x400, which is empty. -/
def rooted : Launch := { work with xrec := { work.xrec with root := 0x400 } }
def cancelling : State :=
  { duty rooted (put shop 0x1D20 (2 ^ 72 * 4) 2) [(1, 0x1D00), (2, 0x1D20), (3, 0x9000), (4, 0), (5, 0x1E00)] with
    launches := [rooted, second .ready], launchNo := 2 }
/-- The cell and the level that a register names. -/
def levelOf (g : GReg) : Option Nat × Option Level :=
  let c := cancelling.cellIn (cancelling.strandX 0) (cancelling.strandJob 0) (cancelling.reg g).toNat
  (c, cancelling.levelAt (fun j => cancelling.cur.priv || j == cancelling.strandJob 0) (c, cancelling.strandJob 0, (cancelling.reg g).toNat))
theorem witness_cancels : (∀ g ∈ [1, 2, 3, 5], (cancelling.reg g).toNat < 2 ^ 52 ∧ (cancelling.reg g).toNat % 32 = 0) ∧
    levelOf 1 = (some 0x1D00, some (.launch 1)) ∧ levelOf 2 = (some 0x1D20, none) ∧ levelOf 3 = (none, none) ∧
    levelOf 5 = (some 0x1E00, some (.launch 0)) ∧ cancelling.mem.nat (0x1D20 + 9) 1 = 4 ∧ (cancelling.mem.sideAt 0x1D20).fe = 2 :=
  ⟨by decide +kernel, by decide +kernel, by decide +kernel, by decide +kernel, by decide +kernel, by decide +kernel, by decide +kernel⟩
theorem witness_cancelled : cancelling.launch? 1 = some (second .ready) ∧ cancelling.launch? 0 = some rooted ∧ rooted.stage = .placed ∧
    rooted.window = none ∧ rooted.strands.Nodup ∧ (∀ c ∈ rooted.clusters, (cancelling.cluster c).owner = some 0) ∧ cancelling.handler ∧
    cancelling.launchOf 0 = some rooted ∧ rooted.own (cancelling.reg 4).toNat = some (.element 0) ∧
    (cancelling.element 0).complete = false := by
  unfold State.handler
  exact ⟨by decide +kernel, by decide +kernel, rfl, rfl, by decide +kernel, by decide +kernel, by decide +kernel, by decide +kernel,
    by decide +kernel, by decide +kernel⟩

/-- A task at 0x300 with join cell 0x1D20. -/
def task1 : Task := { entry := 0x300, arg := 7, join := 0x1D20, high := false }
/-- Strand 0 with a deque in its cluster, and cluster 1 of the region with another. -/
def tasking (own other : List Task) : State :=
  { duty { work with record := { work.record with a := 2, needs := [0x3FFFFF, 0x3FFFFF] } } (put shop 0x1D20 (2 ^ 64 * 5) 2)
      [(1, 0x300), (2, 7), (3, 0x1D20), (5, 0x1D00)] with
    clusters := [(0, { Cluster.reset with owner := some 0, deque := own }), (1, { Cluster.reset with owner := some 0, deque := other })] }
def wide : Launch := { work with record := { work.record with a := 2, needs := [0x3FFFFF, 0x3FFFFF] } }
theorem witness_tasks : (tasking (List.replicate 255 task1) []).acts wide ∧ (tasking (List.replicate 255 task1) []).deque.length = 255 ∧
    (tasking (List.replicate 256 task1) []).acts wide ∧ (tasking (List.replicate 256 task1) []).deque.length = 256 ∧
    (tasking [] []).cur.depth ≠ 255 ∧ ((tasking [] []).reg 1).toNat % 4 = 0 ∧ ((tasking [] []).reg 3).toNat % 32 = 0 ∧
    (tasking [] []).haltedK 0 = false ∧ (tasking [] []).reaches ((tasking [] []).reg 3) 32 false 1 0x1D20 ∧
    ((tasking [] []).mem.sideAt 0x1D20).fe = 2 ∧ (tasking [] []).cleanAt 0x1D20 ∧ (tasking [] []).cur.pend = none ∧
    (tasking [] []).hasRoom 0x1D20 ∧ (tasking [] []).cur.posted = [] ∧
    (({ tasking [task1] [] with mem := put heap 0x1D00 0 1 }).reaches 0x1D00 32 false 1 0x1D00 ∧
      (({ tasking [task1] [] with mem := put heap 0x1D00 0 1 }).mem.sideAt 0x1D00).fe = 1 ∧ (tasking [task1] []).deque = [task1]) ∧
    (snakeAfter 0).find? (fun d => ((tasking [] [task1]).cluster d).owner == some wide.id) = some 1 ∧
    ((tasking [] [task1]).cluster 1).deque = [] ++ [task1] ∧ (tasking [] []).deque = [] ∧
    (tasking [] []).launchOf 0 = some wide := by
  unfold State.acts State.mayAct State.reaches State.cleanAt State.hasRoom
  decide +kernel
/-- Strand 0 inside an inline task, or running a task whose join cell stands at 0x1E00. -/
def ending (depth : BitVec 8) (join ret : Word64) (own : List Task) : State :=
  let s := tasking own []
  s.setCur { s.cur with depth := depth, running := true, g := regs [(4, join), (31, ret)] }
theorem witness_task_ends : (ending 1 0 0x200 []).cancelledK 0 = false ∧ (ending 1 0 0x200 []).cur.depth ≠ 0 ∧
    (ending 1 0 0x200 []).reg 31 = 0x200 ∧ (ending 1 0 0x200 []).reg 4 = 0 ∧ (ending 0 0 0 []).cur.depth = 0 ∧
    (ending 0 0 0 []).reg 4 = 0 ∧ ((ending 0 0 0 []).cluster (0 / 8)).deque = [] ∧ (ending 0 0 0 [task1]).launchOf 0 = some wide ∧
    ((ending 0 0 0 [task1]).cluster (0 / 8)).deque = [task1] ∧
    (∀ d ∈ [0, 1], let s := ending d 0x1E00 0x200 []
     s.cancelledK 0 = false ∧ s.cur.depth = d ∧ s.reg 31 = 0x200 ∧ s.cur.running = true ∧ s.cur.posted = [] ∧
     s.reaches (s.reg 4) 32 true 2 0x1E00 ∧ s.feOk 0x1E00 ∧ s.cleanAt 0x1E00 ∧
     s.quiet 0x1E00 ∧ s.writeHeld 0x1E00 = false ∧ s.countAt 0x1E00 = 2) ∧ (tasking [task1] []).launchOf 1 = some wide ∧
    ((tasking [task1] []).strand 1).mode = .idle ∧ ((tasking [task1] []).cluster (1 / 8)).deque = [task1] := by
  unfold State.reaches State.feOk State.cleanAt State.quiet
  decide +kernel

/-! ### Contexts, completion levels and dispatchers (21, 22) -/

/-- Job 1's cask at 0x1000: two slots, each as long as an image can be; and an image of two cells at 0x1020. -/
def caskMem : Memory := put (put shop 0x1000 (2 + 2 ^ 32 * (2 ^ 32 - 1)) 2) 0x1020 (0xEF001001 + 2 ^ 32 * 2) 2
/-- The supervisor over a launch that holds cluster 0, or waits with its image, with the cask. -/
def saving (l : Launch) : State :=
  { sup caskMem [(1, 0x1E00), (2, 0x1400)] with
    launches := [l], launchNo := 1,
    clusters := [(0, { Cluster.reset with owner := if l.stage == .placed then some 0 else none })],
    jobs := [(1, { Job.reset with running := some 0x1F00 })],
    dv := { Device.reset with worktab := 0x200, casktab := 12 } }
/-- The launch, of no unit, on its cluster; and with its image. -/
def lite : Launch := { work with record := { work.record with needs := [0] } }
def saved : Launch := { lite with stage := .ready, image := some 0x1020 }

theorem witness_context_save : (∀ l ∈ [saved, lite], let s := saving l
    s.cur.priv = true ∧ (s.reg 0).toNat = 0 ∧ (s.reg 2).toNat % 32 = 0 ∧ s.savable (s.reg 1).toNat = some l ∧
    (s.mem.sideAt (s.reg 1).toNat).fe ≠ 2 ∧ s.noWaiters) ∧
    (saving saved).mem.good (0x1020 + 4) 4 = 2 ∧ (saving saved).mayAccess 2 0x1400 2 = true ∧
    superStrand (saving lite).issue.k = true ∧ lite.job ≤ 192 ∧ lite.record.a ≤ 12 ∧ lite.record.b ≤ 12 := by
  unfold State.noWaiters
  decide +kernel
theorem witness_context_save_slot : (saving lite).stoppable lite ∧ (saving lite).slotFor lite 0x1020 ∧
    (saving lite).mayAccess 2 0x1400 ((saving lite).imageCells lite) = true :=
  ⟨by unfold State.stoppable; decide +kernel, ⟨0, [1], 0x1000, by decide +kernel, by decide +kernel, by decide +kernel⟩,
    by decide +kernel⟩
/-- An image of three cells at 0x1400 with its record section's header, which the supervisor loads for job 192. -/
def ctxImage (magic : Nat) : State :=
  sup (put (put heap 0x1400 (magic + 2 ^ 32 * 3 + 2 ^ 64 + 2 ^ 72 + 2 ^ 80 + 2 ^ 88 + 2 ^ 96 + 2 ^ 128 * 0x1E00) 2) 0x1420
    (0x0101 + 2 ^ 32) 2) [(4, 0x1400), (5, 192)]
theorem witness_context_load : (∀ magic ∈ [0xEF001001, 0xEF001002], let s := ctxImage magic
    s.cur.priv = true ∧ (s.reg 5).toNat ≤ 192 ∧ (s.reg 4).toNat = 0x1400 ∧ s.mayAccess 1 0x1400 1 = true ∧ s.cur.posted = [] ∧
    s.feOk 0x1400 ∧ s.cleanAt 0x1400 ∧ headerBad (s.mem.cell 0x1400).data = (if magic = 0xEF001001 then none else some 0) ∧
    s.handler ∧ s.issue.hi = none) ∧
    (let s := ctxImage 0xEF001001; let r := s.launchIn 0x1400 192 (s.mem.cell 0x1400).data;
      s.headersPass 0x1400 r.2 r.1 (s.mem.nat (0x1400 + 4) 4) (s.mem.nat (0x1400 + 12) 4) 1 (0, 0)) := by
  refine ⟨?_, ?_⟩
  · unfold State.feOk State.cleanAt State.handler
    decide +kernel
  · intro s r
    rw [show s.mem.nat (0x1400 + 12) 4 = 1 by decide +kernel]
    refine ⟨by decide +kernel, by decide +kernel, ?_, ?_, by decide +kernel, trivial⟩
    · unfold State.feOk; decide +kernel
    · unfold State.cleanAt; decide +kernel
theorem witness_context_refused : (job work heap []).cur.priv = false ∧ (job work heap []).handler ∧
    (job work heap []).issue.hi = none := by
  unfold State.handler
  decide +kernel

/-- Job 1 with its start cell full, no phase running. -/
def starting : State := { duty work (put shop 0x1800 0x1100 2) [] with jobs := [(1, Job.reset)], launches := [], clusters := [] }
/-- Job 1 in its phase, whose chain has ended. -/
def chained : State :=
  { duty work shop [] with jobs := [(1, { Job.reset with running := some 0x1F00, chain := some { next := 0, parent := 0x1F00 } })] }
theorem witness_phase_start : (let s := starting
    let a := s.phaseStart 1 (s.phaseNo 1)
    a = 0x1800 ∧ (s.job 1).running = none ∧ s.jobOpen 1 = true ∧ (s.mem.sideAt a).fe = 2 ∧ s.cleanAt a ∧ s.quiet a ∧
    s.quiet (a + 32)) ∧ (chained.job 1).running = some 0x1F00 ∧
    (chained.job 1).chain = some { next := 0, parent := 0x1F00 } := by
  unfold State.cleanAt State.quiet
  decide +kernel
/-- A decrement on its way to the launch's completion cell, with some COUNT, or to that of job 1's phase. -/
def counting (n : Nat) (d : Decr) : State :=
  { duty work (put (put shop 0x1E00 (n + 2 ^ 72) 1) 0x1F00 (1 + 2 ^ 72 * 3) 1) [] with decrs := [d] }
theorem witness_decrement : (∀ n ∈ [1, 2], ∀ d ∈ [({ addr := 0x1E00, virt := false, bits := 1, job := 1 } : Decr),
      { addr := 0x1E00, virt := true, bits := 1, job := 1 }], let s := counting n d
    s.decrs = [d] ∧ (s.xrecOf d.job).inHeap d.addr = true ∧ (d.addr + (s.xrecOf d.job).hoff) % 2 ^ 44 = 0x1E00 ∧
    s.feOk 0x1E00 ∧ s.cleanAt 0x1E00 ∧ s.quiet 0x1E00 ∧ s.writeHeld 0x1E00 = false ∧ s.countAt 0x1E00 = n ∧
    (s.job 1).running ≠ some 0x1E00 ∧ s.plainCell 1 0x1E00) ∧
    (let s := counting 2 { addr := 0x1F00, virt := false, bits := 1, job := 1 }
     s.feOk 0x1F00 ∧ s.cleanAt 0x1F00 ∧ s.quiet 0x1F00 ∧ s.writeHeld 0x1F00 = false ∧ s.countAt 0x1F00 = 1 ∧
     (s.job 1).running = some 0x1F00 ∧ s.workRec 1 % 32 = 0 ∧ s.cleanAt (s.workRec 1) ∧ s.workRec 1 ≠ 0x1F00 ∧
     s.jobDone 1 / 32 ≠ s.workRec 1 / 32) := by
  unfold State.cleanAt State.quiet State.feOk State.plainCell
  decide +kernel
/-- A launch whose elements are not installed: it has nothing left to do. -/
def bare (stage : Stage) (full cancelled : Bool) : Launch :=
  { work with installed := false, named := [], stage := stage, full := full, cancelled := cancelled }
/-- The state with it, its DONE in a state. -/
def leaving (l : Launch) (fe : BitVec 2) : State :=
  { duty l (put shop 0x1E00 (2 + 2 ^ 72) fe) [] with strands := [] }
theorem witness_launch_ends : (leaving (bare .placed false false) 1).launchDone (bare .placed false false) = true ∧
    ∀ l ∈ [bare .placed false false, bare .ready false true], let s := leaving l 1; let x := s.launchX l;
    s.launch? 0 = some l ∧ l.window = none ∧ l.image = none ∧
    x.inHeap l.record.done.toNat = true ∧ (l.record.done.toNat + x.hoff) % 2 ^ 44 = 0x1E00 ∧ s.feOk 0x1E00 ∧
    s.cleanAt 0x1E00 ∧ s.quiet 0x1E00 ∧ s.writeHeld 0x1E00 = false ∧ s.plainCell l.job 0x1E00 := by
  unfold State.cleanAt State.quiet State.feOk State.plainCell
  decide +kernel
theorem witness_launch_full : (let l := bare .ended false false; let s := leaving l 2;
    s.launch? 0 = some l ∧ l.stage = .ended ∧ l.full = false ∧ s.doneOfLaunch l = some 0x1E00 ∧ (s.mem.sideAt 0x1E00).fe = 2) ∧
    (leaving (bare .ended true false) 2).launch? 0 = some (bare .ended true false) ∧
    ((leaving (bare .ended true false) 2).cluster 0).owner = some 0 := by
  decide +kernel

/-- A launch that is ready, with or without an image at 0x1400, whose header is poisoned, and no launch placed. -/
def unplaced (image : Option Nat) : State :=
  { duty work (shop.setCell 0x1400 { data := 0, fe := 2, w := false, code := poisonMark }) [] with
    launches := [{ second .ready with image := image }], clusters := [], strands := [],
    dv := { (duty work shop []).dv with classTgt := Vector.replicate 4 1 } }
theorem witness_dispatch : (∀ image ∈ [none, some 0x1400], let s := unplaced image; let l := { second .ready with image := image };
    s.launch? l.id = some l ∧ l.stage = .ready ∧ l.cancelled = false ∧ (∀ y ∈ s.launches, y.id = l.id) ∧
    (s.launches.map (·.id)).Nodup ∧ l.job ≤ 192 ∧ l.record.cls < 4 ∧ 0 < s.weight l.job l.record.cls ∧
    s.fit l = some (0, 0) ∧ l.record.entries.length = 1) ∧
    (check ((unplaced none).mem.cell 0x1400).data ((unplaced none).mem.cell 0x1400).code).data? = none := by decide +kernel
theorem witness_class_target : let l := second .ready
    (vget (unplaced none).dv.classTgt l.record.cls 0).toNat = 1 ∧ l.readyAt + 1024 < (unplaced none).fc ∧ l.reserved = none ∧
    ((unplaced none).longest l.record.cls).map (·.id) = some 1 ∧ (unplaced none).preemptAt l = some (0, 0) := by decide +kernel
/-- A victim. -/
def victim : Launch := { lite with preempt := true }
theorem witness_preempt : (saving victim).launch? 0 = some victim ∧ victim.preempt = true ∧ (saving victim).stoppable victim ∧
    (saving victim).noWaiters ∧ (saving victim).slotFor victim 0x1020 ∧ victim.job ≤ 192 ∧ victim.record.a ≤ 12 ∧
    victim.record.b ≤ 12 :=
  ⟨by decide +kernel, rfl, by unfold State.stoppable; decide +kernel, by unfold State.noWaiters; decide +kernel,
    ⟨0, [1], 0x1000, by decide +kernel, by decide +kernel, by decide +kernel⟩, by decide +kernel, by decide +kernel,
    by decide +kernel⟩

/-! ### Traps of suspended strands and windows (20, 22) -/

/-- A trap record on its way to the ring at 0x4000, whose cell is empty. -/
def ringing : State :=
  { job work (put heap 0x4000 0 1) [] with
    traps := [{ epc := 0x104, tval := 7, unit := 0x60, code := 0x06, pair := true, job := 1 }] }
theorem witness_trap_ring : ringing.traps.length = 1 ∧ ringing.ringOn ∧ ringing.trapCell = 0x4000 ∧
    (ringing.mem.sideAt ringing.trapCell).fe = 1 ∧ ringing.quiet ringing.trapCell ∧ ringing.writeHeld ringing.trapCell = false := by
  unfold State.ringOn State.quiet
  decide +kernel
/-- Strand 0 suspended. -/
def hanging : State := after (.svc 7) (job work heap [])
theorem witness_resumes : (hanging.strand 0).mode = .suspended ∧ (0x200 : Word64).toNat % 4 = 0 ∧ (0x201 : Word64).toNat % 4 = 1 ∧
    (hanging.cluster (0 / 8)).deque = [] ∧ hanging.launchOf 0 = some work ∧ (0x202 : Word64).toNat % 4 = 2 ∧
    (hanging.strand 0).susp.isSome = true ∧ (hanging.strand 0).intrap = false ∧ (hanging.strand 0).tvec ≠ 0 := by decide +kernel

/-- The launch in a window that holds some effects, with its page table at 0x400, which is empty. -/
def holding1 (w : Window) (held : List Held) : Launch :=
  { windowed { w with held := held } with xrec := { work.xrec with root := 0x400 } }
theorem witness_window_commits : ∀ held ∈ [[], [Held.write 0 0x1800 (freshCell 0x55 1) (some 2)], [.area 0 0x100 [7]],
      [.write 0 0x9000 (freshCell 0x55 1) none, .area 0 0x100 [7]]],
    let w := { opened true false none with held := held }; let l := holding1 w held; let s := job l heap [];
    s.launch? 0 = some l ∧ l.window = some w ∧ w.close = true ∧ w.committing = false ∧ w.voided = false ∧ w.fault = none ∧
    s.admissible l = true ∧ l.halted = false ∧ l.cancelled = false ∧ l.record.direct = false ∧ s.engAcc l 0 0x1800 true = (.ok 0x1800, s) ∧
    s.feOk 0x1800 ∧ s.quiet 0x1800 ∧ s.writeHeld 0x1800 = false ∧ s.engAcc l 0 0x9000 true = (.page true, s) := by
  unfold State.feOk State.quiet
  decide +kernel
theorem witness_window_is_old : let w := { opened false false none with opened := 0 }; let s := job (windowed w) heap [];
    w.opened + 8192 < ({ s with fc := 8192 } : State).fc + s.boundaryStep (windowed w) ∧
    ({ s with fc := 8192 } : State).admissible (windowed w) = true := by decide +kernel
/-- A window's records: element 0, tile 0 and port 0 of the region. -/
def recordsOf (fault : Option (Word64 × Nat × Bool)) (voided : Bool) : Window :=
  { opened false voided fault with tiles := [(0, Tile.reset)], ports := [(0, Port.reset)] }
theorem witness_window_voids : let w := recordsOf miss false; let l := windowed w;
    let s := { job l heap [] with ports := [(0, { Port.reset with nextId := 1 })] };
    s.launch? 0 = some l ∧ l.window = some w ∧ w.fault.isSome = true ∧ w.voided = false ∧ w.committing = false ∧
    (w.elems.map (·.1)).Nodup ∧ (∀ x ∈ w.elems, l.holds (x.1 / 12) = true) ∧ (w.tiles.map (·.1)).Nodup ∧
    (∀ x ∈ w.tiles, l.holds (x.1 / 6) = true) ∧ ∀ x ∈ w.ports, x.1 ∈ s.ports.map (·.1) := by decide +kernel
theorem witness_window_reruns : ∀ q ∈ [(0x1800, Paged.mapped), (0x9000, .never)],
    let w := recordsOf (some (5, q.1, true)) true; let l := holding1 w []; let s := job l heap [];
    s.launch? 0 = some l ∧ l.window = some w ∧ w.fault = some (5, q.1, true) ∧ w.voided = true ∧ l.halted = false ∧
    l.cancelled = false ∧ s.paged l q.1 = q.2 ∧ (s.fc - w.opened) % l.grid = 0 ∧
    l.unit? ((5 : Word64).toNat / 2 ^ 48) = some (.element 0) := by decide +kernel
theorem witness_governor_window : ((job work heap []).cluster 0).window ≠ (job work heap []).cycle / 256 := by decide +kernel
theorem witness_outside_writes : (1151 : Nat) < 1152 ∧ (8 : BitVec 16).toNat < 9 ∧ (1727 : Nat) < 1728 ∧ (3 : Nat) < 4 ∧ (192 : Nat) ≤ 192 ∧
    (job { work with cancelled := true } heap []).ownerOf 0 = some { work with cancelled := true } := by decide +kernel

/-! ### Hosts, the module and portals (23) -/

/-- Function 1 over a memory. -/
def hosting (m : Memory) (x : Func) : State := { job work m [] with funcs := [(1, x)] }
/-- A cell of job 1's heap, full or empty. -/
def hostMem (fe : BitVec 2) : Memory := put heap 0x1800 0x1122334455667788 fe
/-- A merge group that holds the line at 0x1800 back. -/
def holdsBack (s : State) : State :=
  { s with slices := [(0, { Slice.reset with merges := [{ merge 4872 0 [] with pa := 0x1800, cells := [(0, 0x1800)] }] })] }
theorem witness_host_writes : (∀ fe ∈ [1, 2], let s := hosting (hostMem fe) Func.reset;
    s.hostReaches 1 0x1818 2 0x1818 ∧ 0x1818 % 32 + 8 ≤ 32 ∧ (s.func 1).posted = [] ∧ (s.func 1).membase = 0 ∧
    s.cleanAt 0x1818 ∧ s.writeHeld 0x1818 = false ∧ s.quiet 0x1818 ∧ (s.mem.sideAt 0x1818).fe = fe ∧ s.dv.frozen = false ∧
    s.noWaiters ∧ s.feOk 0x1818 ∧ 1 ≤ s.access (homeOf 0x1818) (256 + 1)) ∧
    (hosting heap Func.reset).hostReaches 1 0x2000 0 0x2000 ∧ (hosting heap Func.reset).access (homeOf 0x2000) (256 + 1) < 2 ∧
    (holdsBack (hosting (hostMem 1) Func.reset)).writeHeld 0x1818 = true ∧
    (holdsBack (hosting (hostMem 1) Func.reset)).quiet 0x1818 := by
  unfold State.hostReaches State.cleanAt State.quiet State.noWaiters State.feOk
  refine ⟨?_, ?_⟩ <;> decide +kernel
/-- A write of nine bytes at 0x1818 goes into two cells; a posted write stands before another. -/
theorem witness_host_writes_on : 32 < 0x1818 % 32 + 9 ∧ 0x1818 % 32 + 8 = 32 ∧ 0x1818 + 32 < 2 ^ 52 ∧ 0x1818 + 8 < 2 ^ 41 ∧
    ((hosting heap { Func.reset with posted := [{ va := 0x1800, bytes := [7], fill := false, place := .none }] }).func 1).posted ≠ [] := by
  decide +kernel
/-- Function 1 with slot 15 armed, or woken, or unlisted, at 0x1800. -/
def armed (place : Place) : Func :=
  { Func.reset with waits := vset Func.reset.waits 15 { va := 0x1800, armed := true, place := place, value := 0 } }
theorem witness_host_waits : ∀ fe ∈ [1, 2], let s := hosting (hostMem fe) Func.reset;
    2 ≤ s.access (1080 + 1) (256 + 1) ∧ ((s.func 1).slot 15).place = .none ∧ s.hostReaches 1 0x1800 1 0x1800 ∧ s.cleanAt 0x1800 ∧
    (s.mem.sideAt 0x1800).fe = fe ∧ (s.slice (homeOf 0x1800)).waits.length < 64 ∧ s.hasRoom 0x1800 := by
  unfold State.hostReaches State.cleanAt State.hasRoom
  decide +kernel
theorem witness_host_wait_completes : ∀ place ∈ [.none, .woken none, .unlisted 4488], let s := hosting (hostMem 2) (armed place);
    ((s.func 1).slot 15) = { va := 0x1800, armed := true, place := place, value := 0 } ∧ 4488 + 512 ≤ s.fc ∧
    s.hostReaches 1 0x1800 1 0x1800 ∧ s.cleanAt 0x1800 ∧ (s.mem.sideAt 0x1800).fe = 2 := by
  unfold State.hostReaches State.cleanAt
  decide +kernel
/-- Functions 0 and 1 may read their control windows, function 2 may not; the module may be frozen. -/
def windows (frozen : Bool) : State :=
  { job work heap [] with dv := { (job work heap []).dv with access := rights ++ [(256 * 1080 + 64, 0xFF)], frozen := frozen } }
theorem witness_control_windows : (windows false).access (1080 + 0) (256 + 0) = 3 ∧ (windows true).access (1080 + 0) (256 + 0) = 3 ∧
    (windows true).access (1080 + 1) (256 + 1) = 3 ∧ (windows true).access (1080 + 2) (256 + 2) = 0 ∧ (windows true).dv.frozen = true ∧
    0xFFF8 % 8 = 0 ∧ 0xFFF8 < 2 ^ 16 ∧ ((windows false).func 1).slot 15 = WaitSlot.empty := by decide +kernel

/-- What is examined again: a command of port 0 that takes the cell at 0x1040; slot 15 of function 1 at 0x1800; and the
function's oldest write there. -/
def waiting3 (fe : BitVec 2) (place : Place) (fill : Bool) : State :=
  { movingIn stream (put (put heap 0x1040 0x77 fe) 0x1800 7 fe) (takeCmd place) 2 [] with
    funcs := [(1, { armed place with posted := [{ va := 0x1800, bytes := [7], fill := fill, place := place }] })] }
theorem witness_waits_run_again : (∀ fe ∈ [1, 2], ∀ place ∈ [.woken none, .unlisted 4488],
      (waiting3 fe place true).takesCell 0 0 3 stream (takeCmd place)) ∧
    ∀ fe ∈ [1, 2], ∀ place ∈ [.woken none, .unlisted 4488], let s := waiting3 fe place true;
    s.engAcc stream 0 (crMem (takeCmd place).record 0) false = (.ok 0x1040, s) ∧
    (s.mem.sideAt 0x1040).fe = fe ∧ s.quiet 0x1040 ∧ s.writeHeld 0x1040 = false ∧ 1 < (takeCmd place).budget.toNat ∧
    ((s.func 1).slot 15).place = place ∧ ((s.func 1).slot 15).va.toNat = 0x1800 ∧ s.hostReaches 1 0x1800 2 0x1800 ∧
    s.cleanAt 0x1800 ∧ s.quiet 0x1800 ∧ s.writeHeld 0x1800 = false ∧ (s.mem.sideAt 0x1800).fe = fe ∧ s.feOk 0x1800 ∧
    (s.func 1).posted = [{ va := 0x1800, bytes := [7], fill := true, place := place }] := by
  unfold State.takesCell State.hostReaches State.cleanAt State.quiet State.feOk
  refine ⟨?_, ?_⟩ <;> decide +kernel
theorem witness_examined_again : (waiting3 1 (.woken none) true).examines (.host 1 15) (.woken none) (.accessReexamine (.host 1 15)) ∧
    (waiting3 1 (.unlisted 4488) true).examines (.host 1 15) (.unlisted 4488) (.unlistedReexamine (.host 1 15)) ∧
    ((waiting3 2 .none false).func 1).posted = [{ va := 0x1800, bytes := [7], fill := false, place := .none }] :=
  ⟨.inl ⟨rfl, rfl⟩, .inr ⟨4488, rfl, by decide +kernel, rfl⟩, by decide +kernel⟩

/-- The module is ready, and a period of the power governor has passed. -/
def governed : State := { job work heap [] with fc := 4000000, dv := { (job work heap []).dv with readyBit := true } }
theorem witness_module_control : (∀ x ∈ governed.slices, ∀ y ∈ x.2.lines, y.back = []) ∧ governed.dv.readyBit = true ∧
    governed.dv.tick < governed.cycle / 4000000 ∧ 2 ≤ governed.access (1080 + 1) (256 + 1) ∧ (0x5B : BitVec 56) ≠ 0x5A ∧
    unitAbs 0x0020 = some (.tile 0) ∧ governed.holderOf (.tile 0) = some work ∧ State.reset.holderOf (.tile 0) = none ∧
    unitAbs 0x0000 = some (.element 0) ∧ governed.holderOf (.element 0) = some work ∧ work.halted = false ∧
    (UnitRef.element 12).cluster = some 1 ∧ governed.ownerOf 1 = none ∧ (governed.tile 0).watch = [] := by decide +kernel

/-- The launch with a route from portal 0's replies to input 7 of element 0. -/
def answered : Launch := { work with routes := [0x0040100007000000] }
/-- A portal of an operator. -/
def portal (op : Nat) (wire : List Token) (reqs : List PortalReq) : Portal :=
  { word := BitVec.ofNat 32 op, base := 0, peerJob := 1, wire := wire, reqs := reqs, count := 3, worst := 1 }
/-- The state with that portal in tile 0, and some tokens in the input that takes its replies. -/
def asking (q : Portal) (n : Nat) : State :=
  { job answered heap [] with
    fc := 200000000, ports := [(0, { Port.reset with portal := some q })],
    elements := [(0, (holding []).setInp 7 { wire := [], buf := List.replicate n (makeToken 0 12 0 1), part := [] })] }
/-- A request without and one with a reply. -/
def asked (reply : Option (Word64 × BitVec 2)) : PortalReq := { tok := makeToken 5 12 0 1, sent := 0, reply := reply }

theorem portal_is (q : Portal) (n : Nat) : (asking q n).portalIs 0 answered q := by
  have h : ({ job answered heap [] with fc := 200000000 }).liveAt 0 = some answered := by decide +kernel
  refine ⟨?_, ?_⟩
  · exact h
  · simp [asking, State.port, tabGet]
theorem witness_portal_request : ∀ op ∈ [0, 9], (portal op [makeToken 5 12 0 1] []).word.toNat % 16 = op ∧
    (portal op [makeToken 5 12 0 1] []).reqs.length < 64 ∧ (makeToken 5 12 0 1).fin = false ∧ (makeToken 5 12 0 1).sw = false ∧
    (makeToken 5 12 0 1).tag = 12 ∧ codesFit (makeToken 5 12 0 1).data (makeToken 5 12 0 1).code0 (makeToken 5 12 0 1).code1 := by
  unfold codesFit
  decide +kernel
theorem witness_portal_reply : ∀ op ∈ [8, 9], let q := portal op [] [asked (some (1, 0)), asked none]
    q.waiting 1 (asked none) ∧ (asking q 4).forkRoom answered (answered.replyFork 0) = false ∧
    (asked none).sent + 200000000 ≤ (asking q 4).fc := by
  intro op hop
  refine ⟨⟨rfl, rfl, ?_⟩, ?_, show 200000000 ≤ 200000000 by decide⟩
  rotate_left
  · revert op
    decide +kernel
  intro j x hj hx
  obtain rfl : j = 0 := by omega
  rw [← Option.some.inj hx]
  rfl
theorem witness_portal_sends : let q := portal 8 [] [asked (some (1, 0))]
    q.reqs = [asked (some (1, 0))] ∧ (∀ x ∈ q.reqs, x.reply.isSome = true) ∧
    (asking q 3).forkRoom answered (answered.replyFork 0) = true := by decide +kernel
theorem witness_portal_put : let q := portal 11 [makeToken 5 12 0 1, markerToken 12 0 1] []
    q.word.toNat % 16 = 11 ∧ (makeToken 5 12 0 1).fin = false ∧ (makeToken 5 12 0 1).sw = false ∧ (markerToken 12 0 1).fin = true ∧
    (asking q 3).forkRoom answered (answered.replyFork 0) = true := by decide +kernel
/-- A peer's port 0 has every right at slice 0. -/
def peered : State := { job work (put (put heap 0x1800 7 2) 0x1820 9 1) [] with
  dv := { (job work heap []).dv with access := rights ++ [(128, 0xFF)] } }
theorem witness_peer_requests : (∀ q ∈ [(0x1818, 1), (0x1800, 1), (0x1820, 1)], let pa := q.1;
      (peered.xrecOf 1).inHeap pa = true ∧ (pa + (peered.xrecOf 1).hoff) % 2 ^ 44 = pa ∧ 3 ≤ peered.access (homeOf pa) (512 + 0) ∧
      peered.feOk pa ∧ peered.writeHeld pa = false ∧ peered.cleanAt pa ∧ peered.quiet pa ∧ peered.hasRoom pa) ∧
    0x1818 % 8 = 0 ∧ 0x1800 % 64 = 0 ∧ (∀ i, i < 48 → (peered.dv.jobtab.toNat + 64 * 1 + i) / 64 ≠ 0x1800 / 64) := by
  unfold State.feOk State.cleanAt State.quiet State.hasRoom
  refine ⟨?_, ?_⟩ <;> decide +kernel

/-! ### Encodings and steps -/

theorem witness_no_two_words : decodeWord 0x40A07960 = .ok (.addI 5 0 0x7960) ∧
    decodeSlot 0x330C8300 = .ok (.cvt 3 { trig := 12, dst := 4, srcA := 3, srcB := 0, deqA := false, deqB := false, bit0 := false }) :=
  ⟨rfl, rfl⟩
/-- The reset state with a word, or a pair, at the supervisor strand's program counter. -/
def fetching (nbits w : Nat) : State := State.reset.withFetchWord nbits w
/-- What the strand that issues fetches at its program counter. -/
def fetched (s : State) (k : Nat) : Word64 → Option Word32 := fun off =>
  match (s.atIssue (k / 8) (k % 8) false []).fetchWord ((s.atIssue (k / 8) (k % 8) false []).cur.pc + off) with
  | (.word w, _) => some w
  | _ => none
theorem witness_steps_issue : ∀ w ∈ [(32, 0x40A07960), (64, 0x40A07960FFFFFFFE), (32, 0x00C32FFF)],
    (fetching w.1 w.2).issues 64 7 false [] ∧ fetched (fetching w.1 w.2) 519 0 = some (BitVec.ofNat 32 w.2) ∧
    fetched (fetching w.1 w.2) 519 4 = some (BitVec.ofNat 32 (w.2 / 2 ^ 32)) := by
  unfold State.issues
  decide +kernel
theorem witness_words_decode : decode (bytesOf 0x40A07960) = .ok (.addI 5 0 0x7960, []) ∧
    (match decode (bytesOf 0x00C32FFF) with
      | .ok _ => false
      | .error _ => true) = true ∧ (0xFFFFFFFE : Word32).extractLsb' 26 6 = 0x3F ∧
    decode (bytesOf 0xFFFFFFFE ++ bytesOf 0x40A07960) = .ok (.xiPrefix 0x3FFFFFE 0x40A07960, []) := by decide +kernel
/-- The strand's program counter stands past the address space. -/
def astray : State :=
  (fetching 32 0).setStrand 519 { (fetching 32 0).strand 519 with pc := 0x10000000000000 }
theorem witness_fetch_traps : astray.issues 64 7 false [] ∧
    (match (astray.atIssue 64 7 false []).fetchWord (astray.atIssue 64 7 false []).cur.pc with
      | (.trap code tval, _) => code == 0x05 && tval == 0x10000000000000
      | _ => false) = true := by
  unfold State.issues
  decide +kernel
/-- A prefix in a cell's last word, before a cell that is poisoned or that a store of the strand still goes to. -/
def parting (stored : Bool) : State :=
  let s := fetching 32 0
  let q : Posted := { va := 0x20, pa := 0x20, size := 8, value := 0, share := 0, fill := false, atSlice := false }
  (s.setMem ((s.mem.setCell 0 (freshCell (0xFFFFFFFE#256 <<< 224) 2)).setCell 0x20
    { data := 0, fe := 2, w := false, code := if stored then 0 else poisonMark })).setStrand 519
    { s.strand 519 with pc := 0x1C, posted := if stored then [q] else [] }
theorem witness_second_fetches : (∀ stored ∈ [false, true], (parting stored).issues 64 7 false [] ∧
    fetched (parting stored) 519 0 = some 0xFFFFFFFE) ∧
    (match ((parting false).atIssue 64 7 false []).fetchWord 0x20 with
      | (.trap code tval, _) => code == 0x07 && tval == 0x20
      | _ => false) = true ∧
    (match ((parting true).atIssue 64 7 false []).fetchWord 0x20 with
      | (.wait, _) => true
      | _ => false) = true := by
  unfold State.issues
  decide +kernel
/-- Slot 0 of element 0 holds an FMS of registers. -/
def slotted : State := fetching 32 0x01000210
theorem witness_slot_fires : slotted.oneSlot 0 0 (State.withFetchWord.placeLaunch 0) [] ∧
    (decodeSlot (((slotted.atCycle 0 []).element 0).slotWord 0)).toOption.isSome = true := by
  unfold State.oneSlot
  decide +kernel
theorem witness_events_and_freezes : turnEvent .coldReset = true ∧ turnEvent .dispatchPass = true ∧ outsideEvent .dispatchPass = false ∧
    outsideEvent .coldReset = true ∧ ({ fetching 32 0 with dv := { Device.reset with frozen := true } }).turns = [.issue 64] := by
  decide +kernel
theorem witness_canonical : heap.wf = true ∧ (∀ x ∈ heap.side ++ heap.side, x.1 % 32 = 0) ∧ Memory.empty.wf = true := by decide +kernel
theorem witness_encodings : (Instr.addI 31 31 0xFFFF).wf = true ∧ (Instr.xiPrefix 0x3FFFFFE 0x40A07960).wf = true ∧
    (Instr.fdiv true plainSlot).wf = true ∧ (encode (.addI 31 31 0xFFFF)).length = 1 ∧
    (encode (.xiPrefix 0x3FFFFFE 0x40A07960)).length = 2 := by decide +kernel
theorem witness_kept : Kept { State.reset with fc := 1 } :=
  ⟨by decide, fun k => by simp [State.reset, tabGet, Strand.kept, Strand.reset], by unfold Device.kept; decide⟩

end Sys2Proof.Tests
end

section
/-! PROOFS. The sequencer's integer, branch, jump and return instructions (06 R93, R95 to R97, R102): what a completing
instruction changes and leaves, the immediates as numbers, the integer table's functions, and the statements of that family. -/

open Sys2Proof

namespace Sys2Proof.Machine

/-! ### Completing an instruction: the frame -/

theorem State.onlyStrand_setStrand (s : State) (k : Nat) (x : Strand) : s.onlyStrand (s.setStrand k x) k :=
  ⟨rfl, fun j hj => by rw [State.setStrand_strand, if_neg hj]⟩

theorem State.wordPc_eq_at (s : State) : s.wordPc = s.at := by
  unfold State.wordPc State.at State.isPair
  split
  · rfl
  · exact (BitVec.add_zero _).symm

theorem State.nextPc_eq_at_add (s : State) : s.nextPc = s.at + 4 := congrArg (· + 4) s.wordPc_eq_at

theorem State.nextPc_eq_after (s : State) : s.nextPc = s.after := by
  rw [State.nextPc_eq_at_add]
  unfold State.at State.after
  split <;> rw [BitVec.add_assoc] <;> rfl

theorem State.went_goto (s : State) (a : Word64) : s.went (s.goto a) a :=
  ⟨s.onlyStrand_setStrand _ _, s.goto_cur a⟩

theorem State.went_retire (s : State) : s.went s.retire s.after := by
  unfold State.retire
  rw [State.nextPc_eq_after]
  exact s.went_goto s.after

/-- `setReg` and then `goto` are one update of the issuing strand. -/
theorem State.goto_setReg_eq (s : State) (r : GReg) (v a : Word64) :
    (s.setReg r v).goto a = s.setCur { s.cur.setReg r v with pc := a, mode := .ready, pend := none } := by
  unfold State.goto
  rw [State.setReg_cur]
  exact State.setCur_setCur _ _ _

theorem Strand.setReg_with_g (x : Strand) (r : GReg) (v : Word64) : { x.setReg r v with g := x.g } = x := by
  unfold Strand.setReg
  split <;> rfl

theorem State.wrote_goto_setReg (s : State) (gd : GReg) (v a : Word64) : s.wrote ((s.setReg gd v).goto a) gd v a := by
  refine ⟨?_, ?_, fun q => ?_⟩
  · rw [State.goto_setReg_eq]
    exact s.onlyStrand_setStrand _ _
  · rw [State.goto_setReg_eq, State.cur_setCur]
    exact congrArg (fun x : Strand => { x with pc := a, mode := .ready, pend := none }) (s.cur.setReg_with_g gd v)
  · rw [State.goto_reg, State.reg_setReg]

theorem State.wrote_retireReg (s : State) (gd : GReg) (v : Word64) : s.wrote (s.retireReg gd v) gd v s.after := by
  unfold State.retireReg State.retire
  rw [State.setReg_nextPc, State.nextPc_eq_after]
  exact s.wrote_goto_setReg gd v s.after

/-! ### Immediates and offsets as numbers (04 R59, R60, R62) -/

/-- In a pair, the first word's 26 bits stand above the second's field of n bits (04 R62). -/
theorem toInt_append_hi {n : Nat} (h : BitVec 26) (x : BitVec n) :
    (h ++ x).toInt = h.toInt * 2 ^ n + x.toNat := by
  rw [BitVec.toInt_append, mul_comm]
  rfl

theorem toNat_append_hi {n : Nat} (h : BitVec 26) (x : BitVec n) :
    (h ++ x).toNat = h.toNat * 2 ^ n + x.toNat := by
  rw [BitVec.toNat_append, ← Nat.shiftLeft_add_eq_or_of_lt x.isLt, Nat.shiftLeft_eq]

theorem State.sext16_eq (s : State) (imm : BitVec 16) : s.sext16 imm = BitVec.ofInt 64 (s.immInt imm) := by
  unfold State.sext16 State.immInt
  cases s.issue.hi with
  | none => rfl
  | some h => exact congrArg (BitVec.ofInt 64) (toInt_append_hi h imm)

theorem State.zext16_eq (s : State) (imm : BitVec 16) : s.zext16 imm = BitVec.ofInt 64 (s.immNat imm) := by
  rw [BitVec.ofInt_natCast]
  unfold State.zext16 State.immNat
  cases s.issue.hi with
  | none => exact (BitVec.ofNat_toNat 64 imm).symm
  | some h => exact (BitVec.ofNat_toNat 64 _).symm.trans (congrArg (BitVec.ofNat 64) (toNat_append_hi h imm))

theorem State.sext26_eq (s : State) (off : BitVec 26) : s.sext26 off = BitVec.ofInt 64 (s.offInt off) := by
  unfold State.sext26 State.offInt
  cases s.issue.hi with
  | none => rfl
  | some h => exact congrArg (BitVec.ofInt 64) (toInt_append_hi h off)

/-- A word offset is scaled to bytes by a shift. -/
theorem ofInt_shiftLeft_two (n : Int) : BitVec.ofInt 64 n <<< 2 = BitVec.ofInt 64 (4 * n) := by
  rw [BitVec.ofInt_mul, BitVec.mul_comm, BitVec.shiftLeft_eq_mul_twoPow]
  rfl

/-! ### The functions of the integer table (06 R93) -/

theorem ofInt_tdiv_eq_sdiv (x y : Word64) : BitVec.ofInt 64 (x.toInt.tdiv y.toInt) = x.sdiv y := by
  rw [← BitVec.toInt_inj, BitVec.toInt_sdiv, BitVec.toInt_ofInt]

/-- The wrapped quotient −2^63 / −1 needs no case of its own: `sdiv` wraps alike. -/
theorem divS_eq (x y : Word64) : divS x y = if y = 0 then 0 else x.sdiv y := by
  unfold divS
  rw [ofInt_tdiv_eq_sdiv]
  split
  · rfl
  · split
    next hxy =>
      rw [← ofInt_tdiv_eq_sdiv, hxy.1, hxy.2, ← BitVec.toInt_inj, hxy.1]
      rfl
    · rfl

theorem ofInt_tmod_eq_srem (x y : Word64) :
    BitVec.ofInt 64 (x.toInt - y.toInt * x.toInt.tdiv y.toInt) = x.srem y := by
  rw [← Int.tmod_def, ← BitVec.toInt_srem, BitVec.ofInt_toInt]

/-- Nor does the remainder of −2^63 by −1, which is 0. -/
theorem remS_eq (x y : Word64) : remS x y = if y = 0 then x else x.srem y := by
  unfold remS
  rw [ofInt_tmod_eq_srem]
  split
  · rfl
  · split
    next hxy =>
      rw [← ofInt_tmod_eq_srem, hxy.1, hxy.2]
      rfl
    · rfl

theorem divU_eq (x y : Word64) : divU x y = if y = 0 then 0 else x / y := by
  unfold divU
  rw [← BitVec.toNat_udiv, BitVec.ofNat_toNat, BitVec.setWidth_eq]

theorem remU_eq (x y : Word64) : remU x y = if y = 0 then x else x % y := by
  unfold remU
  rw [← BitVec.toNat_umod, BitVec.ofNat_toNat, BitVec.setWidth_eq]

theorem shiftL_eq (x : Word64) (c : Nat) : shiftL x c = x <<< c := by
  unfold shiftL
  rw [← Nat.shiftLeft_eq]
  rfl

theorem shiftR_eq (x : Word64) (c : Nat) : shiftR x c = x >>> c := by
  unfold shiftR
  rw [← Nat.shiftRight_eq_div_pow, ← BitVec.toNat_ushiftRight, BitVec.ofNat_toNat, BitVec.setWidth_eq]

theorem shiftA_eq (x : Word64) (c : Nat) : shiftA x c = x.sshiftRight c := by
  unfold shiftA BitVec.sshiftRight
  rw [Int.shiftRight_eq_div_pow]
  rfl

/-- The length of the run before the first m at which p holds, or of the whole range. -/
theorem length_takeWhile_range {p : Nat → Bool} {m n : Nat} (hmn : m ≤ n) (hlt : ∀ i, i < m → p i = false)
    (hm : m < n → p m = true) : ((List.range n).takeWhile (fun i => !p i)).length = m := by
  obtain ⟨k, rfl⟩ := Nat.exists_eq_add_of_le hmn
  have hbefore : ∀ i ∈ List.range m, (!p i) = true := fun i hi => by rw [hlt i (List.mem_range.mp hi)]; rfl
  rw [List.range_add, List.takeWhile_append_of_pos hbefore, List.length_append, List.length_range]
  cases k with
  | zero => rfl
  | succ k =>
    have hp : p m = true := hm (by omega)
    rw [List.range_succ_eq_map, List.map_cons, List.takeWhile_cons_of_neg (by simp [hp])]
    rfl

theorem countLead_eq (x : Word64) : countLead x = runLength x.getMsbD := by
  unfold countLead runLength
  split
  next h =>
    rw [length_takeWhile_range (Nat.le_refl 64) (fun i _ => by simp [h]) (fun h => absurd h (Nat.lt_irrefl _))]
    rfl
  next h =>
    have hx : x.toNat ≠ 0 := fun e => h (BitVec.eq_of_toNat_eq e)
    have hlog : x.toNat.log2 < 64 := (Nat.log2_lt hx).mpr x.isLt
    rw [length_takeWhile_range (m := 63 - x.toNat.log2) (by omega)]
    · intro i hi
      rw [BitVec.getMsbD, BitVec.getLsbD, Nat.testBit_lt_two_pow (lt_of_lt_of_le Nat.lt_log2_self
        (Nat.pow_le_pow_right (by decide) (by omega))), Bool.and_false]
    · intro _
      have hat : 64 - 1 - (63 - x.toNat.log2) = x.toNat.log2 := by omega
      rw [BitVec.getMsbD, BitVec.getLsbD, hat, Nat.testBit_log2 hx, Bool.and_true, decide_eq_true_eq]
      omega

theorem trailFrom_eq (n a : Nat) : trailFrom a n = ((List.range n).takeWhile (fun i => !a.testBit i)).length := by
  induction n generalizing a with
  | zero => rfl
  | succ n ih =>
    rw [trailFrom, List.range_succ_eq_map]
    split
    next h => simp [Nat.testBit_zero, h]
    next h =>
      rw [ih, List.takeWhile_cons_of_pos (by simpa [Nat.testBit_zero] using h), List.takeWhile_map, List.length_cons,
        List.length_map, Nat.add_comm]
      simp only [Function.comp_def, Nat.succ_eq_add_one, Nat.testBit_succ]

theorem countTrail_eq (x : Word64) : countTrail x = runLength x.getLsbD :=
  congrArg (BitVec.ofNat 64) (trailFrom_eq 64 x.toNat)

theorem onesFrom_eq (n a : Nat) : onesFrom a n = (List.range n).countP a.testBit := by
  induction n generalizing a with
  | zero => rfl
  | succ n ih =>
    have hshift : a.testBit ∘ Nat.succ = (a / 2).testBit := funext fun i => Nat.testBit_succ a i
    rw [onesFrom, ih, List.range_succ_eq_map, List.countP_cons, List.countP_map, hshift, Nat.testBit_zero, Nat.add_comm]
    rcases Nat.mod_two_eq_zero_or_one a with h | h <;> simp [h]

theorem countOnes_eq (x : Word64) : countOnes x = BitVec.ofNat 64 ((List.range 64).countP x.getLsbD) :=
  congrArg (BitVec.ofNat 64) (onesFrom_eq 64 x.toNat)

theorem minS_eq (x y : Word64) : minS x y = if x.sle y then x else y := by
  simp only [minS, BitVec.sle_iff_toInt_le]

theorem maxS_eq (x y : Word64) : maxS x y = if x.sle y then y else x := by
  simp only [maxS, BitVec.sle_iff_toInt_le]

theorem lessS_eq (x y : Word64) : lessS x y = if x.slt y then 1 else 0 := by
  simp only [lessS, BitVec.slt_iff_toInt_lt]

/-! ### The integer instructions (06 R93) -/

theorem State.next_retireReg_congr (s : State) (gd : GReg) {v w : Word64} (h : v = w) :
    (.next (s.retireReg gd v) : Out) = .next (s.retireReg gd w) := by rw [h]

theorem exec_of_aluRow {i : Instr} {gd ga gb : GReg} {f : Word64 → Word64 → Word64} (s : State)
    (h : aluRow i = some (gd, ga, gb, f)) : exec i s = .next (s.retireReg gd (f (s.reg ga) (s.reg gb))) :=
  match i, h with
  | .add .., rfl | .sub .., rfl | .mul .., rfl | .mulh .., rfl | .mulhu .., rfl => rfl
  | .and .., rfl | .or .., rfl | .xor .., rfl => rfl
  | .div .., rfl => s.next_retireReg_congr _ (divS_eq _ _)
  | .divu .., rfl => s.next_retireReg_congr _ (divU_eq _ _)
  | .rem .., rfl => s.next_retireReg_congr _ (remS_eq _ _)
  | .remu .., rfl => s.next_retireReg_congr _ (remU_eq _ _)
  | .shl .., rfl => s.next_retireReg_congr _ (shiftL_eq _ _)
  | .shr .., rfl => s.next_retireReg_congr _ (shiftR_eq _ _)
  | .sar .., rfl => s.next_retireReg_congr _ (shiftA_eq _ _)
  | .clz .., rfl => s.next_retireReg_congr _ (countLead_eq _)
  | .ctz .., rfl => s.next_retireReg_congr _ (countTrail_eq _)
  | .popc .., rfl => s.next_retireReg_congr _ (countOnes_eq _)
  | .min .., rfl => s.next_retireReg_congr _ (minS_eq _ _)
  | .max .., rfl => s.next_retireReg_congr _ (maxS_eq _ _)
  | .slt .., rfl => s.next_retireReg_congr _ (lessS_eq _ _)
  | .minu .., rfl | .maxu .., rfl | .sltu .., rfl => rfl

/-- The count of an I-form shift, as the table's second operand (04 R59). -/
theorem toNat_ofInt_count (c : BitVec 6) : (BitVec.ofInt 64 c.toNat).toNat = c.toNat := by
  rw [BitVec.ofInt_natCast, BitVec.toNat_ofNat]
  exact Nat.mod_eq_of_lt (by omega)

theorem exec_of_aluImmRow {i : Instr} {gd ga : GReg} {b : Int} {f : Word64 → Word64 → Word64} (s : State)
    (h : aluImmRow s i = some (gd, ga, b, f)) :
    exec i s = .next (s.retireReg gd (f (s.reg ga) (BitVec.ofInt 64 b))) :=
  match i, h with
  | .addI .., rfl | .mulI .., rfl | .sltuI .., rfl => by rw [← State.sext16_eq]; rfl
  | .andI .., rfl | .orI .., rfl | .xorI .., rfl => by rw [← State.zext16_eq]; rfl
  | .shlI .., rfl => by simp only [toNat_ofInt_count]; exact s.next_retireReg_congr _ (shiftL_eq _ _)
  | .shrI .., rfl => by simp only [toNat_ofInt_count]; exact s.next_retireReg_congr _ (shiftR_eq _ _)
  | .sarI .., rfl => by simp only [toNat_ofInt_count]; exact s.next_retireReg_congr _ (shiftA_eq _ _)
  | .minI .., rfl => by rw [← State.sext16_eq]; exact s.next_retireReg_congr _ (minS_eq _ _)
  | .maxI .., rfl => by rw [← State.sext16_eq]; exact s.next_retireReg_congr _ (maxS_eq _ _)
  | .sltI .., rfl => by rw [← State.sext16_eq]; exact s.next_retireReg_congr _ (lessS_eq _ _)

/-- Settles O1: every row of the table retires with its result, and `retireReg` writes one register and nothing else. -/
theorem integerTable : Obligations.IntegerTable :=
  ⟨fun _ gd _ _ _ s h => ⟨_, exec_of_aluRow s h, s.wrote_retireReg gd _⟩,
   fun _ gd _ _ _ s h => ⟨_, exec_of_aluImmRow s h, s.wrote_retireReg gd _⟩⟩

/-! ### Branches and jumps (06 R95 to R97) -/

theorem State.went_branch (s : State) (c : Bool) (off : BitVec 16) :
    s.went (s.branch c off) (if c then s.at + BitVec.ofInt 64 (4 * s.immInt off) else s.after) := by
  unfold State.branch
  cases c with
  | false => exact s.went_retire
  | true =>
    rw [State.sext16_eq, ofInt_shiftLeft_two, State.wordPc_eq_at]
    exact s.went_goto _

theorem exec_of_branchRow {i : Instr} {ga gb : GReg} {off : BitVec 16} {test : Word64 → Word64 → Bool} (s : State)
    (h : branchRow i = some (ga, gb, off, test)) : exec i s = .next (s.branch (test (s.reg ga) (s.reg gb)) off) :=
  match i, h with
  | .beq .., rfl | .bne .., rfl | .blt .., rfl | .bge .., rfl | .bltu .., rfl | .bgeu .., rfl => rfl

/-- Settles O3: each row branches on the table's test, taken or not. -/
theorem branches : Obligations.Branches :=
  fun _ _ _ off _ s h => ⟨_, exec_of_branchRow s h, s.went_branch _ off⟩

/-- The target of a J format (06 R96). -/
theorem State.jumpTarget_eq (s : State) (off : BitVec 26) :
    s.wordPc + (s.sext26 off <<< 2) = s.at + BitVec.ofInt 64 (4 * s.offInt off) := by
  rw [State.sext26_eq, ofInt_shiftLeft_two, State.wordPc_eq_at]

theorem exec_j (off : BitVec 26) (s : State) :
    exec (.j off) s = .next (s.goto (s.at + BitVec.ofInt 64 (4 * s.offInt off))) := by
  rw [← State.jumpTarget_eq]
  rfl

theorem exec_jal (off : BitVec 26) (s : State) : exec (.jal off) s =
    .next ((s.setReg 31 (s.at + 4)).goto (s.at + BitVec.ofInt 64 (4 * s.offInt off))) := by
  rw [← State.jumpTarget_eq, ← State.nextPc_eq_at_add]
  rfl

theorem exec_jalr (gd ga : GReg) (imm : BitVec 16) (s : State) : exec (.jalr gd ga imm) s =
    .next ((s.setReg gd (s.at + 4)).goto ((s.reg ga + BitVec.ofInt 64 (s.immInt imm)) &&& ~~~3)) := by
  rw [← State.sext16_eq, ← State.nextPc_eq_at_add]
  rfl

/-- Settles O4: J only goes to its target; JAL and JALR also write the link register. -/
theorem jumps : Obligations.Jumps :=
  ⟨fun off s => ⟨_, exec_j off s, s.went_goto _⟩,
   fun off s => ⟨_, exec_jal off s, s.wrote_goto_setReg 31 _ _⟩,
   fun gd ga imm s => ⟨_, exec_jalr gd ga imm s, s.wrote_goto_setReg gd _ _⟩⟩

/-! ### Taking a trap (06 R92, R101) -/

theorem supervisorRouted_iff (code : BitVec 8) :
    supervisorRouted code.toNat = true ↔ code ∈ [0x04, 0x06, 0x0D, 0x1F] := by
  simp [supervisorRouted, BitVec.toNat_eq, or_assoc]

theorem toNat_abs_strand {k : Nat} (hk : k < 1152) :
    (UnitRef.strand k).abs.toNat = 256 * (k / 8) % 65536 + 96 + k % 8 := by
  have h : 256 * (k / 8) + (96 + k % 8) < 2 ^ 16 := by omega
  change (BitVec.ofNat 16 (256 * (k / 8) + (96 + k % 8))).toNat = _
  rw [BitVec.toNat_ofNat, Nat.mod_eq_of_lt h]
  omega

/-- SQ_TRAPCAUSE as a number: PAIR stands above the code (06 R91). -/
theorem ofBool_append_code (pair : Bool) (code : BitVec 8) :
    BitVec.ofBool pair ++ code = BitVec.ofNat 9 ((if pair then 256 else 0) + code.toNat) := by
  apply BitVec.eq_of_toNat_eq
  rw [BitVec.toNat_append, ← Nat.shiftLeft_add_eq_or_of_lt code.isLt, BitVec.toNat_ofNat, Nat.shiftLeft_eq]
  cases pair <;> simp <;> omega

theorem State.handedOver_suspend {s : State} (hk : s.issue.k < 1152) (hring : s.ringOn) (code : BitVec 8)
    (tval epc : Word64) : s.handedOver (s.suspend s.issue.k code tval epc s.isPair) code tval epc := by
  have hbits : bits s.dv.trapring.toNat 0 5 ≠ 0 := hring
  unfold State.suspend
  rw [if_neg hbits]
  refine ⟨_, rfl, rfl, rfl, rfl, rfl, toNat_abs_strand hk, rfl, rfl, ?_, ?_⟩
  · exact (s.onlyStrand_setStrand _ _).2
  · exact s.cur_setCur _

theorem State.trapped_takeTrap {s : State} (hk : s.issue.k < 1152) (hring : s.ringOn) (code : BitVec 8)
    (tval epc : Word64) : s.trapped (s.takeTrap s.issue.k code tval epc s.isPair) code tval epc := by
  unfold State.trapped
  rcases s.takeTrap_cases s.issue.k code tval epc s.isPair with
    ⟨hsuper, ht⟩ | ⟨hjob, hdouble, ht⟩ | ⟨hjob, hin, hvec, ht⟩
  · rw [if_pos ((supervisorRouted_iff code).mp hsuper), ht]
    exact State.handedOver_suspend hk hring code tval epc
  · have hdouble' : s.cur.intrap = true ∨ s.cur.tvec = 0 := hdouble
    rw [if_neg (by rw [← supervisorRouted_iff, hjob]; decide), if_pos hdouble', ht]
    exact State.handedOver_suspend hk hring 0x0D _ epc
  · have hhandler : ¬(s.cur.intrap = true ∨ s.cur.tvec = 0) := by
      rintro (h | h)
      · exact absurd (hin.symm.trans h) (by decide)
      · exact hvec h
    rw [if_neg (by rw [← supervisorRouted_iff, hjob]; decide), if_neg hhandler, ht, ofBool_append_code]
    exact ⟨s.onlyStrand_setStrand _ _, s.cur_setCur _⟩

/-! ### Returning from a trap (06 R102) -/

theorem tvalWord_rett : tvalWord .rett = 0xD0000000 := by decide

theorem exec_rett (s : State) : exec .rett s =
    .next (if s.cur.priv = true ∨ s.cur.intrap = true then s.returnFromTrap else s.illegal 0xD0000000) := by
  change execRett s = _
  unfold execRett
  rw [tvalWord_rett]
  cases s.cur.priv <;> cases s.cur.intrap <;> rfl

/-- Settles O7: RETT returns to SQ_EPC, and outside a handler a job strand's RETT takes a trap like any other. -/
theorem returnFromTrap : Obligations.ReturnFromTrap := by
  intro s
  constructor
  · intro h
    rw [exec_rett, if_pos h]
    exact ⟨_, rfl, s.onlyStrand_setStrand _ _, s.returnFromTrap_cur⟩
  · intro hpriv hin hk hring
    rw [exec_rett, if_neg (by simp [hpriv, hin])]
    exact ⟨_, rfl, State.trapped_takeTrap hk hring _ _ _⟩

end Sys2Proof.Machine
end
